-- ==== Sys2Proof/Word.lean ====
section
/-! DEFINITION. The machine's word types: bytes, 32-bit register words, 64-bit words, and the mask of the 32 lanes of a
squad (R3, R68). -/

namespace Sys2Proof

/-- One byte of any memory space. -/
abbrev Byte := BitVec 8

/-- A 32-bit register word of one lane (R68). -/
abbrev Word := BitVec 32

/-- A 64-bit word: a register pair, an instruction word, a clause header (R68, R78, R83). -/
abbrev DWord := BitVec 64

/-- An 8-bit operand code of an instruction word (R85). -/
abbrev Code := BitVec 8

/-- A set of lanes of a squad: bit l stands for lane l (R3, R21). -/
abbrev LaneMask := BitVec 32

end Sys2Proof
end

