-- ==== Sys2Proof/Syntax.lean ====
section
/-! DEFINITION. The instructions and engine events of spec/opcode_table.json: one constructor of `Instr` per row. An
instruction constructor holds the operand fields of its format as they stand in the word (ignored ones too, so that no bit
is dropped) and its modifier fields as typed codes. An event constructor names the unit it happens at and carries what the
outside world or timing decides (which request, which packet, which line). -/

namespace Sys2Proof

/-! ### Field types shared by many rows -/

/-- The guard of an instruction word: flag number and inversion (R83). -/
structure Guard where
  inv : Bool
  flag : BitVec 3
  deriving DecidableEq, Repr

/-- Operand fields of format R (R84). -/
structure FormR where
  g : Guard
  dst : Code
  a : Code
  b : Code
  c : Code
  hold : BitVec 2
  slot : BitVec 2
  deriving DecidableEq, Repr

/-- Operand fields of format I (R84). -/
structure FormI where
  g : Guard
  dst : Code
  a : Code
  imm : BitVec 32
  deriving DecidableEq, Repr

/-- Operand fields of format M (R84). -/
structure FormM where
  g : Guard
  data : Code
  addr : Code
  base : Code
  mask : BitVec 8
  off : BitVec 11
  ps : Bool
  scope : BitVec 3
  order : BitVec 2
  deriving DecidableEq, Repr

/-- Operand fields of the `.try` forms of format M (R184). -/
structure FormT where
  g : Guard
  data : Code
  addr : Code
  base : Code
  mask : BitVec 8
  off : BitVec 8
  flag : BitVec 3
  ps : Bool
  scope : BitVec 3
  order : BitVec 2
  deriving DecidableEq, Repr

/-- Operand fields of format B (R84). -/
structure FormB where
  g : Guard
  reg : Code
  off : BitVec 28
  burg : BitVec 4
  deriving DecidableEq, Repr

/-- Operand fields of format X (R84). -/
structure FormX where
  g : Guard
  p : Code
  q : Code
  s : Code
  t : Code
  handle : BitVec 6
  ps : Bool
  deriving DecidableEq, Repr

/-- Integer types with their codes 000 to 111 (R98). -/
inductive IntTy where
  | s8 | s16 | s32 | s64 | z8 | z16 | z32 | z64
  deriving DecidableEq, Repr

/-- Rounding modes `.rn`, `.rz`, `.rm`, `.rp` (R65). -/
inductive Rnd where
  | rn | rz | rm | rp
  deriving DecidableEq, Repr

/-- Floating-point formats (R61, R118). -/
inductive Fmt where
  | f32 | f16 | bf16 | e4m3 | e5m2
  deriving DecidableEq, Repr

/-- The combine field of `icmp` and `fcmp` (R111, R122). -/
inductive Comb where
  | set | and | or
  deriving DecidableEq, Repr

/-- Integer conditions (R111). -/
inductive Cond where
  | eq | ne | lt | le | gt | ge
  deriving DecidableEq, Repr

/-- Float conditions (R122). -/
inductive FCond where
  | eq | ne | lt | le | gt | ge | num | nan
  deriving DecidableEq, Repr

/-- Modes of `shfl` (R132). -/
inductive ShMode where
  | idx | up | down | xor | bcast
  deriving DecidableEq, Repr

/-- Modes of `vote` (R133). -/
inductive VoteMode where
  | any | all | bal
  deriving DecidableEq, Repr

/-- Operations of `lred` (R134). -/
inductive LredOp where
  | add | min | max | and | or | xor | fadd
  deriving DecidableEq, Repr

/-- Modes of `rte` (R152, R154). -/
inductive RteMode where
  | retry | next | skip
  deriving DecidableEq, Repr

/-- Modes of `aidx` (R215). -/
inductive AidxMode where
  | modulo | hash | table
  deriving DecidableEq, Repr

/-- Access sizes of `aload` and `ascat` (R213). -/
inductive QSize where
  | one | two | four | eight | line
  deriving DecidableEq, Repr

/-- Value formats of `jins` and `jrun` (R275). -/
inductive VFmt where
  | f32 | f16 | bf16
  deriving DecidableEq, Repr

/-- Atomic operations with codes k = 0 to 20 (R191). -/
inductive AtomOp where
  | add32 | add64 | minS32 | minZ32 | minS64 | minZ64 | maxS32 | maxZ32 | maxS64 | maxZ64
  | and32 | and64 | or32 | or64 | xor32 | xor64 | swap32 | swap64 | fadd | fmin | fmax
  deriving DecidableEq, Repr

/-- Remote atomic operations with codes c = 0 to 9 (R317). -/
inductive FatomOp where
  | add | and | or | xor | swap | minS | minZ | maxS | maxZ | fadd
  deriving DecidableEq, Repr

/-- Reduction operations with codes o = 0 to 12 (R321). -/
inductive FredOp where
  | addZ32 | addZ64 | minS32 | maxS32 | minZ32 | maxZ32 | faddF32 | faddBf16 | faddF16 | faddE4m3 | faddE5m2
  | fminF32 | fmaxF32
  deriving DecidableEq, Repr

/-- The modifier bits 9:3 that name a barrier object (R194). -/
structure ObjMod where
  slot : BitVec 2
  form : Bool
  scr : Bool
  scope : BitVec 3
  deriving DecidableEq, Repr

/-- The modifier bits 9:5 of `mma` and `mmas` (R248). -/
structure MmaMod where
  aScr : Bool
  bScr : Bool
  ensMode : Bool
  ens : BitVec 2
  deriving DecidableEq, Repr

/-! ### What events carry -/

/-- A fabric packet: the header fields of R304 and its payload bytes (R303); and what no header field holds: the port it comes over or leaves on
(R297, R305), and the number of ranks, from its Rank on, that a partial sum covers (R311). (DESIGN CHOICE, log 42.) -/
structure Packet where
  barOffset : BitVec 40 := 0
  barIndex : BitVec 8 := 0
  barKey : BitVec 16 := 0
  group : BitVec 8 := 0
  counted : Bool := false
  message : BitVec 16 := 0
  hops : BitVec 8 := 0
  cause : BitVec 4 := 0
  key : BitVec 16 := 0
  index : BitVec 8 := 0
  offset : BitVec 40 := 0
  bytes : BitVec 11 := 0
  ordered : Bool := false
  channel : BitVec 2 := 0
  opcode : BitVec 4 := 0
  operation : BitVec 4 := 0
  rank : BitVec 10 := 0
  dest : BitVec 10 := 0
  src : BitVec 10 := 0
  seq : BitVec 28 := 0
  payload : List Byte := []
  port : Nat := 0
  span : Nat := 1
  deriving DecidableEq, Repr

/-- What the host does to memory (R373): an access to device memory over Kelesh, or a store of its own to host memory, which the device reads coherently. -/
inductive HostOp where
  | read (pa n : Nat)
  | write (pa : Nat) (data : List Byte)
  | atomAdd (pa n : Nat) (v : DWord)
  | atomSwap (pa n : Nat) (v : DWord)
  | atomCas (pa n : Nat) (cmp v : DWord)
  | own (pa : Nat) (data : List Byte)
  deriving DecidableEq, Repr

/-- A host write to a device register that has no row of its own: the Kelesh configuration space by byte offset, or a
device physical address (R372, R375). -/
inductive HostReg where
  | config (off : Nat)
  | device (pa : Nat)
  deriving DecidableEq, Repr

/-- The unit an error is counted for (R381, R94). -/
inductive ErrPlace where
  | row (place : BitVec 40)
  | channel (place : BitVec 10)
  | wavelength (place : BitVec 8)
  | bench (core bench : Nat)
  deriving DecidableEq, Repr

/-! ### The instructions and events -/

/-- One constructor per row of spec/opcode_table.json. -/
inductive Instr where
  -- integer and address (R102)
  | iadd (f : FormR) (t : IntTy) (sat : Bool)
  | isub (f : FormR) (t : IntTy) (sat : Bool)
  | imul (f : FormR) (t : IntTy) (sat : Bool)
  | imulh (f : FormR) (t : IntTy)
  | imad (f : FormR) (t : IntTy) (sat : Bool)
  | imin (f : FormR) (t : IntTy)
  | imax (f : FormR) (t : IntTy)
  | iabs (f : FormR) (t : IntTy) (sat : Bool)
  | ineg (f : FormR) (t : IntTy) (sat : Bool)
  | and (f : FormR) (t : IntTy)
  | or (f : FormR) (t : IntTy)
  | xor (f : FormR) (t : IntTy)
  | andn (f : FormR) (t : IntTy)
  | not (f : FormR) (t : IntTy)
  | shl (f : FormR) (t : IntTy) (imm : Bool) (cnt : BitVec 6)
  | shr (f : FormR) (t : IntTy) (imm : Bool) (cnt : BitVec 6)
  | sar (f : FormR) (t : IntTy) (imm : Bool) (cnt : BitVec 6)
  | rot (f : FormR) (t : IntTy) (imm : Bool) (cnt : BitVec 6)
  | shf (f : FormR) (left : Bool)
  | popc (f : FormR) (t : IntTy)
  | clz (f : FormR) (t : IntTy)
  | brev (f : FormR) (t : IntTy)
  | bfx (f : FormR) (t : IntTy)
  | bfi (f : FormR) (t : IntTy)
  | perm (f : FormR)
  | icmp (f : FormR) (t : IntTy) (comb : Comb) (cond : Cond)
  | sel (f : FormR) (t : IntTy) (inv : Bool) (flag : BitVec 3)
  | mov (f : FormR) (t : IntTy) (du : Bool) (au : Bool)
  | movx (f : FormR) (t : IntTy)
  | movxw (f : FormR) (t : IntTy)
  | lea (f : FormR) (t : IntTy) (sh : BitVec 3)
  | movi (f : FormI) (w64 : Bool)
  | iaddImm (f : FormI) (w64 : Bool)
  | imulImm (f : FormI) (w64 : Bool)
  | andImm (f : FormI) (w64 : Bool)
  | orImm (f : FormI) (w64 : Bool)
  | xorImm (f : FormI) (w64 : Bool)
  -- float and conversion (R118)
  | fadd (f : FormR) (r : Rnd)
  | fsub (f : FormR) (r : Rnd)
  | fmul (f : FormR) (r : Rnd)
  | ffma (f : FormR) (r : Rnd)
  | fmin (f : FormR)
  | fmax (f : FormR)
  | fcmp (f : FormR) (comb : Comb) (cond : FCond)
  | frcp (f : FormR) (r : Rnd)
  | frsq (f : FormR) (r : Rnd)
  | fsqrt (f : FormR) (r : Rnd)
  | fex2 (f : FormR)
  | flg2 (f : FormR)
  | fsin (f : FormR)
  | fcos (f : FormR)
  | fcvt (f : FormR) (df : Fmt) (r : Rnd) (sf : Fmt) (el : BitVec 2)
  | frnd (f : FormR) (r : Rnd)
  | fcls (f : FormR) (sf : Fmt) (mask : BitVec 9)
  | f2i (f : FormR) (t : IntTy) (r : Rnd) (sf : Fmt) (el : BitVec 2)
  | i2f (f : FormR) (df : Fmt) (r : Rnd) (t : IntTy)
  | hadd2 (f : FormR) (m : Fmt) (r : Rnd)
  | hmul2 (f : FormR) (m : Fmt) (r : Rnd)
  | hfma2 (f : FormR) (m : Fmt) (r : Rnd)
  -- cross-lane (R118)
  | shfl (f : FormR) (w64 : Bool) (mode : ShMode)
  | vote (f : FormR) (mode : VoteMode) (inv : Bool) (flag : BitVec 3)
  | lred (f : FormR) (t : IntTy) (op : LredOp)
  | matchLanes (f : FormR) (w64 : Bool)
  | flg (f : FormR) (wr : Bool)
  -- control flow and reconvergence (R138)
  | bra (f : FormB)
  | brx (f : FormB)
  | call (f : FormB) (ind : Bool)
  | ret (f : FormB)
  | exit (f : FormB)
  | yield (f : FormB)
  | nop (f : FormB)
  | region (f : FormB) (endOnly : Bool)
  | spawn (f : FormX) (argc : BitVec 3) (ms : BitVec 3)
  | bjoin (f : FormB)
  | bleave (f : FormB)
  | bwait (f : FormB)
  | bset (f : FormB)
  | bget (f : FormB)
  | esign (f : FormB) (e : BitVec 2)
  | eclr (f : FormB) (e : BitVec 2)
  -- system (R152)
  | trap (f : FormI)
  | rte (f : FormR) (mode : RteMode)
  | rdcw (f : FormR) (n : BitVec 12)
  | wrcw (f : FormR) (n : BitVec 12)
  -- memory (R182, R184)
  | ld (f : FormM) (t : IntTy)
  | ldTry (f : FormT) (t : IntTy)
  | st (f : FormM) (t : IntTy)
  | stTry (f : FormT) (t : IntTy)
  | lds (f : FormM) (t : IntTy)
  | ldsTry (f : FormT) (t : IntTy)
  | sts (f : FormM) (t : IntTy)
  | stsTry (f : FormT) (t : IntTy)
  | ldk (f : FormM) (t : IntTy)
  | stk (f : FormM) (t : IntTy)
  | pref (f : FormM)
  | cas (f : FormM) (w64 : Bool)
  | casScr (f : FormM) (w64 : Bool)
  | casTry (f : FormT) (scr : Bool) (w64 : Bool)
  | atom (f : FormM) (k : AtomOp)
  | red (f : FormM) (k : AtomOp)
  | atomScr (f : FormM) (k : AtomOp)
  | redScr (f : FormM) (k : AtomOp)
  -- synchronisation (R183)
  | fence (f : FormM)
  | barArr (f : FormX) (o : ObjMod)
  | barWait (f : FormX) (o : ObjMod)
  | barx (f : FormX) (o : ObjMod) (noArr : Bool)
  | twait (f : FormX) (ext : Bool)
  | tget (f : FormX) (mode : BitVec 2)
  | wext (f : FormX) (scope : BitVec 3) (cond : Cond)
  -- access processor (R213)
  | alp (f : FormB)
  | agen (f : FormR) (uns : Bool) (sh : BitVec 3)
  | aidx (f : FormR) (mode : AidxMode)
  | aload (f : FormX) (scr : Bool) (size : QSize)
  | ascat (f : FormX) (scr : Bool) (size : QSize)
  | qpop (f : FormX)
  | qpush (f : FormX)
  | qpushClose (f : FormX)
  | qpushStart (f : FormX) (ms : BitVec 2)
  | qpeek (f : FormX)
  -- hoist and ring (R233)
  | hoist (f : FormX)
  | rrot (f : FormX) (ms : BitVec 2)
  -- matrix (R248)
  | mma (f : FormX) (m : MmaMod)
  | mmas (f : FormX) (m : MmaMod)
  | mldt (f : FormX) (es : BitVec 2)
  | acqb (f : FormX) (n1 : BitVec 5)
  | relb (f : FormX) (n1 : BitVec 5)
  | azero (f : FormX) (n1 : BitVec 5)
  | ard (f : FormX) (n1 : BitVec 5) (col : BitVec 5)
  | awr (f : FormX) (n1 : BitVec 5) (col : BitVec 5)
  | accst (f : FormX) (scr : Bool) (fmt : BitVec 3) (scope : BitVec 3) (order : BitVec 2)
  -- join (R275)
  | jopen (f : FormX) (block : Bool) (n : BitVec 3)
  | jins (f : FormX) (v : VFmt)
  | jrun (f : FormX) (v : VFmt)
  | jdrain (f : FormX)
  | jstat (f : FormX) (item : BitVec 2)
  | jclose (f : FormX)
  -- fabric (R313)
  | fget (f : FormX) (dScr : Bool) (bScr : Bool)
  | fput (f : FormX) (ord : Bool) (cnt : Bool) (sig : Bool) (scr : Bool)
  | fatom (f : FormX) (ord : Bool) (w64 : Bool) (noRet : Bool) (order : BitVec 2) (op : FatomOp)
  | fcas (f : FormX) (ord : Bool) (w64 : Bool) (order : BitVec 2)
  | fflush (f : FormX)
  | fmcast (f : FormX) (ord : Bool) (cnt : Bool) (sig : Bool) (scr : Bool)
  | fred (f : FormX) (cnt : Bool) (scr : Bool) (op : FredOp)
  | fwinOpen (f : FormX)
  | fwinRevoke (f : FormX)
  -- squads and benches
  | clauseStart (core bench : Nat)
  | spawnBinTimerExpiry (core bin : Nat)
  | spawnedSquadDispatch (id : Nat)
  | squadRetirement (uid : Nat)
  | exitRecordWrite (id : Nat)
  | musterRetirement (launch muster : Nat)
  | requestPerform (id : Nat) (lanes : Nat) (fromL1 : Bool) (merge : Option (Nat × Nat))
  | escortLanding (id : Nat)
  | landingBufferMove (core bench : Nat)
  | eviction (core bench : Nat)
  | rehousing (core bench : Nat)
  | pageFaultRecordAppend (ctx : Nat)
  | regionRestart (uid : Nat)
  | barrierUpdate (id : Nat)
  | unsupportedAtomicService (id : Nat)
  | externalWaitExpiry (uid : Nat)
  | wextRetest (uid : Nat)
  -- quarry, hoist, ring
  | quarryIssue (core thread : Nat)
  | quarryStartTaken (core : Nat)
  | quarryReadLanding (id : Nat)
  | quarryStartCompletion (core id : Nat)
  | hoistLineLanding (id : Nat) (line : Nat)
  | hoistCompletion (id : Nat)
  | hoistFault (id : Nat)
  | ringRoundStart (launch muster : Nat)
  | ringRoundFailure (launch muster : Nat)
  -- matrix and join
  | ownershipService (core bench : Nat)
  | drainCompletion (id : Nat)
  -- fabric
  | fabricRequestArrival (p : Packet)
  | fabricPlacement (id : Nat)
  | fabricForward (p : Packet)
  | fabricResponse (id : Nat) (cause : BitVec 4) (data : List Byte) (late : Bool)
  | responseTimeout (id : Nat)
  | packetInjection (id : Nat)
  | reductionCombine (group round : Nat)
  | writeCombiningAgeExpiry (core : Nat) (entry : Nat)
  | wavelengthPark (port : Nat)
  | wavelengthWake (port : Nat)
  | wavelengthWakeComplete (port : Nat)
  -- distributor
  | commandAcceptance
  | commandStart (id : Nat)
  | launch (id : Nat)
  | codeLoad (id : Nat)
  | viewRegistration (id : Nat)
  | groupConfiguration (id : Nat)
  | fabricTableInvalidation (id : Nat)
  | tlbInvalidation (id : Nat)
  | contextCreate (id : Nat)
  | contextTeardown (id : Nat)
  | queueConfiguration (id : Nat)
  | pageFaultResolution (id : Nat)
  | unitPlacement
  | barrierInitWrite (id : Nat)
  | clusterGateRequest (cluster : Nat)
  | clusterGatingComplete (cluster : Nat)
  | clusterGatingAbandon (cluster : Nat)
  | clusterWakeComplete (cluster : Nat)
  | watchdogReport (uid : Nat)
  -- context engine
  | preemptionRequest (core : Nat)
  | squadSave (uid : Nat)
  | savedReply (id : Nat)
  | musterCoreSave (core : Nat)
  | coreSetRestore (id : Nat)
  | benchCloseSpill (core bench : Nat)
  | migration (launch muster core target : Nat)
  | migrationAbandon
  -- platform
  | tierCountHalving
  | tierSwap (group : Nat) (member : Nat)
  | refreshTick (channel : Nat)
  | refreshPullIn (channel : Nat)
  | clockWindowEnd (core : Nat) (issued stalled : Nat)
  | fillerInjection (core bench : Nat)
  | errorCounted (place : ErrPlace) (uncorrectable : Bool) (cycle : DWord) (line : Nat)
  | errorWindowEnd (place : ErrPlace)
  | rowCopyComplete (place : BitVec 40)
  | reset
  | bootGo (block : BitVec 512)
  | verifyComplete
  | recoveryRequest
  | fatalError
  | hostAccess (op : HostOp)
  | hostRegisterWrite (r : HostReg) (v : DWord)
  -- attestation (R376, R377)
  | getVersion
  | getCapabilities
  | negotiateAlgorithms (asym hash : Nat)
  | getDigests
  | getCertificate (slot offset length : Nat)
  | challenge (slot : Nat) (nonce : List Byte) (measure : Nat) (session : Option Nat)
  | getMeasurements (signed : Bool) (index : Nat) (nonce : List Byte) (session : Option Nat)
  | keyExchange (slot : Nat) (reqSession : Nat) (exchange : List Byte)
  | finish (session : Nat) (hmac : List Byte)
  | endSession (session : Nat)
  | vendorDefinedRequest (session : Option Nat) (slot : Nat) (key : List Byte)
  -- the rows added last in the table
  | illegalInstruction (w : DWord)
  | ringTileLanding (id : Nat) (line : Nat)
  | packageLimiter (core : Nat) (mhz : Nat)
  deriving DecidableEq, Repr

end Sys2Proof
end

