-- ==== Sys2Proof/WellFormed.lean ====
section
/-! DEFINITION. Which instructions an instruction word can stand for: the codes and modifier values that each row allows
(R93 step 1). Operand codes are not judged here: R93 makes them an illegal-operand matter, checked when the instruction
executes. -/

namespace Sys2Proof

/-- Types of the rows marked 32/64 (R102). -/
def IntTy.is3264 : IntTy → Bool
  | .s32 | .s64 | .z32 | .z64 => true
  | _ => false

/-- Types of `bfi` (R102). -/
def IntTy.isZ3264 : IntTy → Bool
  | .z32 | .z64 => true
  | _ => false

/-- Types of `lea` (R102). -/
def IntTy.is32 : IntTy → Bool
  | .s32 | .z32 => true
  | _ => false

/-- The packed formats of `hadd2`, `hmul2` and `hfma2` (R118). -/
def Fmt.isPacked16 : Fmt → Bool
  | .f16 | .bf16 => true
  | _ => false

/-- How many elements of a format one register holds (R68): the source elements R118 allows. -/
def Fmt.elements : Fmt → Nat
  | .f32 => 1
  | .f16 | .bf16 => 2
  | .e4m3 | .e5m2 => 4

/-- The numbers of the control words (R155). -/
def cwListed (n : BitVec 12) : Bool :=
  [0x000#12, 0x001#12, 0x002#12, 0x003#12, 0x004#12, 0x005#12, 0x008#12, 0x009#12, 0x00A#12, 0x00B#12, 0x00C#12, 0x00D#12,
    0x010#12, 0x011#12, 0x012#12, 0x013#12].contains n

/-- The conditions of R93 step 1 on a row's modifier codes, beyond what the field types already say. -/
def Instr.wf : Instr → Bool
  | .and _ t | .or _ t | .xor _ t | .andn _ t | .not _ t => t.is3264
  | .shl _ t _ _ | .shr _ t _ _ | .sar _ t _ _ | .rot _ t _ _ => t.is3264
  | .bfx _ t | .sel _ t _ _ | .mov _ t _ _ | .movx _ t | .movxw _ t => t.is3264
  | .bfi _ t => t.isZ3264
  | .lea _ t _ => t.is32
  | .fcvt _ _ _ sf el => decide (el.toNat < sf.elements)
  | .f2i _ _ _ sf el => decide (el.toNat < sf.elements)
  | .hadd2 _ m _ | .hmul2 _ m _ | .hfma2 _ m _ => m.isPacked16
  | .lred _ t op => if op = .fadd then t == .z32 else t.is3264
  | .spawn _ argc ms => decide (argc.toNat ≤ 4) && (decide (ms.toNat ≤ 3) || ms == 7)
  | .trap f => decide (f.imm.toNat < 65536)
  | .rdcw _ n | .wrcw _ n => cwListed n
  | .mldt _ es => decide (es.toNat < 3)
  | .jopen _ _ n => decide (n.toNat ≤ 4)
  | .fatom _ _ w64 _ _ op => !(w64 && op == .fadd)
  | _ => true

end Sys2Proof
end

