-- ==== Sys2Proof/Decode.lean ====
section
/-! DEFINITION. Decoding an instruction word (R83, R84 and the encoding tables R102, R118, R138, R152, R182 to R184, R213,
R233, R248, R275, R313) and, after it, the encoder. `decode` is total on any 64 bits: a word that fails R93 step 1 is
rejected by name, and the machine then raises the illegal-instruction trap. -/

namespace Sys2Proof

/-! ### Splitting and joining the five formats (R83, R84) -/

/-- Opcode, bits 63:54 (R83). -/
def opField (w : DWord) : BitVec 10 := w.extractLsb' 54 10

/-- Ext, bit 53 (R83). -/
def extField (w : DWord) : Bool := w.extractLsb' 53 1 == 1#1

/-- The guard, bits 52:49 (R83). -/
def guardField (w : DWord) : Guard := ⟨w.extractLsb' 52 1 == 1#1, w.extractLsb' 49 3⟩

/-- The operand fields of format R. -/
def splitR (w : DWord) : FormR :=
  ⟨guardField w, w.extractLsb' 41 8, w.extractLsb' 33 8, w.extractLsb' 25 8, w.extractLsb' 17 8, w.extractLsb' 15 2,
    w.extractLsb' 13 2⟩

/-- The modifiers of format R. -/
def modsR (w : DWord) : BitVec 13 := w.extractLsb' 0 13

/-- The operand fields of format I. -/
def splitI (w : DWord) : FormI := ⟨guardField w, w.extractLsb' 41 8, w.extractLsb' 33 8, w.extractLsb' 1 32⟩

/-- The operand fields of format M. -/
def splitM (w : DWord) : FormM :=
  ⟨guardField w, w.extractLsb' 41 8, w.extractLsb' 33 8, w.extractLsb' 25 8, w.extractLsb' 17 8, w.extractLsb' 6 11,
    w.extractLsb' 5 1 == 1#1, w.extractLsb' 2 3, w.extractLsb' 0 2⟩

/-- The operand fields of a `.try` form (R184). -/
def splitT (w : DWord) : FormT :=
  ⟨guardField w, w.extractLsb' 41 8, w.extractLsb' 33 8, w.extractLsb' 25 8, w.extractLsb' 17 8, w.extractLsb' 9 8,
    w.extractLsb' 6 3, w.extractLsb' 5 1 == 1#1, w.extractLsb' 2 3, w.extractLsb' 0 2⟩

/-- The operand fields of format B. -/
def splitB (w : DWord) : FormB := ⟨guardField w, w.extractLsb' 41 8, w.extractLsb' 13 28, w.extractLsb' 9 4⟩

/-- The modifiers of format B. -/
def modsB (w : DWord) : BitVec 9 := w.extractLsb' 0 9

/-- The operand fields of format X. -/
def splitX (w : DWord) : FormX :=
  ⟨guardField w, w.extractLsb' 41 8, w.extractLsb' 33 8, w.extractLsb' 25 8, w.extractLsb' 17 8, w.extractLsb' 11 6,
    w.extractLsb' 10 1 == 1#1⟩

/-- The modifiers of format X. -/
def modsX (w : DWord) : BitVec 10 := w.extractLsb' 0 10

/-- Bits 63:49 of a word (R83). -/
def joinHead (op : BitVec 10) (ext : Bool) (g : Guard) : BitVec 15 :=
  op ++ BitVec.ofBool ext ++ BitVec.ofBool g.inv ++ g.flag

/-- A word of format R. -/
def joinR (op : BitVec 10) (ext : Bool) (f : FormR) (m : BitVec 13) : DWord :=
  joinHead op ext f.g ++ f.dst ++ f.a ++ f.b ++ f.c ++ f.hold ++ f.slot ++ m

/-- A word of format I; bit 0 is zero. -/
def joinI (op : BitVec 10) (ext : Bool) (f : FormI) : DWord :=
  joinHead op ext f.g ++ f.dst ++ f.a ++ f.imm ++ 0#1

/-- A word of format M. -/
def joinM (op : BitVec 10) (ext : Bool) (f : FormM) : DWord :=
  joinHead op ext f.g ++ f.data ++ f.addr ++ f.base ++ f.mask ++ f.off ++ BitVec.ofBool f.ps ++ f.scope ++ f.order

/-- A word of a `.try` form. -/
def joinT (op : BitVec 10) (ext : Bool) (f : FormT) : DWord :=
  joinHead op ext f.g ++ f.data ++ f.addr ++ f.base ++ f.mask ++ f.off ++ f.flag ++ BitVec.ofBool f.ps ++ f.scope ++ f.order

/-- A word of format B. -/
def joinB (op : BitVec 10) (ext : Bool) (f : FormB) (m : BitVec 9) : DWord :=
  joinHead op ext f.g ++ f.reg ++ f.off ++ f.burg ++ m

/-- A word of format X. -/
def joinX (op : BitVec 10) (ext : Bool) (f : FormX) (m : BitVec 10) : DWord :=
  joinHead op ext f.g ++ f.p ++ f.q ++ f.s ++ f.t ++ f.handle ++ BitVec.ofBool f.ps ++ m

/-! ### Modifier codes -/

/-- The code of an `IntTy` in its field. -/
def IntTy.code : IntTy → BitVec 3
  | .s8 => 0#3
  | .s16 => 1#3
  | .s32 => 2#3
  | .s64 => 3#3
  | .z8 => 4#3
  | .z16 => 5#3
  | .z32 => 6#3
  | .z64 => 7#3

/-- The `IntTy` of a code; none where the code is not assigned. -/
def IntTy.ofCode (c : BitVec 3) : Option IntTy :=
  match c.toNat with
  | 0 => some .s8
  | 1 => some .s16
  | 2 => some .s32
  | 3 => some .s64
  | 4 => some .z8
  | 5 => some .z16
  | 6 => some .z32
  | 7 => some .z64
  | _ => none

/-- The code of a `Rnd` in its field. -/
def Rnd.code : Rnd → BitVec 2
  | .rn => 0#2
  | .rz => 1#2
  | .rm => 2#2
  | .rp => 3#2

/-- The `Rnd` of a code; none where the code is not assigned. -/
def Rnd.ofCode (c : BitVec 2) : Option Rnd :=
  match c.toNat with
  | 0 => some .rn
  | 1 => some .rz
  | 2 => some .rm
  | 3 => some .rp
  | _ => none

/-- The code of a `Fmt` in its field. -/
def Fmt.code : Fmt → BitVec 3
  | .f32 => 0#3
  | .f16 => 1#3
  | .bf16 => 2#3
  | .e4m3 => 3#3
  | .e5m2 => 4#3

/-- The `Fmt` of a code; none where the code is not assigned. -/
def Fmt.ofCode (c : BitVec 3) : Option Fmt :=
  match c.toNat with
  | 0 => some .f32
  | 1 => some .f16
  | 2 => some .bf16
  | 3 => some .e4m3
  | 4 => some .e5m2
  | _ => none

/-- The code of a `Comb` in its field. -/
def Comb.code : Comb → BitVec 2
  | .set => 0#2
  | .and => 1#2
  | .or => 2#2

/-- The `Comb` of a code; none where the code is not assigned. -/
def Comb.ofCode (c : BitVec 2) : Option Comb :=
  match c.toNat with
  | 0 => some .set
  | 1 => some .and
  | 2 => some .or
  | _ => none

/-- The code of a `Cond` in its field. -/
def Cond.code : Cond → BitVec 3
  | .eq => 0#3
  | .ne => 1#3
  | .lt => 2#3
  | .le => 3#3
  | .gt => 4#3
  | .ge => 5#3

/-- The `Cond` of a code; none where the code is not assigned. -/
def Cond.ofCode (c : BitVec 3) : Option Cond :=
  match c.toNat with
  | 0 => some .eq
  | 1 => some .ne
  | 2 => some .lt
  | 3 => some .le
  | 4 => some .gt
  | 5 => some .ge
  | _ => none

/-- The code of a `FCond` in its field. -/
def FCond.code : FCond → BitVec 3
  | .eq => 0#3
  | .ne => 1#3
  | .lt => 2#3
  | .le => 3#3
  | .gt => 4#3
  | .ge => 5#3
  | .num => 6#3
  | .nan => 7#3

/-- The `FCond` of a code; none where the code is not assigned. -/
def FCond.ofCode (c : BitVec 3) : Option FCond :=
  match c.toNat with
  | 0 => some .eq
  | 1 => some .ne
  | 2 => some .lt
  | 3 => some .le
  | 4 => some .gt
  | 5 => some .ge
  | 6 => some .num
  | 7 => some .nan
  | _ => none

/-- The code of a `ShMode` in its field. -/
def ShMode.code : ShMode → BitVec 3
  | .idx => 0#3
  | .up => 1#3
  | .down => 2#3
  | .xor => 3#3
  | .bcast => 4#3

/-- The `ShMode` of a code; none where the code is not assigned. -/
def ShMode.ofCode (c : BitVec 3) : Option ShMode :=
  match c.toNat with
  | 0 => some .idx
  | 1 => some .up
  | 2 => some .down
  | 3 => some .xor
  | 4 => some .bcast
  | _ => none

/-- The code of a `VoteMode` in its field. -/
def VoteMode.code : VoteMode → BitVec 2
  | .any => 0#2
  | .all => 1#2
  | .bal => 2#2

/-- The `VoteMode` of a code; none where the code is not assigned. -/
def VoteMode.ofCode (c : BitVec 2) : Option VoteMode :=
  match c.toNat with
  | 0 => some .any
  | 1 => some .all
  | 2 => some .bal
  | _ => none

/-- The code of a `LredOp` in its field. -/
def LredOp.code : LredOp → BitVec 3
  | .add => 0#3
  | .min => 1#3
  | .max => 2#3
  | .and => 3#3
  | .or => 4#3
  | .xor => 5#3
  | .fadd => 6#3

/-- The `LredOp` of a code; none where the code is not assigned. -/
def LredOp.ofCode (c : BitVec 3) : Option LredOp :=
  match c.toNat with
  | 0 => some .add
  | 1 => some .min
  | 2 => some .max
  | 3 => some .and
  | 4 => some .or
  | 5 => some .xor
  | 6 => some .fadd
  | _ => none

/-- The code of a `RteMode` in its field. -/
def RteMode.code : RteMode → BitVec 2
  | .retry => 0#2
  | .next => 1#2
  | .skip => 2#2

/-- The `RteMode` of a code; none where the code is not assigned. -/
def RteMode.ofCode (c : BitVec 2) : Option RteMode :=
  match c.toNat with
  | 0 => some .retry
  | 1 => some .next
  | 2 => some .skip
  | _ => none

/-- The code of an `AidxMode` in its field. -/
def AidxMode.code : AidxMode → BitVec 2
  | .modulo => 0#2
  | .hash => 1#2
  | .table => 2#2

/-- The `AidxMode` of a code; none where the code is not assigned. -/
def AidxMode.ofCode (c : BitVec 2) : Option AidxMode :=
  match c.toNat with
  | 0 => some .modulo
  | 1 => some .hash
  | 2 => some .table
  | _ => none

/-- The code of a `QSize` in its field. -/
def QSize.code : QSize → BitVec 3
  | .one => 0#3
  | .two => 1#3
  | .four => 2#3
  | .eight => 3#3
  | .line => 4#3

/-- The `QSize` of a code; none where the code is not assigned. -/
def QSize.ofCode (c : BitVec 3) : Option QSize :=
  match c.toNat with
  | 0 => some .one
  | 1 => some .two
  | 2 => some .four
  | 3 => some .eight
  | 4 => some .line
  | _ => none

/-- The code of a `VFmt` in its field. -/
def VFmt.code : VFmt → BitVec 2
  | .f32 => 0#2
  | .f16 => 1#2
  | .bf16 => 2#2

/-- The `VFmt` of a code; none where the code is not assigned. -/
def VFmt.ofCode (c : BitVec 2) : Option VFmt :=
  match c.toNat with
  | 0 => some .f32
  | 1 => some .f16
  | 2 => some .bf16
  | _ => none

/-- The code of an `AtomOp` in its field. -/
def AtomOp.code : AtomOp → BitVec 5
  | .add32 => 0#5
  | .add64 => 1#5
  | .minS32 => 2#5
  | .minZ32 => 3#5
  | .minS64 => 4#5
  | .minZ64 => 5#5
  | .maxS32 => 6#5
  | .maxZ32 => 7#5
  | .maxS64 => 8#5
  | .maxZ64 => 9#5
  | .and32 => 10#5
  | .and64 => 11#5
  | .or32 => 12#5
  | .or64 => 13#5
  | .xor32 => 14#5
  | .xor64 => 15#5
  | .swap32 => 16#5
  | .swap64 => 17#5
  | .fadd => 18#5
  | .fmin => 19#5
  | .fmax => 20#5

/-- The `AtomOp` of a code; none where the code is not assigned. -/
def AtomOp.ofCode (c : BitVec 5) : Option AtomOp :=
  match c.toNat with
  | 0 => some .add32
  | 1 => some .add64
  | 2 => some .minS32
  | 3 => some .minZ32
  | 4 => some .minS64
  | 5 => some .minZ64
  | 6 => some .maxS32
  | 7 => some .maxZ32
  | 8 => some .maxS64
  | 9 => some .maxZ64
  | 10 => some .and32
  | 11 => some .and64
  | 12 => some .or32
  | 13 => some .or64
  | 14 => some .xor32
  | 15 => some .xor64
  | 16 => some .swap32
  | 17 => some .swap64
  | 18 => some .fadd
  | 19 => some .fmin
  | 20 => some .fmax
  | _ => none

/-- The code of a `FatomOp` in its field. -/
def FatomOp.code : FatomOp → BitVec 4
  | .add => 0#4
  | .and => 1#4
  | .or => 2#4
  | .xor => 3#4
  | .swap => 4#4
  | .minS => 5#4
  | .minZ => 6#4
  | .maxS => 7#4
  | .maxZ => 8#4
  | .fadd => 9#4

/-- The `FatomOp` of a code; none where the code is not assigned. -/
def FatomOp.ofCode (c : BitVec 4) : Option FatomOp :=
  match c.toNat with
  | 0 => some .add
  | 1 => some .and
  | 2 => some .or
  | 3 => some .xor
  | 4 => some .swap
  | 5 => some .minS
  | 6 => some .minZ
  | 7 => some .maxS
  | 8 => some .maxZ
  | 9 => some .fadd
  | _ => none

/-- The code of a `FredOp` in its field. -/
def FredOp.code : FredOp → BitVec 4
  | .addZ32 => 0#4
  | .addZ64 => 1#4
  | .minS32 => 2#4
  | .maxS32 => 3#4
  | .minZ32 => 4#4
  | .maxZ32 => 5#4
  | .faddF32 => 6#4
  | .faddBf16 => 7#4
  | .faddF16 => 8#4
  | .faddE4m3 => 9#4
  | .faddE5m2 => 10#4
  | .fminF32 => 11#4
  | .fmaxF32 => 12#4

/-- The `FredOp` of a code; none where the code is not assigned. -/
def FredOp.ofCode (c : BitVec 4) : Option FredOp :=
  match c.toNat with
  | 0 => some .addZ32
  | 1 => some .addZ64
  | 2 => some .minS32
  | 3 => some .maxS32
  | 4 => some .minZ32
  | 5 => some .maxZ32
  | 6 => some .faddF32
  | 7 => some .faddBf16
  | 8 => some .faddF16
  | 9 => some .faddE4m3
  | 10 => some .faddE5m2
  | 11 => some .fminF32
  | 12 => some .fmaxF32
  | _ => none

/-- Types 110 and 111 of `shfl` and `match`. -/
def w6Code (w64 : Bool) : BitVec 3 := if w64 then 7#3 else 6#3

/-- Modifier bits 9:3 of a barrier instruction (R194). -/
def ObjMod.code (o : ObjMod) : BitVec 7 := o.slot ++ BitVec.ofBool o.form ++ BitVec.ofBool o.scr ++ o.scope

/-- The object modifiers of a code. -/
def ObjMod.ofCode (c : BitVec 7) : ObjMod :=
  ⟨c.extractLsb' 5 2, c.extractLsb' 4 1 == 1#1, c.extractLsb' 3 1 == 1#1, c.extractLsb' 0 3⟩

/-- Modifier bits 9:5 of `mma` and `mmas` (R248). -/
def MmaMod.code (m : MmaMod) : BitVec 5 :=
  BitVec.ofBool m.aScr ++ BitVec.ofBool m.bScr ++ BitVec.ofBool m.ensMode ++ m.ens

/-- The matrix modifiers of a code. -/
def MmaMod.ofCode (c : BitVec 5) : MmaMod :=
  ⟨c.extractLsb' 4 1 == 1#1, c.extractLsb' 3 1 == 1#1, c.extractLsb' 2 1 == 1#1, c.extractLsb' 0 2⟩

/-! ### Reading the fields of each row -/

/-- The rows of R102, fields not yet judged. -/
def parseInt (op : Nat) (ext : Bool) (w : DWord) : Option Instr :=
  match op with
  | 0x000 => (IntTy.ofCode ((modsR w).extractLsb' 10 3)).map fun t => .iadd (splitR w) t (((modsR w).extractLsb' 9 1) == 1#1)
  | 0x001 => (IntTy.ofCode ((modsR w).extractLsb' 10 3)).map fun t => .isub (splitR w) t (((modsR w).extractLsb' 9 1) == 1#1)
  | 0x002 => (IntTy.ofCode ((modsR w).extractLsb' 10 3)).map fun t => .imul (splitR w) t (((modsR w).extractLsb' 9 1) == 1#1)
  | 0x003 => (IntTy.ofCode ((modsR w).extractLsb' 10 3)).map fun t => .imulh (splitR w) t
  | 0x004 => (IntTy.ofCode ((modsR w).extractLsb' 10 3)).map fun t => .imad (splitR w) t (((modsR w).extractLsb' 9 1) == 1#1)
  | 0x005 => (IntTy.ofCode ((modsR w).extractLsb' 10 3)).map fun t => .imin (splitR w) t
  | 0x006 => (IntTy.ofCode ((modsR w).extractLsb' 10 3)).map fun t => .imax (splitR w) t
  | 0x007 => (IntTy.ofCode ((modsR w).extractLsb' 10 3)).map fun t => .iabs (splitR w) t (((modsR w).extractLsb' 9 1) == 1#1)
  | 0x008 => (IntTy.ofCode ((modsR w).extractLsb' 10 3)).map fun t => .ineg (splitR w) t (((modsR w).extractLsb' 9 1) == 1#1)
  | 0x010 => (IntTy.ofCode ((modsR w).extractLsb' 10 3)).map fun t => .and (splitR w) t
  | 0x011 => (IntTy.ofCode ((modsR w).extractLsb' 10 3)).map fun t => .or (splitR w) t
  | 0x012 => (IntTy.ofCode ((modsR w).extractLsb' 10 3)).map fun t => .xor (splitR w) t
  | 0x013 => (IntTy.ofCode ((modsR w).extractLsb' 10 3)).map fun t => .andn (splitR w) t
  | 0x014 => (IntTy.ofCode ((modsR w).extractLsb' 10 3)).map fun t => .not (splitR w) t
  | 0x020 => (IntTy.ofCode ((modsR w).extractLsb' 10 3)).map fun t => .shl (splitR w) t (((modsR w).extractLsb' 8 1) == 1#1) (((modsR w).extractLsb' 0 6))
  | 0x021 => (IntTy.ofCode ((modsR w).extractLsb' 10 3)).map fun t => .shr (splitR w) t (((modsR w).extractLsb' 8 1) == 1#1) (((modsR w).extractLsb' 0 6))
  | 0x022 => (IntTy.ofCode ((modsR w).extractLsb' 10 3)).map fun t => .sar (splitR w) t (((modsR w).extractLsb' 8 1) == 1#1) (((modsR w).extractLsb' 0 6))
  | 0x023 => (IntTy.ofCode ((modsR w).extractLsb' 10 3)).map fun t => .rot (splitR w) t (((modsR w).extractLsb' 8 1) == 1#1) (((modsR w).extractLsb' 0 6))
  | 0x024 => some (.shf (splitR w) (((modsR w).extractLsb' 0 1) == 1#1))
  | 0x030 => (IntTy.ofCode ((modsR w).extractLsb' 10 3)).map fun t => .popc (splitR w) t
  | 0x031 => (IntTy.ofCode ((modsR w).extractLsb' 10 3)).map fun t => .clz (splitR w) t
  | 0x032 => (IntTy.ofCode ((modsR w).extractLsb' 10 3)).map fun t => .brev (splitR w) t
  | 0x033 => (IntTy.ofCode ((modsR w).extractLsb' 10 3)).map fun t => .bfx (splitR w) t
  | 0x034 => (IntTy.ofCode ((modsR w).extractLsb' 10 3)).map fun t => .bfi (splitR w) t
  | 0x035 => some (.perm (splitR w))
  | 0x040 => (IntTy.ofCode ((modsR w).extractLsb' 10 3)).bind fun t => (Comb.ofCode ((modsR w).extractLsb' 3 2)).bind fun comb => (Cond.ofCode ((modsR w).extractLsb' 0 3)).map fun cond => .icmp (splitR w) t comb cond
  | 0x041 => (IntTy.ofCode ((modsR w).extractLsb' 10 3)).map fun t => .sel (splitR w) t (((modsR w).extractLsb' 3 1) == 1#1) (((modsR w).extractLsb' 0 3))
  | 0x050 => (IntTy.ofCode ((modsR w).extractLsb' 10 3)).map fun t => .mov (splitR w) t (((modsR w).extractLsb' 1 1) == 1#1) (((modsR w).extractLsb' 0 1) == 1#1)
  | 0x051 => (IntTy.ofCode ((modsR w).extractLsb' 10 3)).map fun t => .movx (splitR w) t
  | 0x052 => (IntTy.ofCode ((modsR w).extractLsb' 10 3)).map fun t => .movxw (splitR w) t
  | 0x053 => (IntTy.ofCode ((modsR w).extractLsb' 10 3)).map fun t => .lea (splitR w) t (((modsR w).extractLsb' 0 3))
  | 0x080 => some (.movi (splitI w) ext)
  | 0x081 => some (.iaddImm (splitI w) ext)
  | 0x082 => some (.imulImm (splitI w) ext)
  | 0x083 => some (.andImm (splitI w) ext)
  | 0x084 => some (.orImm (splitI w) ext)
  | 0x085 => some (.xorImm (splitI w) ext)
  | _ => none

/-- The rows of R118, fields not yet judged. -/
def parseFloat (op : Nat) (_ext : Bool) (w : DWord) : Option Instr :=
  match op with
  | 0x100 => (Rnd.ofCode ((modsR w).extractLsb' 8 2)).map fun r => .fadd (splitR w) r
  | 0x101 => (Rnd.ofCode ((modsR w).extractLsb' 8 2)).map fun r => .fsub (splitR w) r
  | 0x102 => (Rnd.ofCode ((modsR w).extractLsb' 8 2)).map fun r => .fmul (splitR w) r
  | 0x103 => (Rnd.ofCode ((modsR w).extractLsb' 8 2)).map fun r => .ffma (splitR w) r
  | 0x104 => some (.fmin (splitR w))
  | 0x105 => some (.fmax (splitR w))
  | 0x106 => (Comb.ofCode ((modsR w).extractLsb' 3 2)).bind fun comb => (FCond.ofCode ((modsR w).extractLsb' 0 3)).map fun cond => .fcmp (splitR w) comb cond
  | 0x110 => (Rnd.ofCode ((modsR w).extractLsb' 8 2)).map fun r => .frcp (splitR w) r
  | 0x111 => (Rnd.ofCode ((modsR w).extractLsb' 8 2)).map fun r => .frsq (splitR w) r
  | 0x112 => (Rnd.ofCode ((modsR w).extractLsb' 8 2)).map fun r => .fsqrt (splitR w) r
  | 0x113 => some (.fex2 (splitR w))
  | 0x114 => some (.flg2 (splitR w))
  | 0x115 => some (.fsin (splitR w))
  | 0x116 => some (.fcos (splitR w))
  | 0x120 => (Fmt.ofCode ((modsR w).extractLsb' 10 3)).bind fun df => (Rnd.ofCode ((modsR w).extractLsb' 8 2)).bind fun r => (Fmt.ofCode ((modsR w).extractLsb' 5 3)).map fun sf => .fcvt (splitR w) df r sf (((modsR w).extractLsb' 0 2))
  | 0x121 => (Rnd.ofCode ((modsR w).extractLsb' 8 2)).map fun r => .frnd (splitR w) r
  | 0x122 => (Fmt.ofCode ((modsR w).extractLsb' 10 3)).map fun sf => .fcls (splitR w) sf (((modsR w).extractLsb' 0 9))
  | 0x123 => (IntTy.ofCode ((modsR w).extractLsb' 10 3)).bind fun t => (Rnd.ofCode ((modsR w).extractLsb' 8 2)).bind fun r => (Fmt.ofCode ((modsR w).extractLsb' 5 3)).map fun sf => .f2i (splitR w) t r sf (((modsR w).extractLsb' 0 2))
  | 0x124 => (Fmt.ofCode ((modsR w).extractLsb' 10 3)).bind fun df => (Rnd.ofCode ((modsR w).extractLsb' 8 2)).bind fun r => (IntTy.ofCode ((modsR w).extractLsb' 5 3)).map fun t => .i2f (splitR w) df r t
  | 0x130 => (Fmt.ofCode ((modsR w).extractLsb' 10 3)).bind fun m => (Rnd.ofCode ((modsR w).extractLsb' 8 2)).map fun r => .hadd2 (splitR w) m r
  | 0x131 => (Fmt.ofCode ((modsR w).extractLsb' 10 3)).bind fun m => (Rnd.ofCode ((modsR w).extractLsb' 8 2)).map fun r => .hmul2 (splitR w) m r
  | 0x132 => (Fmt.ofCode ((modsR w).extractLsb' 10 3)).bind fun m => (Rnd.ofCode ((modsR w).extractLsb' 8 2)).map fun r => .hfma2 (splitR w) m r
  | 0x180 => (ShMode.ofCode ((modsR w).extractLsb' 0 3)).map fun mode => .shfl (splitR w) (((modsR w).extractLsb' 10 3) == 7#3) mode
  | 0x181 => (VoteMode.ofCode ((modsR w).extractLsb' 4 2)).map fun mode => .vote (splitR w) mode (((modsR w).extractLsb' 3 1) == 1#1) (((modsR w).extractLsb' 0 3))
  | 0x182 => (IntTy.ofCode ((modsR w).extractLsb' 10 3)).bind fun t => (LredOp.ofCode ((modsR w).extractLsb' 0 3)).map fun op => .lred (splitR w) t op
  | 0x183 => some (.matchLanes (splitR w) (((modsR w).extractLsb' 10 3) == 7#3))
  | 0x184 => some (.flg (splitR w) (((modsR w).extractLsb' 0 1) == 1#1))
  | _ => none

/-- The rows of R138 and R183, fields not yet judged. -/
def parseControl (op : Nat) (_ext : Bool) (w : DWord) : Option Instr :=
  match op with
  | 0x1C0 => some (.bra (splitB w))
  | 0x1C1 => some (.brx (splitB w))
  | 0x1C2 => some (.call (splitB w) (((modsB w).extractLsb' 0 1) == 1#1))
  | 0x1C3 => some (.ret (splitB w))
  | 0x1C4 => some (.exit (splitB w))
  | 0x1C5 => some (.yield (splitB w))
  | 0x1C6 => some (.nop (splitB w))
  | 0x1C7 => some (.region (splitB w) (((modsB w).extractLsb' 0 1) == 1#1))
  | 0x1C8 => some (.spawn (splitX w) (((modsX w).extractLsb' 0 3)) (((modsX w).extractLsb' 3 3)))
  | 0x1C9 => some (.bjoin (splitB w))
  | 0x1CA => some (.bleave (splitB w))
  | 0x1CB => some (.bwait (splitB w))
  | 0x1CC => some (.bset (splitB w))
  | 0x1CD => some (.bget (splitB w))
  | 0x1CE => some (.esign (splitB w) (((modsB w).extractLsb' 0 2)))
  | 0x1CF => some (.eclr (splitB w) (((modsB w).extractLsb' 0 2)))
  | 0x1D0 => some (.fence (splitM w))
  | 0x1D1 => some (.barArr (splitX w) (ObjMod.ofCode ((modsX w).extractLsb' 3 7)))
  | 0x1D2 => some (.barWait (splitX w) (ObjMod.ofCode ((modsX w).extractLsb' 3 7)))
  | 0x1D3 => some (.barx (splitX w) (ObjMod.ofCode ((modsX w).extractLsb' 3 7)) (((modsX w).extractLsb' 2 1) == 1#1))
  | 0x1D4 => some (.twait (splitX w) (((modsX w).extractLsb' 0 1) == 1#1))
  | 0x1D5 => some (.tget (splitX w) (((modsX w).extractLsb' 0 2)))
  | 0x1D6 => (Cond.ofCode ((modsX w).extractLsb' 0 3)).map fun cond => .wext (splitX w) (((modsX w).extractLsb' 3 3)) cond
  | _ => none

/-- The rows of R248 and R275, fields not yet judged. -/
def parseMatrix (op : Nat) (_ext : Bool) (w : DWord) : Option Instr :=
  match op with
  | 0x280 => some (.mma (splitX w) (MmaMod.ofCode ((modsX w).extractLsb' 5 5)))
  | 0x281 => some (.mmas (splitX w) (MmaMod.ofCode ((modsX w).extractLsb' 5 5)))
  | 0x282 => some (.mldt (splitX w) (((modsX w).extractLsb' 0 2)))
  | 0x288 => some (.acqb (splitX w) (((modsX w).extractLsb' 0 5)))
  | 0x289 => some (.relb (splitX w) (((modsX w).extractLsb' 0 5)))
  | 0x28A => some (.azero (splitX w) (((modsX w).extractLsb' 0 5)))
  | 0x28B => some (.ard (splitX w) (((modsX w).extractLsb' 5 5)) (((modsX w).extractLsb' 0 5)))
  | 0x28C => some (.awr (splitX w) (((modsX w).extractLsb' 5 5)) (((modsX w).extractLsb' 0 5)))
  | 0x28D => some (.accst (splitX w) (((modsX w).extractLsb' 9 1) == 1#1) (((modsX w).extractLsb' 6 3)) (((modsX w).extractLsb' 3 3)) (((modsX w).extractLsb' 1 2)))
  | 0x2C0 => some (.jopen (splitX w) (((modsX w).extractLsb' 3 1) == 1#1) (((modsX w).extractLsb' 0 3)))
  | 0x2C1 => (VFmt.ofCode ((modsX w).extractLsb' 0 2)).map fun v => .jins (splitX w) v
  | 0x2C2 => (VFmt.ofCode ((modsX w).extractLsb' 0 2)).map fun v => .jrun (splitX w) v
  | 0x2C3 => some (.jdrain (splitX w))
  | 0x2C4 => some (.jstat (splitX w) (((modsX w).extractLsb' 0 2)))
  | 0x2C5 => some (.jclose (splitX w))
  | _ => none

/-- The rows of R213 and R233, fields not yet judged. -/
def parseAccess (op : Nat) (ext : Bool) (w : DWord) : Option Instr :=
  match op with
  | 0x300 => some (.alp (splitB w))
  | 0x301 => some (.agen (splitR w) (((modsR w).extractLsb' 3 1) == 1#1) (((modsR w).extractLsb' 0 3)))
  | 0x302 => (AidxMode.ofCode ((modsR w).extractLsb' 0 2)).map fun mode => .aidx (splitR w) mode
  | 0x303 => (QSize.ofCode ((modsX w).extractLsb' 0 3)).map fun size => .aload (splitX w) (((modsX w).extractLsb' 3 1) == 1#1) size
  | 0x304 => (QSize.ofCode ((modsX w).extractLsb' 0 3)).map fun size => .ascat (splitX w) (((modsX w).extractLsb' 3 1) == 1#1) size
  | 0x310 => some (.qpop (splitX w))
  | 0x311 => if ext then some (.qpushStart (splitX w) (((modsX w).extractLsb' 0 2))) else if (modsX w) == 1#10 then some (.qpushClose (splitX w)) else some (.qpush (splitX w))
  | 0x312 => some (.qpeek (splitX w))
  | 0x340 => some (.hoist (splitX w))
  | 0x341 => some (.rrot (splitX w) (((modsX w).extractLsb' 0 2)))
  | _ => none

/-- The rows of R313 and R152, fields not yet judged. -/
def parseFabric (op : Nat) (_ext : Bool) (w : DWord) : Option Instr :=
  match op with
  | 0x360 => some (.fget (splitX w) (((modsX w).extractLsb' 6 1) == 1#1) (((modsX w).extractLsb' 5 1) == 1#1))
  | 0x361 => some (.fput (splitX w) (((modsX w).extractLsb' 9 1) == 1#1) (((modsX w).extractLsb' 8 1) == 1#1) (((modsX w).extractLsb' 7 1) == 1#1) (((modsX w).extractLsb' 6 1) == 1#1))
  | 0x362 => (FatomOp.ofCode ((modsX w).extractLsb' 0 4)).map fun op => .fatom (splitX w) (((modsX w).extractLsb' 9 1) == 1#1) (((modsX w).extractLsb' 8 1) == 1#1) (((modsX w).extractLsb' 7 1) == 1#1) (((modsX w).extractLsb' 4 2)) op
  | 0x363 => some (.fcas (splitX w) (((modsX w).extractLsb' 9 1) == 1#1) (((modsX w).extractLsb' 8 1) == 1#1) (((modsX w).extractLsb' 4 2)))
  | 0x364 => some (.fflush (splitX w))
  | 0x365 => some (.fmcast (splitX w) (((modsX w).extractLsb' 9 1) == 1#1) (((modsX w).extractLsb' 8 1) == 1#1) (((modsX w).extractLsb' 7 1) == 1#1) (((modsX w).extractLsb' 6 1) == 1#1))
  | 0x366 => (FredOp.ofCode ((modsX w).extractLsb' 0 4)).map fun op => .fred (splitX w) (((modsX w).extractLsb' 8 1) == 1#1) (((modsX w).extractLsb' 6 1) == 1#1) op
  | 0x367 => if (modsX w) == 1#10 then some (.fwinRevoke (splitX w)) else some (.fwinOpen (splitX w))
  | 0x3A0 => some (.trap (splitI w))
  | 0x3A1 => (RteMode.ofCode ((modsR w).extractLsb' 0 2)).map fun mode => .rte (splitR w) mode
  | 0x3A2 => some (.rdcw (splitR w) (((modsR w).extractLsb' 0 12)))
  | 0x3A3 => some (.wrcw (splitR w) (((modsR w).extractLsb' 0 12)))
  | _ => none

/-- The rows of R182: memory opcodes, whose low bits hold the type or the operation. -/
def parseMemory (op : Nat) (ext : Bool) (w : DWord) : Option Instr :=
  let t := IntTy.ofCode (BitVec.ofNat 3 op)
  let k := AtomOp.ofCode (BitVec.ofNat 5 op)
  if op < 0x208 then t.map fun t => if ext then .ldTry (splitT w) t else .ld (splitM w) t
  else if op < 0x210 then t.map fun t => if ext then .stTry (splitT w) t else .st (splitM w) t
  else if op < 0x218 then t.map fun t => if ext then .ldsTry (splitT w) t else .lds (splitM w) t
  else if op < 0x220 then t.map fun t => if ext then .stsTry (splitT w) t else .sts (splitM w) t
  else if op < 0x228 then t.map fun t => .ldk (splitM w) t
  else if op < 0x230 then t.map fun t => .stk (splitM w) t
  else if op = 0x230 then some (.pref (splitM w))
  else if op = 0x231 then some (if ext then .casTry (splitT w) false false else .cas (splitM w) false)
  else if op = 0x232 then some (if ext then .casTry (splitT w) false true else .cas (splitM w) true)
  else if op = 0x233 then some (if ext then .casTry (splitT w) true false else .casScr (splitM w) false)
  else if op = 0x234 then some (if ext then .casTry (splitT w) true true else .casScr (splitM w) true)
  else if op < 0x240 then none
  else if op < 0x260 then k.map fun k => if ext then .red (splitM w) k else .atom (splitM w) k
  else k.map fun k => if ext then .redScr (splitM w) k else .atomScr (splitM w) k

/-- The instruction whose fields a word holds, by opcode range (R82); none where the opcode or a code is unassigned. -/
def parse (w : DWord) : Option Instr :=
  let op := (opField w).toNat
  let ext := extField w
  if op < 0x100 then parseInt op ext w
  else if op < 0x1C0 then parseFloat op ext w
  else if op < 0x200 then parseControl op ext w
  else if op < 0x280 then parseMemory op ext w
  else if op < 0x300 then parseMatrix op ext w
  else if op < 0x360 then parseAccess op ext w
  else parseFabric op ext w

/-! ### The encoder -/

/-- The word of an instruction, from the encoding tables; engine events have none. -/
def encode : Instr → Option DWord
  | .iadd f t sat => some (joinR (0x000#10) false f (t.code ++ BitVec.ofBool sat ++ 0#9))
  | .isub f t sat => some (joinR (0x001#10) false f (t.code ++ BitVec.ofBool sat ++ 0#9))
  | .imul f t sat => some (joinR (0x002#10) false f (t.code ++ BitVec.ofBool sat ++ 0#9))
  | .imulh f t => some (joinR (0x003#10) false f (t.code ++ 0#10))
  | .imad f t sat => some (joinR (0x004#10) false f (t.code ++ BitVec.ofBool sat ++ 0#9))
  | .imin f t => some (joinR (0x005#10) false f (t.code ++ 0#10))
  | .imax f t => some (joinR (0x006#10) false f (t.code ++ 0#10))
  | .iabs f t sat => some (joinR (0x007#10) false f (t.code ++ BitVec.ofBool sat ++ 0#9))
  | .ineg f t sat => some (joinR (0x008#10) false f (t.code ++ BitVec.ofBool sat ++ 0#9))
  | .and f t => some (joinR (0x010#10) false f (t.code ++ 0#10))
  | .or f t => some (joinR (0x011#10) false f (t.code ++ 0#10))
  | .xor f t => some (joinR (0x012#10) false f (t.code ++ 0#10))
  | .andn f t => some (joinR (0x013#10) false f (t.code ++ 0#10))
  | .not f t => some (joinR (0x014#10) false f (t.code ++ 0#10))
  | .shl f t imm cnt => some (joinR (0x020#10) false f (t.code ++ 0#1 ++ BitVec.ofBool imm ++ 0#2 ++ cnt))
  | .shr f t imm cnt => some (joinR (0x021#10) false f (t.code ++ 0#1 ++ BitVec.ofBool imm ++ 0#2 ++ cnt))
  | .sar f t imm cnt => some (joinR (0x022#10) false f (t.code ++ 0#1 ++ BitVec.ofBool imm ++ 0#2 ++ cnt))
  | .rot f t imm cnt => some (joinR (0x023#10) false f (t.code ++ 0#1 ++ BitVec.ofBool imm ++ 0#2 ++ cnt))
  | .shf f left => some (joinR (0x024#10) false f (6#3 ++ 0#9 ++ BitVec.ofBool left))
  | .popc f t => some (joinR (0x030#10) false f (t.code ++ 0#10))
  | .clz f t => some (joinR (0x031#10) false f (t.code ++ 0#10))
  | .brev f t => some (joinR (0x032#10) false f (t.code ++ 0#10))
  | .bfx f t => some (joinR (0x033#10) false f (t.code ++ 0#10))
  | .bfi f t => some (joinR (0x034#10) false f (t.code ++ 0#10))
  | .perm f => some (joinR (0x035#10) false f (6#3 ++ 0#10))
  | .icmp f t comb cond => some (joinR (0x040#10) false f (t.code ++ 0#5 ++ comb.code ++ cond.code))
  | .sel f t inv flag => some (joinR (0x041#10) false f (t.code ++ 0#6 ++ BitVec.ofBool inv ++ flag))
  | .mov f t du au => some (joinR (0x050#10) false f (t.code ++ 0#8 ++ BitVec.ofBool du ++ BitVec.ofBool au))
  | .movx f t => some (joinR (0x051#10) false f (t.code ++ 0#10))
  | .movxw f t => some (joinR (0x052#10) false f (t.code ++ 0#10))
  | .lea f t sh => some (joinR (0x053#10) false f (t.code ++ 0#7 ++ sh))
  | .movi f w64 => some (joinI (0x080#10) w64 f)
  | .iaddImm f w64 => some (joinI (0x081#10) w64 f)
  | .imulImm f w64 => some (joinI (0x082#10) w64 f)
  | .andImm f w64 => some (joinI (0x083#10) w64 f)
  | .orImm f w64 => some (joinI (0x084#10) w64 f)
  | .xorImm f w64 => some (joinI (0x085#10) w64 f)
  | .fadd f r => some (joinR (0x100#10) false f (0#3 ++ r.code ++ 0#8))
  | .fsub f r => some (joinR (0x101#10) false f (0#3 ++ r.code ++ 0#8))
  | .fmul f r => some (joinR (0x102#10) false f (0#3 ++ r.code ++ 0#8))
  | .ffma f r => some (joinR (0x103#10) false f (0#3 ++ r.code ++ 0#8))
  | .fmin f => some (joinR (0x104#10) false f (0#13))
  | .fmax f => some (joinR (0x105#10) false f (0#13))
  | .fcmp f comb cond => some (joinR (0x106#10) false f (0#8 ++ comb.code ++ cond.code))
  | .frcp f r => some (joinR (0x110#10) false f (0#3 ++ r.code ++ 0#8))
  | .frsq f r => some (joinR (0x111#10) false f (0#3 ++ r.code ++ 0#8))
  | .fsqrt f r => some (joinR (0x112#10) false f (0#3 ++ r.code ++ 0#8))
  | .fex2 f => some (joinR (0x113#10) false f (0#13))
  | .flg2 f => some (joinR (0x114#10) false f (0#13))
  | .fsin f => some (joinR (0x115#10) false f (0#13))
  | .fcos f => some (joinR (0x116#10) false f (0#13))
  | .fcvt f df r sf el => some (joinR (0x120#10) false f (df.code ++ r.code ++ sf.code ++ 0#3 ++ el))
  | .frnd f r => some (joinR (0x121#10) false f (0#3 ++ r.code ++ 0#8))
  | .fcls f sf mask => some (joinR (0x122#10) false f (sf.code ++ 0#1 ++ mask))
  | .f2i f t r sf el => some (joinR (0x123#10) false f (t.code ++ r.code ++ sf.code ++ 0#3 ++ el))
  | .i2f f df r t => some (joinR (0x124#10) false f (df.code ++ r.code ++ t.code ++ 0#5))
  | .hadd2 f m r => some (joinR (0x130#10) false f (m.code ++ r.code ++ 0#8))
  | .hmul2 f m r => some (joinR (0x131#10) false f (m.code ++ r.code ++ 0#8))
  | .hfma2 f m r => some (joinR (0x132#10) false f (m.code ++ r.code ++ 0#8))
  | .shfl f w64 mode => some (joinR (0x180#10) false f (w6Code w64 ++ 0#7 ++ mode.code))
  | .vote f mode inv flag => some (joinR (0x181#10) false f (0#7 ++ mode.code ++ BitVec.ofBool inv ++ flag))
  | .lred f t op => some (joinR (0x182#10) false f (t.code ++ 0#7 ++ op.code))
  | .matchLanes f w64 => some (joinR (0x183#10) false f (w6Code w64 ++ 0#10))
  | .flg f wr => some (joinR (0x184#10) false f (0#12 ++ BitVec.ofBool wr))
  | .bra f => some (joinB (0x1C0#10) false f (0#9))
  | .brx f => some (joinB (0x1C1#10) false f (0#9))
  | .call f ind => some (joinB (0x1C2#10) false f (0#8 ++ BitVec.ofBool ind))
  | .ret f => some (joinB (0x1C3#10) false f (0#9))
  | .exit f => some (joinB (0x1C4#10) false f (0#9))
  | .yield f => some (joinB (0x1C5#10) false f (0#9))
  | .nop f => some (joinB (0x1C6#10) false f (0#9))
  | .region f endOnly => some (joinB (0x1C7#10) false f (0#8 ++ BitVec.ofBool endOnly))
  | .spawn f argc ms => some (joinX (0x1C8#10) false f (0#4 ++ ms ++ argc))
  | .bjoin f => some (joinB (0x1C9#10) false f (0#9))
  | .bleave f => some (joinB (0x1CA#10) false f (0#9))
  | .bwait f => some (joinB (0x1CB#10) false f (0#9))
  | .bset f => some (joinB (0x1CC#10) false f (0#9))
  | .bget f => some (joinB (0x1CD#10) false f (0#9))
  | .esign f e => some (joinB (0x1CE#10) false f (0#7 ++ e))
  | .eclr f e => some (joinB (0x1CF#10) false f (0#7 ++ e))
  | .trap f => some (joinI (0x3A0#10) false f)
  | .rte f mode => some (joinR (0x3A1#10) false f (0#11 ++ mode.code))
  | .rdcw f n => some (joinR (0x3A2#10) false f (0#1 ++ n))
  | .wrcw f n => some (joinR (0x3A3#10) false f (0#1 ++ n))
  | .ld f t => some (joinM (0x200#10 + t.code.setWidth 10) false f)
  | .ldTry f t => some (joinT (0x200#10 + t.code.setWidth 10) true f)
  | .st f t => some (joinM (0x208#10 + t.code.setWidth 10) false f)
  | .stTry f t => some (joinT (0x208#10 + t.code.setWidth 10) true f)
  | .lds f t => some (joinM (0x210#10 + t.code.setWidth 10) false f)
  | .ldsTry f t => some (joinT (0x210#10 + t.code.setWidth 10) true f)
  | .sts f t => some (joinM (0x218#10 + t.code.setWidth 10) false f)
  | .stsTry f t => some (joinT (0x218#10 + t.code.setWidth 10) true f)
  | .ldk f t => some (joinM (0x220#10 + t.code.setWidth 10) false f)
  | .stk f t => some (joinM (0x228#10 + t.code.setWidth 10) false f)
  | .pref f => some (joinM (0x230#10) false f)
  | .cas f w64 => some (joinM (0x231#10 + (BitVec.ofBool w64).setWidth 10) false f)
  | .casScr f w64 => some (joinM (0x233#10 + (BitVec.ofBool w64).setWidth 10) false f)
  | .casTry f scr w64 => some (joinT (0x231#10 + (BitVec.ofBool scr ++ BitVec.ofBool w64).setWidth 10) true f)
  | .atom f k => some (joinM (0x240#10 + k.code.setWidth 10) false f)
  | .red f k => some (joinM (0x240#10 + k.code.setWidth 10) true f)
  | .atomScr f k => some (joinM (0x260#10 + k.code.setWidth 10) false f)
  | .redScr f k => some (joinM (0x260#10 + k.code.setWidth 10) true f)
  | .fence f => some (joinM (0x1D0#10) false f)
  | .barArr f o => some (joinX (0x1D1#10) false f (o.code ++ 0#3))
  | .barWait f o => some (joinX (0x1D2#10) false f (o.code ++ 0#3))
  | .barx f o noArr => some (joinX (0x1D3#10) false f (o.code ++ BitVec.ofBool noArr ++ 0#2))
  | .twait f ext => some (joinX (0x1D4#10) false f (0#9 ++ BitVec.ofBool ext))
  | .tget f mode => some (joinX (0x1D5#10) false f (0#8 ++ mode))
  | .wext f scope cond => some (joinX (0x1D6#10) false f (0#4 ++ scope ++ cond.code))
  | .alp f => some (joinB (0x300#10) false f (0#9))
  | .agen f uns sh => some (joinR (0x301#10) false f (0#9 ++ BitVec.ofBool uns ++ sh))
  | .aidx f mode => some (joinR (0x302#10) false f (0#11 ++ mode.code))
  | .aload f scr size => some (joinX (0x303#10) false f (0#6 ++ BitVec.ofBool scr ++ size.code))
  | .ascat f scr size => some (joinX (0x304#10) false f (0#6 ++ BitVec.ofBool scr ++ size.code))
  | .qpop f => some (joinX (0x310#10) false f (0#10))
  | .qpush f => some (joinX (0x311#10) false f (0#10))
  | .qpushClose f => some (joinX (0x311#10) false f (0#9 ++ 1#1))
  | .qpushStart f ms => some (joinX (0x311#10) true f (0#8 ++ ms))
  | .qpeek f => some (joinX (0x312#10) false f (0#10))
  | .hoist f => some (joinX (0x340#10) false f (0#10))
  | .rrot f ms => some (joinX (0x341#10) false f (0#8 ++ ms))
  | .mma f m => some (joinX (0x280#10) false f (m.code ++ 0#5))
  | .mmas f m => some (joinX (0x281#10) false f (m.code ++ 0#5))
  | .mldt f es => some (joinX (0x282#10) false f (0#8 ++ es))
  | .acqb f n1 => some (joinX (0x288#10) false f (0#5 ++ n1))
  | .relb f n1 => some (joinX (0x289#10) false f (0#5 ++ n1))
  | .azero f n1 => some (joinX (0x28A#10) false f (0#5 ++ n1))
  | .ard f n1 col => some (joinX (0x28B#10) false f (n1 ++ col))
  | .awr f n1 col => some (joinX (0x28C#10) false f (n1 ++ col))
  | .accst f scr fmt scope order => some (joinX (0x28D#10) false f (BitVec.ofBool scr ++ fmt ++ scope ++ order ++ 0#1))
  | .jopen f block n => some (joinX (0x2C0#10) false f (0#6 ++ BitVec.ofBool block ++ n))
  | .jins f v => some (joinX (0x2C1#10) false f (0#8 ++ v.code))
  | .jrun f v => some (joinX (0x2C2#10) false f (0#8 ++ v.code))
  | .jdrain f => some (joinX (0x2C3#10) false f (0#10))
  | .jstat f item => some (joinX (0x2C4#10) false f (0#8 ++ item))
  | .jclose f => some (joinX (0x2C5#10) false f (0#10))
  | .fget f dScr bScr => some (joinX (0x360#10) false f (0#3 ++ BitVec.ofBool dScr ++ BitVec.ofBool bScr ++ 0#5))
  | .fput f ord cnt sig scr => some (joinX (0x361#10) false f (BitVec.ofBool ord ++ BitVec.ofBool cnt ++ BitVec.ofBool sig ++ BitVec.ofBool scr ++ 0#6))
  | .fatom f ord w64 noRet order op => some (joinX (0x362#10) false f (BitVec.ofBool ord ++ BitVec.ofBool w64 ++ BitVec.ofBool noRet ++ 0#1 ++ order ++ op.code))
  | .fcas f ord w64 order => some (joinX (0x363#10) false f (BitVec.ofBool ord ++ BitVec.ofBool w64 ++ 0#2 ++ order ++ 0#4))
  | .fflush f => some (joinX (0x364#10) false f (0#10))
  | .fmcast f ord cnt sig scr => some (joinX (0x365#10) false f (BitVec.ofBool ord ++ BitVec.ofBool cnt ++ BitVec.ofBool sig ++ BitVec.ofBool scr ++ 0#6))
  | .fred f cnt scr op => some (joinX (0x366#10) false f (0#1 ++ BitVec.ofBool cnt ++ 0#1 ++ BitVec.ofBool scr ++ 0#2 ++ op.code))
  | .fwinOpen f => some (joinX (0x367#10) false f (0#10))
  | .fwinRevoke f => some (joinX (0x367#10) false f (0#9 ++ 1#1))
  | .clauseStart _ _ => none
  | .spawnBinTimerExpiry _ _ => none
  | .spawnedSquadDispatch _ => none
  | .squadRetirement _ => none
  | .exitRecordWrite _ => none
  | .musterRetirement _ _ => none
  | .requestPerform _ _ _ _ => none
  | .escortLanding _ => none
  | .landingBufferMove _ _ => none
  | .eviction _ _ => none
  | .rehousing _ _ => none
  | .pageFaultRecordAppend _ => none
  | .regionRestart _ => none
  | .barrierUpdate _ => none
  | .unsupportedAtomicService _ => none
  | .externalWaitExpiry _ => none
  | .wextRetest _ => none
  | .quarryIssue _ _ => none
  | .quarryStartTaken _ => none
  | .quarryReadLanding _ => none
  | .quarryStartCompletion _ _ => none
  | .hoistLineLanding _ _ => none
  | .hoistCompletion _ => none
  | .hoistFault _ => none
  | .ringRoundStart _ _ => none
  | .ringRoundFailure _ _ => none
  | .ownershipService _ _ => none
  | .drainCompletion _ => none
  | .fabricRequestArrival _ => none
  | .fabricPlacement _ => none
  | .fabricForward _ => none
  | .fabricResponse _ _ _ _ => none
  | .responseTimeout _ => none
  | .packetInjection _ => none
  | .reductionCombine _ _ => none
  | .writeCombiningAgeExpiry _ _ => none
  | .wavelengthPark _ => none
  | .wavelengthWake _ => none
  | .wavelengthWakeComplete _ => none
  | .commandAcceptance => none
  | .commandStart _ => none
  | .launch _ => none
  | .codeLoad _ => none
  | .viewRegistration _ => none
  | .groupConfiguration _ => none
  | .fabricTableInvalidation _ => none
  | .tlbInvalidation _ => none
  | .contextCreate _ => none
  | .contextTeardown _ => none
  | .queueConfiguration _ => none
  | .pageFaultResolution _ => none
  | .unitPlacement => none
  | .barrierInitWrite _ => none
  | .clusterGateRequest _ => none
  | .clusterGatingComplete _ => none
  | .clusterGatingAbandon _ => none
  | .clusterWakeComplete _ => none
  | .watchdogReport _ => none
  | .preemptionRequest _ => none
  | .squadSave _ => none
  | .savedReply _ => none
  | .musterCoreSave _ => none
  | .coreSetRestore _ => none
  | .benchCloseSpill _ _ => none
  | .migration _ _ _ _ => none
  | .migrationAbandon => none
  | .tierCountHalving => none
  | .tierSwap _ _ => none
  | .refreshTick _ => none
  | .refreshPullIn _ => none
  | .clockWindowEnd _ _ _ => none
  | .fillerInjection _ _ => none
  | .errorCounted _ _ _ _ => none
  | .errorWindowEnd _ => none
  | .rowCopyComplete _ => none
  | .reset => none
  | .bootGo _ => none
  | .verifyComplete => none
  | .recoveryRequest => none
  | .fatalError => none
  | .hostAccess _ => none
  | .hostRegisterWrite _ _ => none
  | .getVersion => none
  | .getCapabilities => none
  | .negotiateAlgorithms _ _ => none
  | .getDigests => none
  | .getCertificate _ _ _ => none
  | .challenge _ _ _ _ => none
  | .getMeasurements _ _ _ _ => none
  | .keyExchange _ _ _ => none
  | .finish _ _ => none
  | .endSession _ => none
  | .vendorDefinedRequest _ _ _ => none
  | .illegalInstruction _ => none
  | .ringTileLanding _ _ => none
  | .packageLimiter _ _ => none

/-- Why a word is no instruction (R93 step 1). -/
inductive DecodeError where
  /-- The opcode is unassigned (R92), or a code of the word is one its row does not allow. -/
  | unassigned
  /-- A value the row rules out, Ext set without a meaning, a format-I bit 0, or an undefined modifier bit. -/
  | badField
  deriving DecidableEq, Repr

/-- Decode a word (R93 step 1). A word stands for an instruction when its fields name one that its row allows and every
other bit of the word is as that instruction's encoding has it: an undefined modifier bit, a set Ext without meaning and a
set bit 0 of format I are rejected so. -/
def decode (w : DWord) : Except DecodeError Instr :=
  match parse w with
  | none => .error .unassigned
  | some i => if i.wf && encode i == some w then .ok i else .error .badField

/-- The instruction a fetched word stands for: a rejected word is the row ILLEGAL_INSTRUCTION (R92, R93). -/
def decodeOrIllegal (w : DWord) : Instr :=
  match decode w with
  | .ok i => i
  | .error _ => .illegalInstruction w

/-- The instruction the decoder reads from an instruction whose bits are w, numbered as spec/opcode_table.json numbers
them. An instruction of this machine is one 64-bit word, so w is that word; nbits above 64 names no instruction. -/
def decodeTableWord (nbits w : Nat) : Option Instr :=
  if nbits ≤ 64 then
    match decode (BitVec.ofNat 64 w) with
    | .ok i => some i
    | .error _ => none
  else none

end Sys2Proof
end

