-- ==== Sys2Proof/Config.lean ====
section
/-! DEFINITION. What an implementation fixes and the spec leaves open: constants without a body, so that no proof can see a
value of them. Each is named in the assumption log. -/

namespace Sys2Proof.Config

/-- A value the spec leaves open, one for each count of the model's counter `fresh`. (DESIGN CHOICE, log 1.) -/
opaque freeWord : Nat → BitVec 64

/-- Whether the Kelesh link fails to complete the device access of this count, after its own retries (R373). (DESIGN CHOICE, log 13.) -/
opaque linkLost : Nat → Bool

/-- The unpublished approximations of `fex2`, `flg2`, `fsin` and `fcos`: functions of the FP32 input bits alone (R124). (DESIGN CHOICE, log 14.) -/
opaque approxEx2 : BitVec 32 → BitVec 32
opaque approxLg2 : BitVec 32 → BitVec 32
opaque approxSin : BitVec 32 → BitVec 32
opaque approxCos : BitVec 32 → BitVec 32

/-- Whether the flash image, and the n-th image posted from a host address with a length, bears Stafolet's signature (R374). (DESIGN CHOICE, log 17.) -/
opaque flashSigned : Bool
opaque postedSigned : Nat → BitVec 64 → BitVec 32 → Bool

/-- Whether that image's version is no lower than the fused minimum (R374). -/
opaque flashVersionOk : Bool
opaque postedVersionOk : Nat → BitVec 64 → BitVec 32 → Bool

/-- Bytes of an SPDM response that rest on the identity key, on digests or on random numbers: message code, request
parameters, measurement contents (R376). -/
opaque spdmBytes : Nat → List Byte → List Byte

/-- Whether the authentication code of a FINISH request verifies (R376). -/
opaque finishOk : Nat → List Byte → Bool

/-- DRAM row that holds a device address, by its kind-5 code (R94, R381): the interleave rests on the fitted stacks and on the channels that are retired,
with which it narrows (R2, R169). (DESIGN CHOICE, log 80.) -/
opaque rowOf : List Nat → List Nat → Nat → BitVec 40

/-- Physical range that the memory-key policy assigns to a key slot: first byte and byte past the end (R377). (DESIGN CHOICE, log 15.) -/
opaque keyRange : Nat → Nat × Nat

end Sys2Proof.Config
end

