-- ==== Sys2Proof/Machine/Sparse.lean ====
section
/-! DEFINITION. Sparse tables: lists of (key, value) pairs in one canonical form, keys strictly rising and no pair holding
the value an unlisted key reads as. Memory, scratch, register files and accumulator banks are held so, and two tables with
the same contents are the same list. -/

namespace Sys2Proof

/-- A table from natural numbers, listing only the keys whose value is not the table's default. -/
abbrev Sparse (α : Type) := List (Nat × α)

namespace Sparse

/-- The value at key i; the default d where i is not listed. -/
def get {α : Type} (d : α) : Sparse α → Nat → α
  | [], _ => d
  | (k, v) :: m, i => if k = i then v else get d m i

/-- Remove key i. -/
def del {α : Type} (m : Sparse α) (i : Nat) : Sparse α := m.filter fun e => e.1 != i

/-- Put a pair in front of the first larger key. -/
def ins {α : Type} : Sparse α → Nat → α → Sparse α
  | [], i, v => [(i, v)]
  | (k, w) :: m, i, v => if i < k then (i, v) :: (k, w) :: m else (k, w) :: ins m i v

/-- Set key i to v; setting the default value removes the key. -/
def set {α : Type} [DecidableEq α] (d : α) (m : Sparse α) (i : Nat) (v : α) : Sparse α :=
  if v = d then m.del i else (m.del i).ins i v

/-- The canonical form: keys strictly rising, no default value listed. -/
abbrev Wf {α : Type} (d : α) (m : Sparse α) : Prop := m.Pairwise (fun a b => a.1 < b.1) ∧ ∀ e ∈ m, e.2 ≠ d

/-- Write consecutive keys. -/
def setList {α : Type} [DecidableEq α] (d : α) (m : Sparse α) (i : Nat) : List α → Sparse α
  | [] => m
  | v :: vs => (m.set d i v).setList d (i + 1) vs

/-- Read n consecutive keys. -/
def getList {α : Type} (d : α) (m : Sparse α) (i n : Nat) : List α := (List.range n).map fun k => m.get d (i + k)

/-- Drop every key from lo up to, not including, hi. -/
def clearRange {α : Type} (m : Sparse α) (lo hi : Nat) : Sparse α := m.filter fun e => decide (e.1 < lo) || decide (hi ≤ e.1)

end Sparse

/-- A byte-addressed memory; an unlisted byte reads as zero. -/
abbrev Mem := List Host.Cell

/-- The canonical form of a memory: addresses strictly rising, no zero byte listed. -/
abbrev Mem.Wf (m : Mem) : Prop := Sparse.Wf (0 : Byte) m

/-- The byte at an address. (DESIGN CHOICE, log 2.) -/
def Mem.byte (m : Mem) (a : Nat) : Byte := Sparse.get 0 m a

/-- Write one byte. -/
def Mem.setByte (m : Mem) (a : Nat) (v : Byte) : Mem := Sparse.set 0 m a v

/-- n bytes from an address on. -/
def Mem.bytes (m : Mem) (a n : Nat) : List Byte := Sparse.getList 0 m a n

/-- Write bytes from an address on. -/
def Mem.setBytes (m : Mem) (a : Nat) (bs : List Byte) : Mem := Sparse.setList 0 m a bs

end Sys2Proof
end

