-- ==== Sys2Proof/Machine/Bits.lean ====
section
/-! DEFINITION. Bit fields of records, byte order (little-endian, R68, R204), lane masks and small list helpers. -/

namespace Sys2Proof

/-- Bits hi:lo of a number, as field maps write them (R6). -/
def bits (x hi lo : Nat) : Nat := (x >>> lo) % 2 ^ (hi - lo + 1)

/-- Whether bit i of a number is set. -/
def bit (x i : Nat) : Bool := x.testBit i

/-- A field's value moved to its place. -/
def fld (lo v : Nat) : Nat := v <<< lo

/-- A flag as 0 or 1. -/
def b01 (b : Bool) : Nat := if b then 1 else 0

/-- The low n bytes of a number, lowest first. -/
def leBytes : Nat → Nat → List Byte
  | 0, _ => []
  | n + 1, v => BitVec.ofNat 8 v :: leBytes n (v / 256)

/-- The number that bytes form, lowest first. -/
def ofLe : List Byte → Nat
  | [] => 0
  | b :: bs => b.toNat + 256 * ofLe bs

/-- The number in n bytes of a memory. -/
def Mem.le (m : Mem) (a n : Nat) : Nat := ofLe (m.bytes a n)

/-- Write a number as n bytes. -/
def Mem.setLe (m : Mem) (a n v : Nat) : Mem := m.setBytes a (leBytes n v)

/-- The signed value of the low w bits of a number. -/
def signed (w x : Nat) : Int := if (x % 2 ^ w) < 2 ^ (w - 1) then (x % 2 ^ w : Nat) else ((x % 2 ^ w : Nat) : Int) - 2 ^ w

/-- The w-bit pattern of an integer (WRAP of R99, as a pattern). -/
def pattern (w : Nat) (y : Int) : Nat := (y % 2 ^ w).toNat

/-- The lanes of a mask, ascending. -/
def lanesOf (m : LaneMask) : List Nat := (List.range 32).filter fun l => m.getLsbD l

/-- The mask of one lane. -/
def laneBit (l : Nat) : LaneMask := BitVec.ofNat 32 (2 ^ l)

/-- The mask of the lanes that satisfy p. -/
def maskOf (p : Nat → Bool) : LaneMask := BitVec.ofNat 32 (((List.range 32).filter p).foldl (fun n l => n + 2 ^ l) 0)

/-- The lowest lane of a mask. -/
def lowestLane (m : LaneMask) : Option Nat := (lanesOf m).head?

/-- Set or clear bit l of a mask. -/
def setLane (m : LaneMask) (l : Nat) (v : Bool) : LaneMask := if v then m ||| laneBit l else m &&& ~~~ laneBit l

/-- Change element i of a list; nothing where i is past its end. -/
def modAt {α : Type} (xs : List α) (i : Nat) (f : α → α) : List α := xs.modify i f

/-- Round up to a multiple. -/
def roundUp (x n : Nat) : Nat := (x + n - 1) / n * n

/-- Whether two ranges of bytes meet. -/
def overlap (a n b m : Nat) : Bool := decide (a < b + m) && decide (b < a + n)

end Sys2Proof
end

