-- ==== Sys2Proof/Machine/Float.lean ====
section
/-! DEFINITION. Floating-point formats, exact values, the helper ROUND and the arithmetic built on it (R61 to R67, R73,
R76, R120 to R129). A finite value is a sign, a natural mantissa and a binary exponent, so every operation is computed
exactly and rounded once. -/

namespace Sys2Proof

/-- A floating-point value: (-1)^neg × m × 2^e when finite. The field `sticky` of an exact result says that a positive amount
below one unit of m is missing (quotients and roots). -/
inductive FVal where
  | nan
  | inf (neg : Bool)
  | fin (neg : Bool) (m : Nat) (e : Int) (sticky : Bool)
  deriving DecidableEq, Repr

/-- Exponent field width (R61). -/
def Fmt.expW : Fmt → Nat
  | .f32 | .bf16 => 8
  | .f16 | .e5m2 => 5
  | .e4m3 => 4

/-- Mantissa width (R61). -/
def Fmt.manW : Fmt → Nat
  | .f32 => 23
  | .bf16 => 7
  | .f16 => 10
  | .e4m3 => 3
  | .e5m2 => 2

/-- Exponent bias (R61). -/
def Fmt.bias : Fmt → Int
  | .f32 | .bf16 => 127
  | .f16 | .e5m2 => 15
  | .e4m3 => 7

/-- Width in bits. -/
def Fmt.width (f : Fmt) : Nat := 1 + f.expW + f.manW

/-- Width in bytes. -/
def Fmt.bytes (f : Fmt) : Nat := f.width / 8

/-- Default NaN (R62). -/
def Fmt.defaultNaN : Fmt → Nat
  | .f32 => 0x7FC00000
  | .bf16 => 0x7FC0
  | .f16 => 0x7E00
  | .e4m3 => 0x7F
  | .e5m2 => 0x7E

/-- Encoding of the largest finite magnitude (R62). -/
def Fmt.maxFinite : Fmt → Nat
  | .f32 => 0x7F7FFFFF
  | .bf16 => 0x7F7F
  | .f16 => 0x7BFF
  | .e4m3 => 0x7E
  | .e5m2 => 0x7B

/-- Encoding of +∞; in E4M3, which has none, R66 puts the largest finite value in its place. -/
def Fmt.infEnc : Fmt → Nat
  | .f32 => 0x7F800000
  | .bf16 => 0x7F80
  | .f16 => 0x7C00
  | .e4m3 => 0x7E
  | .e5m2 => 0x7C

/-- The value of an encoding (R61, R62). -/
def unpack (f : Fmt) (x : Nat) : FVal :=
  let neg := bit x (f.width - 1)
  let ex := bits x (f.width - 2) f.manW
  let man := x % 2 ^ f.manW
  if f = .e4m3 ∧ ex = 15 ∧ man = 7 then .nan
  else if f ≠ .e4m3 ∧ ex = 2 ^ f.expW - 1 then (if man = 0 then .inf neg else .nan)
  else if ex = 0 then .fin neg man (1 - f.bias - f.manW) false
  else .fin neg (2 ^ f.manW + man) (ex - f.bias - f.manW) false

/-- Put a sign bit on a magnitude encoding. -/
def withSign (f : Fmt) (neg : Bool) (mag : Nat) : Nat := if neg then 2 ^ (f.width - 1) + mag else mag

/-- Whether the kept part k of a magnitude goes up by one unit: `cmp` compares the dropped part with half a unit,
`inexact` says that something is dropped (R65). -/
def roundsUp (r : Rnd) (neg : Bool) (k : Nat) (cmp : Ordering) (inexact : Bool) : Bool :=
  match r with
  | .rn => match cmp with
    | .gt => true
    | .eq => k % 2 == 1
    | .lt => false
  | .rz => false
  | .rm => neg && inexact
  | .rp => !neg && inexact

/-- Round m × 2^e (plus the sticky amount) to a multiple of 2^q in mode r: the multiple. -/
def roundAt (r : Rnd) (neg : Bool) (m : Nat) (e : Int) (sticky : Bool) (q : Int) : Nat :=
  if q ≤ e then
    let k := m <<< (e - q).toNat
    k + b01 (roundsUp r neg k .lt sticky)
  else
    let sh := (q - e).toNat
    let k := m >>> sh
    let rem := m % 2 ^ sh
    let half := 2 ^ (sh - 1)
    let cmp := if rem < half then Ordering.lt else if rem = half then (if sticky then .gt else .eq) else .gt
    k + b01 (roundsUp r neg k cmp (rem != 0 || sticky))

/-- OVERFLOW of R65, and saturation of E4M3 (R66). -/
def overflowEnc (f : Fmt) (r : Rnd) (neg : Bool) : Nat :=
  match r, neg with
  | .rn, _ => f.infEnc
  | .rz, _ => f.maxFinite
  | .rm, false => f.maxFinite
  | .rm, true => f.infEnc
  | .rp, false => f.infEnc
  | .rp, true => f.maxFinite

/-- ROUND of R65 with R63 and R66: the encoding in format f of an exact value. -/
def ROUND (x : FVal) (f : Fmt) (r : Rnd) : Nat :=
  match x with
  | .nan => f.defaultNaN
  | .inf neg => withSign f neg f.infEnc
  | .fin neg m e sticky =>
    if m = 0 ∧ sticky = false then withSign f neg 0
    else
      let q := max (e + Nat.log2 m - f.manW) (1 - f.bias - f.manW)
      let k := roundAt r neg m e sticky q
      let enc := (q + f.manW + f.bias - 1).toNat * 2 ^ f.manW + k
      withSign f neg (if f.maxFinite < enc then overflowEnc f r neg else enc)

/-- RN32 (R65). -/
def RN32 (x : FVal) : Nat := ROUND x .f32 .rn

/-- The value of an FP32 encoding. -/
def val32 (x : Nat) : FVal := unpack .f32 x

/-- The integer m × 2^e at a common exponent, signed. -/
def signedAt (neg : Bool) (m : Nat) (e q : Int) : Int :=
  let v : Int := (m <<< (e - q).toNat : Nat)
  if neg then -v else v

/-- Exact sum, with the sign of an exact zero that mode r gives (R65). -/
def fAdd (a b : FVal) (r : Rnd) : FVal :=
  match a, b with
  | .nan, _ => .nan
  | _, .nan => .nan
  | .inf s, .inf t => if s = t then .inf s else .nan
  | .inf s, _ => .inf s
  | _, .inf t => .inf t
  | .fin s m e _, .fin t n d _ =>
    let q := min e d
    let v := signedAt s m e q + signedAt t n d q
    if v = 0 then .fin (if s = t then s else r = .rm) 0 0 false
    else .fin (decide (v < 0)) v.natAbs q false

/-- Negation. -/
def fNeg : FVal → FVal
  | .nan => .nan
  | .inf s => .inf !s
  | .fin s m e st => .fin (!s) m e st

/-- Exact product. -/
def fMul (a b : FVal) : FVal :=
  match a, b with
  | .nan, _ => .nan
  | _, .nan => .nan
  | .inf s, .inf t => .inf (s != t)
  | .inf s, .fin t n _ _ => if n = 0 then .nan else .inf (s != t)
  | .fin s m _ _, .inf t => if m = 0 then .nan else .inf (s != t)
  | .fin s m e _, .fin t n d _ => .fin (s != t) (m * n) (e + d) false

/-- Exact a × b + c (R120). -/
def fFma (a b c : FVal) (r : Rnd) : FVal := fAdd (fMul a b) c r

/-- Comparison of two values that are not NaN; none where one is (R122). +0 equals −0. -/
def fCmp (a b : FVal) : Option Ordering :=
  match a, b with
  | .nan, _ => none
  | _, .nan => none
  | .inf s, .inf t => some (if s = t then .eq else if s then .lt else .gt)
  | .inf s, _ => some (if s then .lt else .gt)
  | _, .inf t => some (if t then .gt else .lt)
  | .fin s m e _, .fin t n d _ =>
    let q := min e d
    some (compare (signedAt s m e q) (signedAt t n d q))

/-- The sign of a value. -/
def FVal.neg : FVal → Bool
  | .nan => false
  | .inf s => s
  | .fin s _ _ _ => s

/-- Whether a value is NaN. -/
def FVal.isNaN : FVal → Bool
  | .nan => true
  | _ => false

/-- Whether a value is a zero of either sign. -/
def FVal.isZero : FVal → Bool
  | .fin _ m _ _ => m == 0
  | _ => false

/-- `fmin` and `fmax` on FP32 encodings (R121). -/
def fMinMax (isMax : Bool) (x y : Nat) : Nat :=
  match fCmp (val32 x) (val32 y) with
  | none =>
    if (val32 x).isNaN then (if (val32 y).isNaN then Fmt.f32.defaultNaN else y) else x
  | some .lt => if isMax then y else x
  | some .gt => if isMax then x else y
  | some .eq => if (val32 x).neg = isMax then y else x

/-- Integer square root by bits: the largest s with s × s ≤ n, found below 2^fuel. -/
def isqrtBits : Nat → Nat → Nat → Nat
  | 0, _, s => s
  | k + 1, n, s => isqrtBits k n (if (s + 2 ^ k) * (s + 2 ^ k) ≤ n then s + 2 ^ k else s)

/-- Integer square root. -/
def isqrt (n : Nat) : Nat := isqrtBits (Nat.log2 n / 2 + 1) n 0

/-- 1 / a as an exact value with sticky (R123). -/
def fRcp : FVal → FVal
  | .nan => .nan
  | .inf s => .fin s 0 0 false
  | .fin s m e _ =>
    if m = 0 then .inf s
    else
      let k := Nat.log2 m + 64
      .fin s (2 ^ k / m) (-e - k) (2 ^ k % m != 0)

/-- √a as an exact value with sticky (R123). -/
def fSqrt : FVal → FVal
  | .nan => .nan
  | .inf s => if s then .nan else .inf false
  | .fin s m e _ =>
    if m = 0 then .fin s 0 0 false
    else if s then .nan
    else
      let odd := e % 2 != 0
      let n := (if odd then 2 * m else m) <<< 64
      let d := (if odd then e - 1 else e) - 64
      let q := isqrt n
      .fin false q (d / 2) (q * q != n)

/-- 1 / √a as an exact value with sticky (R123). -/
def fRsq : FVal → FVal
  | .nan => .nan
  | .inf s => if s then .nan else .fin false 0 0 false
  | .fin s m e _ =>
    if m = 0 then .inf s
    else if s then .nan
    else
      let odd := e % 2 != 0
      let n := if odd then 2 * m else m
      let d := if odd then e - 1 else e
      let k := Nat.log2 n + 64
      let q := isqrt (2 ^ (2 * k) / n)
      .fin false q (-(d / 2) - k) (q * q * n != 2 ^ (2 * k))

/-- A value rounded to an integer in mode r; none for NaN and infinities. -/
def fToInt (x : FVal) (r : Rnd) : Option Int :=
  match x with
  | .fin s m e st => let v : Int := roundAt r s m e st 0; some (if s then -v else v)
  | _ => none

/-- `frnd` (R125): the FP32 encoding of a rounded to an integer, its sign kept. -/
def fRound (x : FVal) (r : Rnd) : Nat :=
  match x with
  | .fin s m e st => ROUND (.fin s (roundAt r s m e st 0) 0 false) .f32 .rn
  | x => ROUND x .f32 .rn

/-- The exact value of an integer. -/
def fOfInt (v : Int) : FVal := .fin (decide (v < 0)) v.natAbs 0 false

/-- The class bit of a value in a format (R126). -/
def fClass (f : Fmt) (x : Nat) : Nat :=
  match unpack f x with
  | .nan => 0
  | .inf s => if s then 1 else 8
  | .fin s m _ _ =>
    if m = 0 then (if s then 4 else 5)
    else if m < 2 ^ f.manW then (if s then 3 else 6)
    else (if s then 2 else 7)

/-- One level of TREE: neighbours are added, an odd last value is carried (R76). -/
def treeLevel : List Nat → List Nat
  | a :: b :: vs => RN32 (fAdd (val32 a) (val32 b) .rn) :: treeLevel vs
  | vs => vs

/-- TREE of R76 over FP32 encodings, with as many levels as fuel allows. -/
def treeSum : Nat → List Nat → Nat
  | 0, vs => vs.headD 0
  | n + 1, vs => match vs with
    | [] => 0
    | [v] => v
    | vs => treeSum n (treeLevel vs)

/-- TREE of R76. -/
def TREE (vs : List Nat) : Nat := treeSum vs.length vs

/-- RN32 of the sum of two FP32 encodings. -/
def add32 (a b : Nat) : Nat := RN32 (fAdd (val32 a) (val32 b) .rn)

/-- RN32 of the product of two FP32 encodings. -/
def mul32 (a b : Nat) : Nat := RN32 (fMul (val32 a) (val32 b))

end Sys2Proof
end

