-- ==== Sys2Proof/Machine/Approx.lean ====
section
/-! DEFINITION. The four approximate functions of R124. The spec publishes bounds, exact cases and special cases; the result
bits elsewhere are unpublished. Here the unpublished approximation is a constant without a body (Config); its value is taken
where it meets the bound of R124, which is tested against an enclosure computed in integer arithmetic, and otherwise the
middle of the enclosure, rounded, stands in its place. -/

namespace Sys2Proof

/-- ln 2 times 2^96, rounded down. -/
def ln2Fix : Nat := 54916777467707473351141471128

/-- π / 2 times 2^256, rounded down. -/
def halfPiFix : Nat := 181885788445883162140117471388864931326696688664196214979386075558969447233092

/-- Sum of n more terms of the exponential series of z / 2^96, from term number k on. -/
def expSeries : Nat → Nat → Nat → Nat → Nat
  | 0, _, _, _ => 0
  | n + 1, k, term, z => term + expSeries n (k + 1) (term * z / 2 ^ 96 / (k + 1)) z

/-- 2^(f / 2^96) times 2^96, for f below 2^96. -/
def exp2Fix (f : Nat) : Nat := expSeries 40 0 (2 ^ 96) (f * ln2Fix / 2 ^ 96)

/-- Bits of log₂(x / 2^96) for x from 2^96 to 2^97, by repeated squaring. -/
def log2Bits : Nat → Nat → Nat → Nat
  | 0, _, acc => acc
  | n + 1, x, acc =>
    let y := x * x / 2 ^ 96
    if 2 ^ 97 ≤ y then log2Bits n (y / 2) (2 * acc + 1) else log2Bits n y (2 * acc)

/-- Alternating series of sine (k = 1, first term r) or cosine (k = 0, first term 1) at scale 2^96. -/
def trigSeries : Nat → Nat → Int → Int → Int
  | 0, _, _, _ => 0
  | n + 1, k, term, r2 => term + trigSeries n (k + 2) (-(term * r2 / 2 ^ 96) / ((k + 1) * (k + 2))) r2

/-- Sine of a positive value m × 2^e, with `quarter` quarter turns added, at scale 2^96 (R124). -/
def sinFix (m : Nat) (e : Int) (quarter : Nat) : Int :=
  let a := m <<< (e + 256).toNat
  let k := a / halfPiFix + quarter
  let r : Int := ((a % halfPiFix / 2 ^ 160 : Nat) : Int)
  let r2 := r * r / 2 ^ 96
  let sn := trigSeries 24 1 r r2
  let cs := trigSeries 24 0 (2 ^ 96) r2
  match k % 4 with
  | 0 => sn
  | 1 => cs
  | 2 => -sn
  | _ => -cs

/-- Whether an FP32 encoding lies within bound × 2^be of v × 2^q, with a margin of 2^16 units of v for the enclosure. -/
def within (y : Nat) (v : Int) (q : Int) (bound : Nat) (be : Int) : Bool :=
  match val32 y with
  | .fin s m e _ =>
    let b := min (min e q) be
    let d := (signedAt s m e b - signedAt (decide (v < 0)) v.natAbs q b).natAbs
    decide (d + ((2 ^ 16) <<< (q - b).toNat) ≤ bound <<< (be - b).toNat)
  | _ => false

/-- The candidate where it meets the bound, else the enclosure's middle, rounded. -/
def bounded (cand : Nat) (v : Int) (q : Int) (bound : Nat) (be : Int) : Nat :=
  if within cand v q bound be then cand else RN32 (.fin (decide (v < 0)) v.natAbs q true)

/-- Exponent of one unit in the last place of FP32 at magnitude v × 2^q. -/
def ulpExp (v : Nat) (q : Int) : Int := max (q + Nat.log2 v - 23) (-149)

/-- `fex2` on an FP32 encoding (R124). -/
def fex2W (x : Nat) : Nat :=
  match val32 x with
  | .nan => Fmt.f32.defaultNaN
  | .inf s => if s then 0 else Fmt.f32.infEnc
  | .fin s m e _ =>
    let i := signedAt s m e (min e 0)
    let whole := i / 2 ^ (0 - min e 0).toNat
    let frac := i % 2 ^ (0 - min e 0).toNat
    if frac = 0 ∨ 128 ≤ whole then ROUND (if whole < -149 then .fin false 0 0 false else .fin false 1 (min whole 128) false) .f32 .rn
    else
      let v := exp2Fix ((frac.toNat <<< 96) / 2 ^ (0 - min e 0).toNat)
      let q := max whole (-300) - 96
      bounded (Config.approxEx2 (BitVec.ofNat 32 x)).toNat v q 2 (ulpExp v q)

/-- `flg2` on an FP32 encoding (R124). -/
def flg2W (x : Nat) : Nat :=
  match val32 x with
  | .nan => Fmt.f32.defaultNaN
  | .inf s => if s then Fmt.f32.defaultNaN else Fmt.f32.infEnc
  | .fin s m e _ =>
    if m = 0 then withSign .f32 true Fmt.f32.infEnc
    else if s then Fmt.f32.defaultNaN
    else
      let k := Nat.log2 m
      let i : Int := e + k
      if m = 2 ^ k then RN32 (fOfInt i)
      else
        let v : Int := i * 2 ^ 80 + ((log2Bits 80 (m <<< (96 - k)) 0 : Nat) : Int)
        -- a in [0.5, 2] exactly when its exponent is −1 or 0, or a is 2, which is an exact case
        let near := decide (i = -1) || decide (i = 0)
        if near then bounded (Config.approxLg2 (BitVec.ofNat 32 x)).toNat v (-80) 1 (-22)
        else bounded (Config.approxLg2 (BitVec.ofNat 32 x)).toNat v (-80) 2 (ulpExp v.natAbs (-80))

/-- Keep a sine or cosine within [−1, 1]. -/
def unitBounded (cand : Nat) (v : Int) : Nat :=
  bounded (if cand % 2 ^ 31 ≤ 0x3F800000 then cand else Fmt.f32.defaultNaN) (max (min v (2 ^ 96)) (-(2 ^ 96))) (-96) 1 (-21)

/-- `fsin` on an FP32 encoding (R124). -/
def fsinW (x : Nat) : Nat :=
  match val32 x with
  | .fin s m e _ =>
    if m = 0 then x
    else let v := sinFix m e 0; unitBounded (Config.approxSin (BitVec.ofNat 32 x)).toNat (if s then -v else v)
  | _ => Fmt.f32.defaultNaN

/-- `fcos` on an FP32 encoding (R124). -/
def fcosW (x : Nat) : Nat :=
  match val32 x with
  | .fin _ m e _ => if m = 0 then 0x3F800000 else unitBounded (Config.approxCos (BitVec.ofNat 32 x)).toNat (sinFix m e 1)
  | _ => Fmt.f32.defaultNaN

end Sys2Proof
end

