-- ==== Sys2Proof/Machine/State.lean ====
section
/-! DEFINITION. The whole machine as plain data: squads and quarry threads, benches with their accumulator banks, cores with
scratch, caches, timelines, bins, queues and engines, the contexts, the distributor, the fabric and the platform; the
reasons a step can stop; and the state right after reset. `Chip` holds everything the instruction set and the engines act
on, `Plat` what the board, the host link, power, security and reliability act on. -/

namespace Sys2Proof.Machine

/-! ### Reasons a step can stop -/

/-- Faults of the model. -/
inductive Fault where
  /-- An instruction word is executed while no squad and no quarry thread is at an instruction. Raised by `exec` on a state
  that fetching never makes; safe, since no rule gives a word without an agent an effect. -/
  | notExecuting
  deriving DecidableEq, Repr

/-- Refusals of the model. -/
inductive Refusal where
  /-- An instruction without a meaning in the model, by its mnemonic. Raised by `exec`; safe. -/
  | notModelled (mnemonic : String)
  deriving DecidableEq, Repr

/-! ### The ordering codes -/

/-- Ordering codes of R1: package or module, with 64 or 56 enabled cores. -/
inductive Part where
  | p64 | p56 | m64 | m56
  deriving DecidableEq, Repr

/-- Enabled cores (R1). -/
def Part.cores : Part → Nat
  | .p64 => 64
  | .p56 => 56
  | .m64 => 64
  | .m56 => 56

/-- Fitted HBM stacks (R1). -/
def Part.stackCount : Part → Nat
  | .p64 => 8
  | .p56 => 7
  | .m64 => 8
  | .m56 => 7

/-- Module codes, whose capacity tier is 1.5 TiB (R1, R366). -/
def Part.module : Part → Bool
  | .p64 => false
  | .p56 => false
  | .m64 => true
  | .m56 => true

/-! ### Lanes, squads, requests -/

/-- Where a byte lives: device memory, host memory, or core scratch by core and byte offset (R39). -/
inductive Loc where
  | dev (pa : Nat)
  | host (pa : Nat)
  | scr (core off : Nat)
  deriving DecidableEq, Repr

/-- Lane states of R22; a lane in Ensign-wait waits on ensign e. -/
inductive LaneState where
  | eligible
  | yielded
  | burgeeWait (b : Nat)
  | ensignWait (e : Nat)
  | exited
  deriving DecidableEq, Repr

/-- An ensign (R148). -/
structure Ensign where
  isOpen : Bool := false
  armed : Bool := false
  cont : Nat := 0
  set : LaneMask := 0
  signed : LaneMask := 0
  deriving DecidableEq, Repr

/-- Registers with the values of all 32 lanes: register number and lane values, as escorts and landing buffers carry them
(R157). -/
abbrev RegFile := List (Nat × List Word)

/-- The register side of one executing agent, shared by a squad (32 lanes) and a quarry thread (lane 0 only). -/
structure Exe where
  /-- Context number. -/
  ctx : Nat := 0
  /-- Core the agent runs on. -/
  core : Nat := 0
  /-- General registers: register n of lane l under key 32 × n + l (R21, R209). -/
  regs : Sparse Word := []
  /-- Flags f0 to f6 (R83, R209). -/
  flags : List LaneMask := List.replicate 7 0
  /-- Uniform registers s0 to s63; argument registers s0 to s7 of a thread (R87, R209). -/
  uni : Sparse Word := []
  /-- Operand latch: Lk of lane l under key 32 × k + l (R88). -/
  latch : Sparse DWord := []
  /-- Position at which L0 to L2 were last captured in this clause (R89). -/
  latchAt : List (Option Nat) := [none, none, none]
  /-- Declared register count D (R86). -/
  declared : Nat := 8
  /-- Muster slots m0 to m3: muster table index, none where invalid (R30). -/
  mslots : List (Option Nat) := [none, none, none, none]
  /-- Active set (R24). -/
  active : LaneMask := 0
  /-- Header word and header address of the clause (R78). -/
  hdr : DWord := 0
  hdrAt : Nat := 0
  /-- Position of the next instruction word in the clause. -/
  pos : Nat := 0
  /-- Whether the agent is inside a clause. -/
  inClause : Bool := false
  /-- Quarry thread number; none for a squad (R209). -/
  thread : Option Nat := none
  deriving DecidableEq, Repr

/-- A buffered region store: scope, order and the bytes of each lane with the locations they go to (R173). -/
structure BufStore where
  scope : Nat
  order : Nat
  /-- Lane, address, and each byte with its location. -/
  lanes : List (Nat × Nat × List (Loc × Byte))
  pennant : Option Nat := none
  deriving DecidableEq, Repr

/-- An open idempotent region: restart point, region mask, buffered stores oldest first (R173, R174). -/
structure Region where
  hdrAt : Nat
  pos : Nat
  mask : LaneMask
  buf : List BufStore := []
  deriving DecidableEq, Repr

/-- A trap's cause, detail and, where it is not the active set, its lanes (R153, R349). -/
structure Trap where
  cause : Nat
  det : Nat
  lanes : Option LaneMask := none
  /-- Effective address of the faulting access, for a quarry fault's record (R212). -/
  va : Nat := 0
  deriving DecidableEq, Repr

/-- Trap state of a squad (R153 to R155). -/
structure TrapState where
  hmode : Bool := false
  cause : Nat := 0
  addr : Nat := 0
  mask : LaneMask := 0
  det : Nat := 0
  /-- Lanes of the mask that have not returned. -/
  left : LaneMask := 0
  /-- Header of the trapping clause, its address, the trapped position, and whether the trap was taken at a clause start. -/
  hdr : DWord := 0
  hdrAt : Nat := 0
  pos : Nat := 0
  atStart : Bool := false
  deriving DecidableEq, Repr

/-- An access fault put off to the next clause start (R179). -/
structure Deferred where
  addr : Nat
  mask : LaneMask
  va : Nat
  reason : Nat
  atStart : Bool
  deriving DecidableEq, Repr

/-- Core, bench and slot of a squad (R21). -/
structure Place where
  core : Nat := 0
  bench : Nat := 0
  slot : Nat := 0
  deriving DecidableEq, Repr

/-- Why a squad stalls at its instruction: of the registers it names some are abroad or pending (R159), a local wait of the watchdog (R347), or another
reason. -/
inductive Stall where
  | registers (regs : List Nat)
  | localWait
  | other
  deriving DecidableEq, Repr

/-- A squad (R21, R22, R79). -/
structure Squad where
  /-- The model's own name of the squad. -/
  uid : Nat
  place : Place
  /-- Launch the squad belongs to, its squad number, whether it was spawned, its entry address (R34). -/
  launch : Nat := 0
  number : Nat := 0
  spawned : Bool := false
  entry : Nat := 0
  /-- Order of dispatch (R163). -/
  dispatched : Nat := 0
  /-- Number that places the squad's spill stack (R189, R336). -/
  stackNo : Nat := 0
  /-- Order of the last issue (R163). -/
  lastIssue : Nat := 0
  exe : Exe := {}
  lpc : List Nat := List.replicate 32 0
  st : List LaneState := List.replicate 32 .eligible
  /-- Resume position of each lane inside the clause its lpc names (R154). -/
  resume : List Nat := List.replicate 32 0
  /-- Lanes that reached their header by a taken transfer, and by a resumption (R80). -/
  byTransfer : LaneMask := 0
  byResume : LaneMask := 0
  burgees : List LaneMask := List.replicate 12 0
  ensigns : List Ensign := List.replicate 4 {}
  pennants : List Nat := List.replicate 12 0
  /-- Handle map h0 to h15: physical bank (R246). -/
  handles : List (Option Nat) := List.replicate 16 none
  region : Option Region := none
  trap : TrapState := {}
  /-- Latch entries saved for lanes that resume inside a clause, and each lane's capture positions (R153, R154). -/
  savedLatch : Sparse DWord := []
  savedAt : List (List (Option Nat)) := List.replicate 32 [none, none, none]
  /-- Ensign whose continuation clause is running, and the header of such a clause left by a trap (R149). -/
  contEns : Option Nat := none
  contLeft : Option Nat := none
  /-- Scratch fault mask (R23). -/
  scfMask : LaneMask := 0
  /-- Age, and clause starts since, for issue selection (R344); local-wait count in watchdog limits (R347). -/
  age : Nat := 0
  /-- Escort quota of each muster slot (R155). -/
  quota : List Nat := [0, 0, 0, 0]
  /-- Resident logical blocks (R158). -/
  resident : List Nat := []
  /-- Order of eviction, where evicted (R163, R164). -/
  evicted : Option Nat := none
  /-- Reserved escort credits of the clause: requests and registers (R166). -/
  credit : Nat := 0
  creditRegs : Nat := 0
  /-- A waiting instruction's first test has failed; its bound has expired; a test has held, with the scope of
  the acquire that it makes (R196, R200, R201). -/
  waitTested : Bool := false
  waitExpired : Bool := false
  waitMet : Option Nat := none
  /-- Entry that a `qpop` of this clause has reserved, or the slot that a `qpush` has (R223). -/
  qHold : Option Nat := none
  /-- Order of the first failed acqb test (R249). -/
  acqbAt : Option Nat := none
  /-- Request whose response the squad awaits; waiting at fflush (R316, R323). -/
  awaiting : Option Nat := none
  /-- A response other than 0x0 has come since the last fflush (R323). -/
  badResponse : Bool := false
  /-- The page fault that the squad waits for and the address that met it (R174, R178); it restarts its region then; the instruction it waited at is lost
  (R179). -/
  parked : Option Nat := none
  parkedVa : Nat := 0
  restart : Bool := false
  skip : Bool := false
  deferred : Option Deferred := none
  /-- The last try of the instruction at the squad's position has stalled. -/
  stall : Option Stall := none
  /-- Stopped for a pre-emption or a migration (R355, R361). -/
  stopped : Bool := false
  /-- Stopped for ever by a double trap (R351). -/
  dead : Bool := false
  deriving DecidableEq, Repr

/-- Who issued a request. -/
inductive Agent where
  | squad (uid : Nat)
  | thread (core t : Nat)
  deriving DecidableEq, Repr

/-- Progress of one lane's access. -/
inductive AccStatus where
  | waiting
  | faulted (fault : Nat)
  | done (value : List Byte)
  | failed (reason : Nat)
  | refused (cause : Nat)
  deriving DecidableEq, Repr

/-- What FXLATE answers: peer number, node, exposure index, key, offset (R299). -/
structure FabAddr where
  peer : Nat
  node : Nat
  index : Nat
  key : Nat
  off : Nat
  deriving DecidableEq, Repr

/-- What an access does at its home. -/
inductive AccKind where
  | load
  | store
  | atom (op : AtomOp) (ret : Bool)
  | cas (w64 : Bool)
  deriving DecidableEq, Repr

/-- One lane's access (R186): its address, the location of each byte (none for a peer), the peer location, the bytes stored
or operands, the compare bytes, the bytes that a load takes from the squad's region buffer (R173), whether its home cannot perform it (R181);
and where a view window splits it, the element size and the elements performed, with the bytes each returned (R45). -/
structure Access where
  lane : Nat
  va : Nat
  locs : List Loc := []
  fab : Option FabAddr := none
  data : List Byte := []
  cmp : List Byte := []
  onTop : List (Option Byte) := []
  unsup : Bool := false
  elem : Nat := 0
  parts : List (Nat × List Byte) := []
  status : AccStatus := .waiting
  deriving DecidableEq, Repr

/-- A request abroad (R47, R157): what it does, its lanes, its registers, its pennant, and where it was issued. -/
structure Request where
  id : Nat
  agent : Agent
  ctx : Nat
  core : Nat
  /-- Launch of the agent, and the musters that its muster slots named (R165). -/
  launch : Nat := 0
  musters : List Nat := []
  kind : AccKind
  size : Nat
  accs : List Access
  scope : Nat
  order : Nat
  /-- Scratch access (waits on presence, R170). -/
  scratch : Bool := false
  /-- Destination code, type, and the registers pending on a load or an atomic with return; matrix loads write 32. -/
  dst : Option Code := none
  ty : IntTy := .z32
  dstRegs : List Nat := []
  escorted : Bool := false
  escort : RegFile := []
  pennant : Option Nat := none
  /-- Address of the instruction word, header and position of the clause that issued it. -/
  instrAt : Nat := 0
  hdrAt : Nat := 0
  /-- Issued in an open region (R174); an ordered fabric access (R313). -/
  inRegion : Bool := false
  ordered : Bool := false
  /-- A buffered store of a region that has ended, on its way to its home (R56, R173). -/
  commit : Bool := false
  /-- Accesses that the squad makes as a whole: `lane` numbers them, and each is one of every lane (R263). -/
  squadWide : Bool := false
  /-- Start command of the quarry thread; queue, entry and fill position of a quarry read (R218). -/
  cmd : Nat := 0
  queue : Nat := 0
  entry : Nat := 0
  fill : Nat := 0
  deriving DecidableEq, Repr

/-- An update on its way to a barrier object's home (R17). -/
structure BarUpdate where
  id : Nat
  /-- Context and address of the object, as the update was issued. -/
  ctx : Nat := 0
  va : Nat := 0
  /-- Location of each of the 16 bytes. -/
  locs : List Loc
  arrive : Bool
  add : Int
  /-- Squad, token register and pennant of a `bar.arr` or `barx` (R195). -/
  uid : Option Nat := none
  token : Option Code := none
  pennant : Option Nat := none
  /-- Accesses of these lanes of the squad issued below this number are performed first (release). -/
  after : Nat := 0
  lanes : LaneMask := 0
  /-- Hoist or fget command counted down by it (R238). -/
  cmd : Option Nat := none
  deriving DecidableEq, Repr

/-! ### Benches -/

/-- Mode of an accumulator bank (R245). The owner is a squad; `saved` banks belong to a squad that is off the bench. -/
inductive BankMode where
  | free
  | dense
  | hash
  deriving DecidableEq, Repr

/-- A join table (R270, R274, R289), named by its first physical bank. -/
structure Table where
  first : Nat
  block : Bool
  n : Nat
  base : Nat
  capacity : Nat
  count : Nat := 0
  drained : Nat := 0
  occupied : Nat := 0
  draining : Bool := false
  stopped : Bool := false
  queueA : Nat := 0
  queueB : Nat := 0
  offA : Nat := 0
  offB : Nat := 0
  /-- Probe limit of the `jrun` in progress on the table, if one is (R271, R281). -/
  running : Option Nat := none
  deriving DecidableEq, Repr

/-- A drain in progress (R284, R285), with the table's physical banks in handle order. -/
structure Drain where
  id : Nat
  first : Nat
  banks : List Nat
  out : Nat
  capacity : Nat
  slot : Nat
  num : Nat
  ctx : Nat
  launch : Nat := 0
  hdrAt : Nat
  deriving DecidableEq, Repr

/-- An escort in the landing buffer (R162). -/
structure Landed where
  uid : Nat
  regs : RegFile
  deriving DecidableEq, Repr

/-- A bench (R9, R245, R264). -/
structure Bench where
  enabled : Bool := true
  /-- Closed to dispatch and restore (R381). -/
  closed : Bool := false
  accValid : Bool := false
  accCtx : Nat := 0
  modes : List BankMode := List.replicate 16 .free
  /-- Value word w of bank b under key 1024 × b + w. -/
  vals : Sparse Word := []
  /-- Key word w of bank b under key 1024 × b + w; an unlisted word is 0xFFFFFFFF, the empty slot (R270). -/
  keys : Sparse Word := []
  tables : List Table := []
  drains : List Drain := []
  landing : List Landed := []
  /-- Squad whose ownership trap is being serviced (R266, R268). -/
  service : Option Nat := none
  /-- Contexts that issued the last real operation of the vector pipes, of the matrix unit and of the join unit, to which the energy of
  their fillers is added (R380). -/
  lastCtx : List (Option Nat) := [none, none, none]
  deriving DecidableEq, Repr

/-! ### Cores -/

/-- A timeline slot (R14, R32): counters, sticky fault bit, completed numbers above done, and the musters it is handed to. -/
structure Slot where
  issue : Nat := 0
  done : Nat := 0
  finished : List Nat := []
  fault : Bool := false
  owners : List (Nat × Nat) := []
  deriving DecidableEq, Repr

/-- A scratch window (R28, R32, R59): the muster it belongs to, first line, lines, check mode and phase copy. -/
structure Window where
  launch : Nat
  muster : Nat
  base : Nat
  lines : Nat
  check : Nat
  phase : Nat := 0
  deriving DecidableEq, Repr

/-- A cached line of L1 (R48): its context and virtual line, the device address of each byte, and the bytes. -/
structure L1Line where
  ctx : Nat
  va : Nat
  pas : List Nat
  bytes : List Byte
  deriving DecidableEq, Repr

/-- A cached translation (R177): context, virtual base, log2 of the size, frame, rights and host bit. -/
structure TlbEntry where
  ctx : Nat
  va : Nat
  big : Bool
  frame : Nat
  host : Bool
  r : Bool
  w : Bool
  x : Bool
  deriving DecidableEq, Repr

/-- A thread waiting in a spawn bin (R33). -/
structure Spawned where
  args : List Word
  declared : Nat
  deriving DecidableEq, Repr

/-- A spawn bin (R33): its key, its threads in order of entry, when its first thread entered, and the `cw.binwait` its timer counts to (R155). The
key names the launch too, since a muster index names a muster within its launch. (DESIGN CHOICE, log 92.) -/
structure Bin where
  launch : Nat
  ctx : Nat
  entry : Nat
  muster : Option Nat
  threads : List Spawned
  since : Nat
  wait : Nat := 512
  deriving DecidableEq, Repr

/-- Queue states of R217. -/
inductive QState where
  | free | loadOpen | loadClosed | faulted | scatterOpen | draining | closed
  deriving DecidableEq, Repr

/-- An entry of a queue (R218): its number, bytes, fill position, whether it is closed to further reads, the positions and sizes of reads still
outstanding, and whether a squad has reserved it. -/
structure QEntry where
  num : Nat
  bytes : List Byte := List.replicate 128 0
  fill : Nat := 0
  shut : Bool := false
  out : List (Nat × Nat) := []
  reserved : Bool := false
  /-- Squad and first handle of the table whose `jrun` has reserved the entry (R281). -/
  join : Option (Nat × Nat) := none
  deriving DecidableEq, Repr

/-- A queue (R217, R218). `cmd` is the start command that bound it: what its thread had under way for an earlier binding is none of the queue's. -/
structure Queue where
  state : QState := .free
  launch : Nat := 0
  muster : Nat := 0
  ctx : Nat := 0
  /-- Thread that feeds or drains it, and whether that thread has exited. -/
  thread : Nat := 0
  cmd : Nat := 0
  ended : Bool := false
  next : Nat := 0
  entries : List QEntry := []
  readPos : Nat := 0
  /-- Slots that squads have reserved for a `qpush` (R223). -/
  held : Nat := 0
  deriving DecidableEq, Repr

/-- A busy quarry thread (R209): registers and its start command. -/
structure QThread where
  id : Nat
  exe : Exe
  launch : Nat
  muster : Nat := 0
  slot : Nat
  num : Nat
  /-- Scratch address of the remap table (R216). -/
  table : Option Nat := none
  byTransfer : Bool := false
  /-- It stands at an `aload` that needs an entry of a full queue, or at an `ascat` whose queue is open and has nothing to read (R211). -/
  parked : Bool := false
  deriving DecidableEq, Repr

/-- A numbered start command that the quarry has not taken (R220, R221). -/
structure QStart where
  ctx : Nat
  launch : Nat
  muster : Nat
  slot : Nat
  num : Nat
  entry : Nat
  args : List Word
  loads : List Nat
  scatters : List Nat
  table : Option Nat
  mslots : List (Option Nat)
  hdrAt : Nat
  deriving DecidableEq, Repr

/-- A start command whose thread has ended (R222). -/
structure QDone where
  id : Nat
  ctx : Nat := 0
  slot : Nat
  num : Nat
  deriving DecidableEq, Repr

/-- A numbered hoist command (R231, R238). -/
structure HoistCmd where
  id : Nat
  core : Nat
  ctx : Nat
  launch : Nat
  slot : Nat
  num : Nat
  hdrAt : Nat
  /-- The shape record as a number (R231). -/
  record : Nat
  /-- Scratch byte of window offset 0 for source, destination and barrier (R41). -/
  srcBase : Nat
  dstBase : Nat
  barBase : Nat
  /-- Destination lines that have landed. -/
  landed : List Nat := []
  faulted : Bool := false
  /-- Bytes of a faulted command that are still to be counted down (R239). -/
  owed : Nat := 0
  deriving DecidableEq, Repr

/-- A round request of the cluster ring (R240, R242). -/
structure RingReq where
  id : Nat
  core : Nat
  ctx : Nat
  launch : Nat
  muster : Nat
  round : Nat
  slot : Nat
  num : Nat
  hdrAt : Nat
  /-- Scratch address of the tile as the command names it, and the byte of the core's scratch where the tile lies (R41). -/
  tile : Nat
  pos : Nat
  len : Nat
  started : Bool := false
  /-- The incoming tile, read when the round starts, and the lines of it that have landed. -/
  incoming : List Byte := []
  landed : List Nat := []
  deriving DecidableEq, Repr

/-- A write-combining entry (R312): its target, its bytes and mask, the contexts and squads that stored into it, the stores it holds. The
error queue of the first context that stored into a run takes the records of its packet. (DESIGN CHOICE, log 43.) -/
structure WcEntry where
  id : Nat
  ctxs : List Nat
  node : Nat
  index : Nat
  key : Nat
  line : Nat
  va : Nat
  bytes : List Byte := List.replicate 128 0
  mask : List Bool := List.replicate 128 false
  squads : List Nat := []
  /-- Pieces of store requests that the entry holds, oldest first: request, first byte in the line, bytes. -/
  stores : List (Nat × Nat × List Byte) := []
  deriving DecidableEq, Repr

/-- A core (R9). -/
structure Core where
  enabled : Bool := true
  /-- Scratch bytes, absent lines, written lines and race records by line (R170, R172, R59). -/
  scratch : Mem := []
  absent : Sparse Bool := []
  written : Sparse Bool := []
  race : Sparse (BitVec 16) := []
  windows : List Window := []
  l1 : List L1Line := []
  tlb : List TlbEntry := []
  slots : List Slot := List.replicate 64 {}
  bins : List Bin := []
  threads : List (Option QThread) := List.replicate 16 none
  queues : List Queue := List.replicate 16 {}
  starts : List QStart := []
  ends : List QDone := []
  hoists : List HoistCmd := []
  wc : List WcEntry := []
  /-- Context whose pre-emption is in progress (R354), and the context that waits for the core. -/
  preempt : Option Nat := none
  preemptBy : Nat := 0
  deriving DecidableEq, Repr

/-! ### Contexts and launches -/

/-- A registered view (R42). -/
structure View where
  idx : Nat
  baseTl : Nat
  baseCm : Nat
  baseRm : Nat
  frame : Nat
  cols : Nat
  rows : Nat
  es : Nat
  deriving DecidableEq, Repr

/-- An outstanding page fault (R179): its number, page, first access, whether its record has been appended, and the names of
the engine accesses that wait on it. -/
structure PFault where
  num : Nat
  page : Nat
  core : Nat
  die : Nat
  engine : Bool
  kind : Nat
  appended : Bool := false
  waiters : List Nat := []
  deriving DecidableEq, Repr

/-- A context (R352): the fields of its record, its control words (R155), views and page faults. -/
structure Ctx where
  level1 : Nat := 0
  peer : Nat := 0
  errBase : Nat := 0
  errCap : Nat := 7
  accBase : Nat := 0
  imgBase : Nat := 0
  imgSlots : Nat := 0
  musBase : Nat := 0
  musSlots : Nat := 0
  stackPool : Nat := 0
  slice : Nat := 0
  watchdog : Nat := 0
  prio : Nat := 0
  migrate : Bool := false
  pfBase : Nat := 0
  pfCap : Nat := 7
  trapvec : Nat := 0
  binwait : Nat := 512
  probelimit : Nat := 16
  extwait : Nat := 0
  views : List View := []
  faults : List PFault := []
  nextFault : Nat := 1
  /-- A teardown is in progress: its command, 0 for a double trap, and the launches that it ends (R351, R353). -/
  closing : Option Nat := none
  dying : List Nat := []
  deriving DecidableEq, Repr

/-- A muster of a launch (R28) and its placement (R31, R32). -/
structure Muster where
  idx : Nat
  kind : Nat
  base : Nat := 0
  stride : Nat := 0
  count : Nat := 0
  members : List Nat := []
  place : Nat
  timelines : Nat
  barrier : Nat
  barInit : Bool
  remote : Bool
  byteGated : Bool
  check : Nat
  lines : Nat
  quota : Nat
  /-- Cores where it holds a window or slots; cluster it is fixed to; it has been placed; a squad has been spawned into it;
  its barrier object is written; it has retired. -/
  cores : List Nat := []
  cluster : Option Nat := none
  placed : Bool := false
  spawnedInto : Bool := false
  barDone : Bool := false
  retired : Bool := false
  deriving DecidableEq, Repr

/-- A range of a launch's hint list (R369): how many of its bytes the launch has accessed, the group members that hold its pages, by 4 × group + member, and
whether one of them has been in a capacity slot since the launch started (R370). -/
structure HintRange where
  base : Nat
  len : Nat
  hint : Nat
  bytes : Nat := 0
  members : List Nat := []
  slow : Bool := false
  deriving DecidableEq, Repr

/-- A started launch (R336, R342). -/
structure Launch where
  id : Nat
  ctx : Nat
  /-- Command queue, whose priority is the launch's (R342). -/
  queue : Nat
  number : Nat
  entry : Nat
  args : Nat
  exits : Nat
  stackBase : Nat
  stackKiB : Nat
  declared : Nat
  squads : Nat
  musters : List Muster
  hints : List HintRange := []
  /-- Squads whose unit is placed and that are not yet dispatched: number and place (R32, R342, R346). -/
  placing : List (Nat × Place) := []
  /-- Numbers of the squads dispatched so far; how many squads have retired. -/
  dispatched : List Nat := []
  retired : Nat := 0
  deriving DecidableEq, Repr

/-- A squad to be dispatched that a bin formed (R34). -/
structure Formed where
  id : Nat
  launch : Nat
  ctx : Nat
  core : Nat
  entry : Nat
  muster : Option Nat
  threads : List Spawned
  /-- The place it is to be dispatched to, once one is chosen (R346). -/
  place : Option Place := none
  /-- It was formed by a pre-emption or a migration, which saves it (R36, R361). -/
  saves : Bool := false
  deriving DecidableEq, Repr

/-- An exit record waiting to be written after the squad's stores (R37). -/
structure ExitRecord where
  id : Nat
  ctx : Nat
  /-- Core of the squad, or the model's choice where it holds no place. -/
  core : Nat := 0
  addr : Nat
  value : Nat
  number : Nat
  deriving DecidableEq, Repr

/-- A barrier object waiting to be written at placement (R32). -/
structure BarInit where
  id : Nat
  launch : Nat
  muster : Nat
  core : Nat
  deriving DecidableEq, Repr

/-- A saved squad: its image slot and what the image does not hold (R356). -/
structure SavedSquad where
  uid : Nat
  /-- State of each lane, which names the ensign that a lane waits on. -/
  st : List LaneState := List.replicate 32 .eligible
  slot : Nat
  launch : Nat
  spawned : Bool
  entry : Nat
  resume : List Nat
  byResume : LaneMask
  trap : TrapState
  contLeft : Option Nat
  quota : List Nat
  badResponse : Bool
  stackNo : Nat
  savedAt : List (List (Option Nat))
  /-- An access that failed after the save: the trap waits for the next clause start (R179, R350). -/
  deferred : Option Deferred := none
  deriving DecidableEq, Repr

/-- A saved core set (R358): its squads, the muster records (launch, muster, slot), the quarry threads and the queues by number, whose
layout inside the records the spec does not give, the core it came from and a migration's target. -/
structure CoreSet where
  id : Nat
  ctx : Nat
  core : Nat
  squads : List SavedSquad
  musters : List (Nat × Nat × Nat)
  threads : List (Nat × QThread) := []
  queues : List (Nat × Queue) := []
  target : Option Nat := none
  complete : Bool := false
  deriving DecidableEq, Repr

/-- A migration in progress (R361). -/
structure Move where
  launch : Nat
  muster : Nat
  core : Nat
  target : Nat
  /-- Context for whose sake a pre-emption was asked for during the move: it is taken when the move has ended (R361). -/
  asked : Option Nat := none
  deriving DecidableEq, Repr

/-! ### Distributor -/

/-- A command queue (R332, R335). -/
structure CmdQueue where
  enabled : Bool := false
  prio : Nat := 0
  ctx : Nat := 0
  expect : Nat := 1
  /-- Slots whose records a disable has discarded and that the host has not written since. -/
  dead : List Nat := []
  deriving DecidableEq, Repr

/-- A command timeline (R339). -/
structure CmdTimeline where
  issue : Nat := 0
  done : Nat := 0
  finished : List Nat := []
  failNo : Nat := 0
  failCause : Nat := 0
  deriving DecidableEq, Repr

/-- An accepted command (R334, R340): its record as a number, journal entry, number, and state. -/
structure Cmd where
  id : Nat
  queue : Nat
  record : Nat
  entry : Nat
  number : Nat
  started : Bool := false
  /-- The context record, as a context-create command read it when it started (R352). -/
  data : Nat := 0
  deriving DecidableEq, Repr

/-! ### Fabric -/

/-- An exposure table entry (R300). -/
structure Expo where
  base : Nat := 0
  inFlight : Nat := 0
  key : Nat := 0
  size : Nat := 12
  ctx : Nat := 0
  state : Nat := 0
  signal : Bool := false
  reduce : Bool := false
  atomic : Bool := false
  write : Bool := false
  read : Bool := false
  deriving DecidableEq, Repr

/-- The fabric parameter record (R308). -/
structure FabParams where
  timeout : Nat := 2048
  target : Nat := 2000
  step : Nat := 1
  gain : Nat := 128
  minimum : Nat := 2
  maximum : Nat := 1024
  parkDepth : Nat := 4
  wakeDepth : Nat := 32
  parkInterval : Nat := 64
  deriving DecidableEq, Repr

/-- A reduction group entry (R311, R338). -/
structure RedGroup where
  offset : Nat
  key : Nat
  index : Nat
  rank : Nat
  root : Nat
  count : Nat
  deriving DecidableEq, Repr

/-- Who a fabric request packet answers to. -/
inductive FabOwner where
  /-- Lane of an awaited or returning access, or of an atomic without return. -/
  | lane (req lane : Nat)
  /-- Lane of an unsupported atomic, whose service reads and then writes the location under a lock (R181, R315). -/
  | service (req lane : Nat)
  /-- Bytes of a write-combining drain: entry stores. -/
  | wc (core va : Nat) (stores : List Nat)
  /-- Data packet of a put or get command, with its local byte position. -/
  | cmd (cmd pos : Nat)
  /-- Signal packet of a command. -/
  | signal (cmd : Nat)
  /-- Reduction contribution. -/
  | reduce (cmd : Nat)
  /-- Partial sum that this device forwards for the contributions it has combined (R311). -/
  | relay (parts : List Packet)
  deriving DecidableEq, Repr

/-- A request packet of this device that has not been answered (R307, R309). -/
structure OutPacket where
  id : Nat
  die : Nat
  pkt : Packet
  owner : FabOwner
  ctx : Nat
  /-- Squads whose fflush it concerns (R323). -/
  uids : List Nat
  /-- Its place among the packets of its message (R305). -/
  pos : Nat := 0
  /-- It has been injected, and when the die's sending order stood. -/
  sent : Option Nat := none
  deriving DecidableEq, Repr

/-- A request packet that arrived here and was accepted but not yet placed (R301). -/
structure InPacket where
  id : Nat
  pkt : Packet
  expo : Nat
  /-- A refused ordered packet, which only holds its place in the sequence. -/
  refused : Bool := false
  /-- The out packet it answers, where it was looped back (R297). -/
  own : Option Nat := none
  /-- Cycle of the fabric target in which it arrived (R331). -/
  cycle : Nat := 0
  /-- Contributions that a reduction result answers, with the out packets of looped-back ones (R311). -/
  parts : List (Packet × Option Nat) := []
  deriving DecidableEq, Repr

/-- A fabric command in progress (R314): one per destination for fmcast. Kinds: 0 put and multicast, 1 get, 2 contribution. -/
structure FabCmd where
  id : Nat
  kind : Nat
  ctx : Nat
  launch : Nat := 0
  uid : Nat
  core : Nat
  slot : Nat
  num : Nat
  /-- Where the data goes or comes from, and its aperture address. -/
  dst : FabAddr
  remote : Nat
  len : Nat
  /-- Local side: in scratch, the byte of the core's scratch and the bytes of the window from there on (R41). -/
  scr : Bool
  localAt : Nat
  room : Nat := 0
  counted : Bool := false
  signal : Bool := false
  ordered : Bool := false
  /-- Remote barrier and its aperture address. -/
  bar : Option FabAddr := none
  barVa : Nat := 0
  /-- Local barrier of a get: in scratch, and its byte there or its global address. -/
  home : Option (Bool × Nat) := none
  /-- Operation, group, rank and round of a contribution (R311, R321). -/
  op : Nat := 0
  group : Nat := 0
  rank : Nat := 0
  round : Nat := 0
  /-- The request packets exist; the last of them has left; a local access fault has stopped the command. -/
  loaded : Bool := false
  left : Bool := false
  stopped : Bool := false
  signalled : Bool := false
  /-- Cause and node of the first data refusal. -/
  refusal : Option (Nat × Nat) := none
  /-- Pieces of a get that have landed: position and length. -/
  landed : List (Nat × Nat) := []
  deriving DecidableEq, Repr

/-- A device command of kind fwin waiting for its entry (R322). -/
structure WinWait where
  core : Nat
  slot : Nat
  num : Nat
  entry : Nat
  openIt : Bool
  ctx : Nat
  base : Nat
  desc : Nat
  deriving DecidableEq, Repr

/-- A held reduction partial (R311): contributions by rank. -/
structure Partial where
  id : Nat
  group : Nat
  round : Nat
  /-- Rank, contribution, and the out packet it answers where it was looped back. -/
  parts : List (Nat × Packet × Option Nat)
  deriving DecidableEq, Repr

/-- A fabric port (R310): working wavelengths, active width, waking, flits in its transmit queue; and its refused-packet counter (R298). -/
structure Port where
  working : List Bool := List.replicate 8 true
  width : Nat := 8
  waking : Bool := false
  queue : Nat := 0
  refused : Nat := 0
  deriving DecidableEq, Repr

/-- A cached fabric translation of a die (R299): context, peer number, window, peer entry, window entry. -/
structure FabTlb where
  die : Nat
  ctx : Nat
  peer : Nat
  win : Nat
  pe : Nat
  we : Nat
  deriving DecidableEq, Repr

/-- The fabric engine (R295 to R312). -/
structure Fabric where
  node : Nat := 0
  routes : Sparse (BitVec 32) := []
  params : FabParams := {}
  groups : List (Option RedGroup) := List.replicate 256 none
  tlb : List FabTlb := []
  expo : List Expo := List.replicate 256 {}
  out : List OutPacket := []
  inn : List InPacket := []
  cmds : List FabCmd := []
  wins : List WinWait := []
  partials : List Partial := []
  ports : List Port := List.replicate 20 {}
  /-- Responses and forwarded packets handed to the ports, newest first. -/
  sent : List Packet := []
  /-- Responses of looped-back packets on their way: out packet, cause, data. -/
  back : List (Nat × Nat × List Byte) := []
  /-- Responses received that wait for a page of the local side: out packet, cause, data (R178, R314). -/
  kept : List (Nat × Nat × List Byte) := []
  /-- Cycles of the fabric target in which packets have arrived (R331). -/
  cycle : Nat := 0
  /-- Message number of each die, packets of that message so far; next sequence by destination and channel; next placed sequence by source and
  channel. -/
  message : List Nat := List.replicate 4 0
  pieces : List Nat := List.replicate 4 0
  seqOut : Sparse Nat := []
  seqIn : Sparse Nat := []
  /-- Injection window of each die and node (key 1024 × die + node), and hold. -/
  window : Sparse Nat := []
  hold : Sparse Nat := []
  /-- Count of packets injected. -/
  injected : Nat := 0
  deriving DecidableEq, Repr

/-! ### The chip -/

/-- Who executes the next instruction: a squad or a quarry thread inside a clause. -/
abbrev Turn := Option Agent

/-- Everything the instruction set and the engines act on. -/
structure Chip where
  /-- Device memory and host memory. -/
  dev : Mem := []
  host : Mem := []
  /-- Device bytes with an uncorrectable error (R383). -/
  bad : Sparse Bool := []
  /-- Device ranges whose memory key is not released: low, high (R377). -/
  locked : List (Nat × Nat) := []
  /-- DRAM rows, by their kind-5 codes, whose copy to a spare row is in progress: accesses to them wait (R381). -/
  copying : List Nat := []
  /-- Physical numbers of the fitted stacks, ascending (R1, R95), and applied capacity size C (R366). -/
  fitted : List Nat := List.range 8
  cap : Nat := 0
  /-- Retired DRAM channels, by their kind-4 codes (R381). -/
  retired : List Nat := []
  /-- Group members, by 4 × group + member, reached by an access that counts under R368: one to no streaming range of its launch (R369). -/
  reached : List Nat := []
  /-- Command window, journal and status block bases, journal c (R332, R340, R372). -/
  cmdWindow : Nat := 0
  journal : Nat := 0
  journalC : Nat := 7
  status : Nat := 0
  /-- The device is Running: commands are taken (R374). -/
  running : Bool := false
  turn : Turn := none
  cores : List Core := []
  benches : List Bench := []
  /-- Site of each logical core (R8, R372). -/
  sites : List (Option Nat) := []
  /-- Cluster number and ring position of each core (R10). -/
  clusters : List (Option (Nat × Nat)) := []
  /-- Clusters that are On (R346): placement prefers them. -/
  on : List Bool := List.replicate 16 true
  squads : List Squad := []
  requests : List Request := []
  updates : List BarUpdate := []
  /-- Barrier objects, by their first location, and phases in which a byte countdown or a signal was counted (R50). -/
  counted : List (Loc × Nat) := []
  rings : List RingReq := []
  /-- Launch, muster, core: the round that the core's last request asked for, or that has failed without it (R240, R243). -/
  ringRounds : List (Nat × Nat × Nat × Nat) := []
  ctxs : List (Option Ctx) := List.replicate 64 none
  launches : List Launch := []
  formed : List Formed := []
  exitRecords : List ExitRecord := []
  barInits : List BarInit := []
  coreSets : List CoreSet := []
  moves : List Move := []
  /-- Pre-emptions that a move has left to a core which has one in progress: core, context, context for whose sake (R361). -/
  asked : List (Nat × Nat × Nat) := []
  queues : List CmdQueue := []
  served : Nat := 0
  timelines : List CmdTimeline := List.replicate 64 {}
  cmds : List Cmd := []
  fab : Fabric := {}
  /-- L2 TLB of each die (R177). -/
  tlb2 : List (List TlbEntry) := List.replicate 4 []
  /-- Engine accesses whose page was reported unresolvable: name and page (R179). -/
  failed : List (Nat × Nat) := []
  /-- Locks of unsupported-atomic services held between packets (R181). -/
  locks : List Nat := []
  /-- The model's own counters: next name of a squad, request or command; order of dispatches and issues; free values. -/
  nextId : Nat := 1
  order : Nat := 0
  fresh : Nat := 0
  deriving DecidableEq, Repr

/-! ### The platform -/

/-- Boot states of R374. -/
inductive Boot where
  | reset | ready | recovery | verify | running
  deriving DecidableEq, Repr

/-- States of a cluster's power controller (R346). -/
inductive ClusterPower where
  | on | gating | abandoning | off | waking
  deriving DecidableEq, Repr

/-- An error counter with its open window (R381). -/
structure ErrCounter where
  place : ErrPlace
  count : Nat
  bad : Nat := 0
  deriving DecidableEq, Repr

/-- An SPDM session (R376, R377). -/
structure Session where
  id : Nat
  finished : Bool := false
  /-- A signed measurement or challenge has succeeded since the last measurement change. -/
  attested : Bool := false
  deriving DecidableEq, Repr

/-- A memory-key slot (R377); its range is the policy's. -/
structure KeySlot where
  key : List Byte := []
  filled : Bool := false
  deriving DecidableEq, Repr

/-- The responder of R376. -/
structure Spdm where
  versioned : Bool := false
  capable : Bool := false
  negotiated : Bool := false
  sessions : List Session := []
  /-- Last response: its code and bytes. -/
  code : Nat := 0
  reply : List Byte := []
  deriving DecidableEq, Repr

/-- The platform (R366 to R383). -/
structure Plat where
  /-- Ordering code (R1). -/
  part : Part := .m64
  boot : Boot := .reset
  bootCause : Nat := 0
  /-- State in which Go was written, the block that waits for verification, and the Kelesh configuration registers. -/
  goFrom : Boot := .ready
  block : BitVec 512 := 0
  config : Mem := []
  /-- Number of images posted, which names the posted image to Config; the number of the posted image that the flash holds, 0 for the image
  the part was delivered with (R374). -/
  images : Nat := 0
  flash : Nat := 0
  /-- What the last host access returned: its bytes, none for a poisoned completion (R373, R377). -/
  completion : Option (List Byte) := some []
  /-- Base of each core's lay-by, 2 MiB of fast-tier memory whose groups are pinned (R160, R367). -/
  layby : List Nat := []
  /-- Remap entries by group (R367), access counts by key 4 × group + member (R368). -/
  remap : Sparse (BitVec 16) := []
  counts : Sparse Nat := []
  /-- Refresh balance of the 320 channels (R371). -/
  refresh : List Int := List.replicate 320 0
  /-- Clock of each core in MHz; upper limit the package limiter sets (R379). -/
  clocks : List Nat := List.replicate 64 2500
  limits : List Nat := List.replicate 64 2500
  power : List ClusterPower := List.replicate 16 .on
  /-- Energy of each context in microjoules, suppressed reads and writes of each core (R372, R380). -/
  energy : List Nat := List.replicate 64 0
  suppressed : List (Nat × Nat) := List.replicate 64 (0, 0)
  errors : List ErrCounter := []
  /-- Repair table: source and place of each lasting fault, oldest first (R382); channels to retire at the next Reset; records in the status
  block's retirement log. -/
  repair : List (Nat × Nat) := []
  retiring : List Nat := []
  log : Nat := 0
  keys : List KeySlot := List.replicate 16 {}
  spdm : Spdm := {}
  deriving DecidableEq, Repr

/-- What the environment's schedule holds: events, and which agent runs next. -/
inductive Item where
  | event (i : Instr)
  | run (a : Agent)
  deriving DecidableEq, Repr

/-- The state of the machine. -/
structure State where
  chip : Chip
  plat : Plat
  /-- What happens next: the schedule of timing, host and fabric (the model's own field). -/
  agenda : List Item
  deriving DecidableEq, Repr

/-! ### Reset -/

/-- Queue 0 is enabled at reset with priority 7 (R335). -/
def resetQueues : List CmdQueue := { enabled := true, prio := 7 } :: List.replicate 63 {}

/-- Site of core n: the model's repair table leaves rows 4 and 9 disabled (R8). (DESIGN CHOICE, log 4.) -/
def resetSite (n : Nat) : Nat := fld 3 (n / 32 * 5 + n % 32 / 8) + n % 8

/-- Cluster and ring position of core n: the model's repair table (R10). The four cores of a cluster lie in one die. (DESIGN CHOICE, log 4.) -/
def resetCluster (n : Nat) : Nat × Nat := (n / 32 * 8 + n % 8 / 4 * 4 + n % 32 / 8, n % 4)

/-- Ranges that the memory-key policy assigns to the 16 key slots (R377). -/
def keyRanges : List (Nat × Nat) := (List.range 16).map Config.keyRange

/-- The chip of a part after reset: its enabled cores with six benches each and its fitted stacks, nothing running, no memory key released.
Core sites, clusters and stacks are the model's repair table. (DESIGN CHOICE, log 2.) (DESIGN CHOICE, log 3.) (DESIGN CHOICE, log 4.) -/
def Chip.resetOf (p : Part) : Chip :=
  { locked := keyRanges
    fitted := List.range p.stackCount
    cores := (List.range 64).map fun n => { enabled := decide (n < p.cores) }
    benches := List.replicate 384 {}
    sites := (List.range 64).map fun n => if n < p.cores then some (resetSite n) else none
    clusters := (List.range 64).map fun n => if n < p.cores then some (resetCluster n) else none
    queues := resetQueues }

/-- The lay-by of each core: the top of the fast tier of a part, 2 MiB a core (R160). (DESIGN CHOICE, log 66.) -/
def Part.layby (p : Part) : List Nat := (List.range 64).map fun n => p.stackCount * 2 ^ 36 - (64 - n) * 2 ^ 21

/-- The machine of an ordering code after reset: the platform in state Reset, balances 0, clocks nominal (R374). (DESIGN CHOICE, log 3.) -/
def State.resetOf (p : Part) : State := { chip := Chip.resetOf p, plat := { part := p, layby := p.layby }, agenda := [] }

/-- The machine after reset: the module of 64 cores; every other ordering code differs in the number of its units only (R1, R2). (DESIGN CHOICE, log 4.) -/
def State.reset : State := State.resetOf .m64

end Sys2Proof.Machine
end

