-- ==== Sys2Proof/Machine/Base.lean ====
section
/-! DEFINITION. Named parts of the machine: cores, benches, contexts, launches, squads, musters; device, host and scratch
bytes by location; windows and scratch addresses (R41); which device addresses exist (R366). -/

namespace Sys2Proof.Machine

/-- Core n. -/
def Chip.core (c : Chip) (n : Nat) : Core := c.cores.getD n {}

/-- Change core n. -/
def Chip.modCore (c : Chip) (n : Nat) (f : Core → Core) : Chip := { c with cores := modAt c.cores n f }

/-- Bench b of core n. -/
def Chip.bench (c : Chip) (n b : Nat) : Bench := c.benches.getD (6 * n + b) {}

/-- Change bench b of core n. -/
def Chip.modBench (c : Chip) (n b : Nat) (f : Bench → Bench) : Chip := { c with benches := modAt c.benches (6 * n + b) f }

/-- Context x, if it exists. -/
def Chip.ctx? (c : Chip) (x : Nat) : Option Ctx := (c.ctxs[x]?).join

/-- Change context x. -/
def Chip.modCtx (c : Chip) (x : Nat) (f : Ctx → Ctx) : Chip := { c with ctxs := modAt c.ctxs x (Option.map f) }

/-- The squad of a name. -/
def Chip.squad? (c : Chip) (uid : Nat) : Option Squad := c.squads.find? fun q => q.uid == uid

/-- Change a squad. -/
def Chip.modSquad (c : Chip) (uid : Nat) (f : Squad → Squad) : Chip :=
  { c with squads := c.squads.map fun q => if q.uid = uid then f q else q }

/-- Replace a squad by a new value of it. -/
def Chip.setSquad (c : Chip) (q : Squad) : Chip := c.modSquad q.uid fun _ => q

/-- The launch of a name. -/
def Chip.launch? (c : Chip) (id : Nat) : Option Launch := c.launches.find? fun l => l.id == id

/-- Change a launch. -/
def Chip.modLaunch (c : Chip) (id : Nat) (f : Launch → Launch) : Chip :=
  { c with launches := c.launches.map fun l => if l.id = id then f l else l }

/-- A muster of a launch. -/
def Chip.muster? (c : Chip) (launch idx : Nat) : Option Muster := (c.launch? launch).bind fun l => l.musters.find? fun m => m.idx == idx

/-- Change a muster of a launch. -/
def Chip.modMuster (c : Chip) (launch idx : Nat) (f : Muster → Muster) : Chip :=
  c.modLaunch launch fun l => { l with musters := l.musters.map fun m => if m.idx = idx then f m else m }

/-- Quarry thread t of core n. -/
def Chip.thread? (c : Chip) (n t : Nat) : Option QThread := ((c.core n).threads[t]?).join

/-- Change quarry thread t of core n. -/
def Chip.modThread (c : Chip) (n t : Nat) (f : QThread → QThread) : Chip :=
  c.modCore n fun k => { k with threads := modAt k.threads t (Option.map f) }

/-- Queue q of core n. -/
def Chip.queue (c : Chip) (n q : Nat) : Queue := (c.core n).queues.getD q {}

/-- Change queue q of core n. -/
def Chip.modQueue (c : Chip) (n q : Nat) (f : Queue → Queue) : Chip :=
  c.modCore n fun k => { k with queues := modAt k.queues q f }

/-- A request by name. -/
def Chip.request? (c : Chip) (id : Nat) : Option Request := c.requests.find? fun r => r.id == id

/-- Change a request. -/
def Chip.modRequest (c : Chip) (id : Nat) (f : Request → Request) : Chip :=
  { c with requests := c.requests.map fun r => if r.id = id then f r else r }

/-- Drop a request. -/
def Chip.dropRequest (c : Chip) (id : Nat) : Chip := { c with requests := c.requests.filter fun r => r.id != id }

/-- The next unused name, and the chip that has used it. -/
def Chip.newId (c : Chip) : Nat × Chip := (c.nextId, { c with nextId := c.nextId + 1 })

/-- The next free value (R124 and the open values of the log), and the chip that has used it. (DESIGN CHOICE, log 1.) -/
def Chip.free (c : Chip) : BitVec 64 × Chip := (Config.freeWord c.fresh, { c with fresh := c.fresh + 1 })

/-- Die that holds a site (R7). -/
def siteDie (site : Nat) : Nat := 2 * (bits site 6 3 / 5) + site % 8 / 4

/-- Die of a core (R7). -/
def Chip.die (c : Chip) (n : Nat) : Nat := siteDie (((c.sites[n]?).join).getD 0)

/-- Fast-tier size F: 64 GiB a fitted stack (R1, R366). -/
def Chip.fast (c : Chip) : Nat := c.fitted.length * 2 ^ 36

/-- Homes of R169: the Kelesh agent on die 0, an L2 slice by die and number, a bank of a core's scratch. -/
inductive Home where
  | kelesh
  | slice (die slice : Nat)
  | bank (core bank : Nat)
  deriving DecidableEq, Repr

/-- SL of R169: the present L2 slices in ascending die and slice order, eight for each fitted stack. Stacks 2d and 2d + 1 lie on die d. (DESIGN
CHOICE, log 91.) -/
def Chip.slices (c : Chip) : List (Nat × Nat) := c.fitted.flatMap fun k => (List.range 8).map fun j => (k / 2, k % 2 * 8 + j)

/-- HOME of R169 for a device address: which of the S present slices. -/
def Chip.homeIndex (c : Chip) (pa : Nat) : Nat :=
  let g := pa / 4096
  (g ^^^ g / 2 ^ 12 ^^^ g / 2 ^ 24) % 2 ^ 12 % c.slices.length

/-- The home of a location (R169). -/
def Chip.home (c : Chip) : Loc → Home
  | .host _ => .kelesh
  | .dev pa => let x := c.slices.getD (c.homeIndex pa) (0, 0); .slice x.1 x.2
  | .scr n off => .bank n (off / 128 % 32)

/-- Whether the device address exists (R366). -/
def Chip.exists (c : Chip) (pa : Nat) : Bool :=
  let m := pa / c.fast
  decide (m = 0) ||
    (decide (m < 4) && decide ((m - 1) * c.fast + pa % c.fast / 65536 * 65536 + 65536 + 2 ^ 24 ≤ c.cap))

/-- Whether a region lies wholly in device memory that exists (R352). -/
def Chip.regionExists (c : Chip) (base len : Nat) : Bool :=
  len == 0 || (List.range (len / 65536 + 2)).all fun k => let pa := base + 65536 * k; decide (base + len ≤ pa / 65536 * 65536) || c.exists pa

/-- Whether the memory key of the range that holds an address is not yet released (R377). -/
def Chip.isLocked (c : Chip) (pa : Nat) : Bool := c.locked.any fun r => decide (r.1 ≤ pa) && decide (pa < r.2)

/-- Whether an address lies in the status block, where writes by programs and hosts are discarded (R372). -/
def Chip.inStatus (c : Chip) (pa : Nat) : Bool := c.running && decide (c.status ≤ pa) && decide (pa < c.status + 65536)

/-- Whether a location lies in a DRAM row whose copy to a spare row is in progress: accesses to it wait (R381). -/
def Chip.inCopy (c : Chip) (ls : List Loc) : Bool :=
  c.copying.any fun r => ls.any fun l => match l with
    | .dev pa => (Config.rowOf c.fitted c.retired pa).toNat == r
    | _ => false

/-- The byte at a location. -/
def Chip.byteAt (c : Chip) : Loc → Byte
  | .dev pa => c.dev.byte pa
  | .host pa => c.host.byte pa
  | .scr n off => (c.core n).scratch.byte off

/-- Write the byte at a location. -/
def Chip.putByte (c : Chip) (l : Loc) (v : Byte) : Chip :=
  match l with
  | .dev pa => if c.inStatus pa then c else { c with dev := c.dev.setByte pa v, bad := c.bad.set false pa false }
  | .host pa => { c with host := c.host.setByte pa v }
  | .scr n off => c.modCore n fun k => { k with scratch := k.scratch.setByte off v }

/-- The bytes at a list of locations. -/
def Chip.readLocs (c : Chip) (ls : List Loc) : List Byte := ls.map c.byteAt

/-- Write bytes at a list of locations. -/
def Chip.writeLocs (c : Chip) (ls : List Loc) (bs : List Byte) : Chip := (ls.zip bs).foldl (fun c e => c.putByte e.1 e.2) c

/-- Write device memory by a device agent, without translation (R352, R372). -/
def Chip.devWrite (c : Chip) (pa : Nat) (bs : List Byte) : Chip := { c with dev := c.dev.setBytes pa bs }

/-- Write a number to device memory by a device agent. -/
def Chip.devPut (c : Chip) (pa n v : Nat) : Chip := c.devWrite pa (leBytes n v)

/-- The device address of a location, if it is one. -/
def Loc.devPa? : Loc → Option Nat
  | .dev pa => some pa
  | _ => none

/-- Whether a location is scratch. -/
def Loc.isScr : Loc → Bool
  | .scr _ _ => true
  | _ => false

/-- Window of a muster on a core (R32). -/
def Core.window? (k : Core) (launch muster : Nat) : Option Window := k.windows.find? fun w => w.launch == launch && w.muster == muster

/-- Window that a scratch address names through muster slots, and the byte offset in it (R41). -/
def Chip.scratchWindow (c : Chip) (n launch : Nat) (mslots : List (Option Nat)) (addr : Nat) : Option (Nat × Nat) :=
  (mslots.getD (bits addr 31 30) none).map fun m =>
    match (c.core n).window? launch m with
    | some w => (w.base * 128, w.lines * 128)
    | none => (0, 0)

/-- The window that holds a scratch line of a core. -/
def Core.windowOf (k : Core) (line : Nat) : Option Window := k.windows.find? fun w => decide (w.base ≤ line) && decide (line < w.base + w.lines)

/-- Priority of a context. -/
def Chip.prio (c : Chip) (x : Nat) : Nat := ((c.ctx? x).map (·.prio)).getD 0

/-- Launch that an agent belongs to. -/
def Chip.agentLaunch (c : Chip) : Agent → Nat
  | .squad uid => ((c.squad? uid).map (·.launch)).getD 0
  | .thread n t => ((c.thread? n t).map (·.launch)).getD 0

end Sys2Proof.Machine
end

