-- ==== Sys2Proof/Machine/Operands.lean ====
section
/-! DEFINITION. Operand forms: guards (R83), general, uniform and pair codes (R85 to R87), the operand latch (R88, R89), the
lanes an instruction acts for, and the reading and writing of registers. Everything here acts on the register side of one
agent, a squad or a quarry thread. -/

namespace Sys2Proof.Machine

/-- The illegal-operand trap of the instruction at the agent's position, for a field (R349): 0 Dst or P, 1 A or Q, 2 B or S,
3 C or T, 4 Hold, 5 Handle, 6 modifiers, 7 escort, 8 format word, 9 none. -/
def Exe.operand (e : Exe) (field : Nat) (lanes : Nat := 0) : Trap := { cause := 4, det := fld 32 lanes + fld 4 field + e.pos }

/-- The illegal-clause trap (R349): the detail is the header word. -/
def Exe.illegalClause (e : Exe) : Trap := { cause := 2, det := e.hdr.toNat }

/-- The illegal-instruction trap (R349): opcode and word position. -/
def Exe.illegalInstr (e : Exe) (opcode : Nat) : Trap := { cause := 1, det := fld 10 e.pos + opcode }

/-- The access-fault trap (R349): reason and address of the lowest faulting lane. -/
def accessFault (reason va : Nat) : Trap := { cause := 5, det := fld 60 reason + va % 2 ^ 57 }

/-- Whether the guard is true in a lane (R83). -/
def Exe.guard (e : Exe) (g : Guard) (l : Nat) : Bool := (if g.flag = 7 then true else (e.flags.getD g.flag.toNat 0).getLsbD l) != g.inv

/-- The active lanes whose guard is true. -/
def Exe.acting (e : Exe) (g : Guard) : LaneMask := maskOf fun l => e.active.getLsbD l && e.guard g l

/-- Class field of the agent's clause (R78). -/
def Exe.cls (e : Exe) : Nat := bits e.hdr.toNat 63 60

/-- Count field of the agent's clause: instruction words minus 1 (R78). -/
def Exe.count (e : Exe) : Nat := bits e.hdr.toNat 59 56

/-- Next clause header by sequential flow (R81). -/
def Exe.nextHdr (e : Exe) : Nat := e.hdrAt + 8 * (e.count + 2)

/-- Address of the instruction word at the agent's position (R81). -/
def Exe.wordAt (e : Exe) : Nat := e.hdrAt + 8 * (e.pos + 1)

/-! ### General codes -/

/-- Whether latch entry k may be read at the agent's position (R89). -/
def Exe.latchOk (e : Exe) (k : Nat) : Bool :=
  match e.latchAt.getD k none with
  | some p => decide (p < e.pos) && decide (e.pos ≤ p + 2)
  | none => false

/-- Whether register n, or the pair at n, is declared and a pair code is even (R86). -/
def Exe.regOk (e : Exe) (w64 : Bool) (n : Nat) : Bool :=
  if w64 then decide (n % 2 = 0) && decide (n + 1 < e.declared) else decide (n < e.declared)

/-- Whether a general code is legal as a source (R85, R86, R89). -/
def Exe.srcOk (e : Exe) (w64 : Bool) (code : Code) : Bool :=
  let n := code.toNat
  if n < 0xF0 then e.regOk w64 n
  else if n < 0xF3 then e.latchOk (n - 0xF0)
  else decide (n ≤ 0xF4)

/-- Whether a general code is legal as a destination (R85, R86). -/
def Exe.dstOk (e : Exe) (w64 : Bool) (code : Code) : Bool :=
  let n := code.toNat
  if n < 0xF0 then e.regOk w64 n else decide (n = 0xF3)

/-- Register n of a lane. -/
def Exe.reg (e : Exe) (n l : Nat) : Word := Sparse.get 0 e.regs (32 * n + l)

/-- Register pair n of a lane as a number (R68). -/
def Exe.regPair (e : Exe) (n l : Nat) : Nat := (e.reg n l).toNat + 2 ^ 32 * (e.reg (n + 1) l).toNat

/-- Latch entry k of a lane. -/
def Exe.latchVal (e : Exe) (k l : Nat) : DWord := Sparse.get 0 e.latch (32 * k + l)

/-- A lane's value of a source code, 32 or 64 bits (R85, R86). -/
def Exe.src (e : Exe) (w64 : Bool) (code : Code) (l : Nat) : Nat :=
  let n := code.toNat
  if n < 0xF0 then (if w64 then e.regPair n l else (e.reg n l).toNat)
  else if n < 0xF3 then (if w64 then (e.latchVal (n - 0xF0) l).toNat else (e.latchVal (n - 0xF0) l).toNat % 2 ^ 32)
  else if n = 0xF4 then e.thread.getD l % 2 ^ 32
  else 0

/-- Set register n of a lane. -/
def Exe.setReg (e : Exe) (n l v : Nat) : Exe := { e with regs := e.regs.set 0 (32 * n + l) (BitVec.ofNat 32 v) }

/-- Write a lane's destination, 32 or 64 bits; xz discards (R85, R86). -/
def Exe.put (e : Exe) (w64 : Bool) (code : Code) (l v : Nat) : Exe :=
  let n := code.toNat
  if n < 0xF0 then (if w64 then (e.setReg n l v).setReg (n + 1) l (v / 2 ^ 32) else e.setReg n l v) else e

/-! ### Uniform codes -/

/-- Number of uniform registers: s0 to s63, or the argument registers s0 to s7 of a quarry thread (R87, R209). -/
def Exe.uniCount (e : Exe) : Nat := if e.thread.isSome then 8 else 64

/-- Whether a uniform source code is legal (R87, R113, R183). -/
def Exe.uniOk (e : Exe) (w64 : Bool) (code : Code) : Bool :=
  let n := code.toNat
  if w64 then decide (n = 0xF3) || (decide (n % 2 = 0) && decide (n + 1 < e.uniCount)) else decide (n = 0xF3) || decide (n < e.uniCount)

/-- Whether a uniform destination code is legal; a quarry thread has none (R87, R209). -/
def Exe.uniDstOk (e : Exe) (w64 : Bool) (code : Code) : Bool := e.thread.isNone && e.uniOk w64 code

/-- Uniform register k. -/
def Exe.uniReg (e : Exe) (k : Nat) : Word := Sparse.get 0 e.uni k

/-- Value of a uniform code (R87). -/
def Exe.uniVal (e : Exe) (w64 : Bool) (code : Code) : Nat :=
  let n := code.toNat
  if n = 0xF3 then 0 else if w64 then (e.uniReg n).toNat + 2 ^ 32 * (e.uniReg (n + 1)).toNat else (e.uniReg n).toNat

/-- Set uniform register k. -/
def Exe.setUni (e : Exe) (k v : Nat) : Exe := { e with uni := e.uni.set 0 k (BitVec.ofNat 32 v) }

/-- Write a uniform destination; 0xF3 discards (R87). -/
def Exe.putUni (e : Exe) (w64 : Bool) (code : Code) (v : Nat) : Exe :=
  let n := code.toNat
  if n = 0xF3 then e else if w64 then (e.setUni n v).setUni (n + 1) (v / 2 ^ 32) else e.setUni n v

/-- Check a uniform source field (R87). -/
def Exe.chkUni (e : Exe) (field : Nat) (w64 : Bool) (code : Code) : Except Trap Unit :=
  if e.uniOk w64 code then .ok () else .error (e.operand field)

/-- Check a uniform destination field (R87). -/
def Exe.chkUniDst (e : Exe) (field : Nat) (w64 : Bool) (code : Code) : Except Trap Unit :=
  if e.uniDstOk w64 code then .ok () else .error (e.operand field)

/-- Check a uniform pair that may not be 0xF3 (R183). -/
def Exe.chkPair (e : Exe) (field : Nat) (code : Code) : Except Trap Unit :=
  if e.uniOk true code && code != 0xF3 then .ok () else .error (e.operand field)

/-! ### Format R -/

/-- How an instruction decodes a field: not used, general of 32 or 64 bits, or another kind that its entry checks. -/
inductive Field where
  | unused
  | gen (w64 : Bool)
  | other
  deriving DecidableEq, Repr

/-- How an R-format instruction decodes its four operand fields. -/
structure RUse where
  dst : Field := .unused
  a : Field := .unused
  b : Field := .unused
  c : Field := .unused
  deriving DecidableEq, Repr

/-- Check a source field (R93, step 3). -/
def Exe.chkSrc (e : Exe) (field : Nat) (u : Field) (code : Code) : Except Trap Unit :=
  match u with
  | .gen w64 => if e.srcOk w64 code then .ok () else .error (e.operand field)
  | _ => .ok ()

/-- Check a destination field (R93, step 3). -/
def Exe.chkDst (e : Exe) (u : Field) (code : Code) : Except Trap Unit :=
  match u with
  | .gen w64 => if e.dstOk w64 code then .ok () else .error (e.operand 0)
  | _ => .ok ()

/-- The use and the code of the field that Hold names (R84). -/
def holdField (f : FormR) (u : RUse) : Field × Code :=
  if f.hold = 1 then (u.a, f.a) else if f.hold = 2 then (u.b, f.b) else (u.c, f.c)

/-- Check Hold and Latch slot (R84, R89): Hold names a general source that the instruction uses, the slot is not 3. -/
def Exe.chkHold (e : Exe) (f : FormR) (u : RUse) : Except Trap Unit :=
  if f.hold = 0 then .ok ()
  else match (holdField f u).1 with
    | .gen _ => if f.slot = 3 then .error (e.operand 4) else .ok ()
    | _ => .error (e.operand 4)

/-- Operand checks of an R-format instruction (R93, step 3). Where several fields fail, `cw.trapdet` names the first of destination, A, B, C, then Hold and
Latch slot. (DESIGN CHOICE, log 94.) -/
def Exe.chkR (e : Exe) (f : FormR) (u : RUse) : Except Trap Unit := do
  e.chkDst u.dst f.dst
  e.chkSrc 1 u.a f.a
  e.chkSrc 2 u.b f.b
  e.chkSrc 3 u.c f.c
  e.chkHold f u

/-- Capture into the operand latch, in every active lane, of sources as they stood before the instruction (R88). `e0` is the
agent before the instruction, `e` after it. -/
def Exe.capture (e0 : Exe) (f : FormR) (u : RUse) (e : Exe) : Exe :=
  if f.hold = 0 then e
  else match holdField f u with
    | (.gen w64, code) =>
      let k := f.slot.toNat
      { e with
        latch := (lanesOf e0.active).foldl (fun m l => m.set 0 (32 * k + l) (BitVec.ofNat 64 (e0.src w64 code l))) e.latch
        latchAt := e.latchAt.set k (some e0.pos) }
    | _ => e

/-- Apply a change for each lane of a mask, in ascending order. -/
def Exe.each (e : Exe) (m : LaneMask) (f : Exe → Nat → Exe) : Exe := (lanesOf m).foldl f e

/-- The result of an R-format instruction that writes, in each acting lane, a value of its three sources (R99). -/
def Exe.resultR (e : Exe) (f : FormR) (u : RUse) (wA wB wC wD : Bool) (fn : Nat → Nat → Nat → Nat) : Exe :=
  e.capture f u (e.each (e.acting f.g) fun e' l => e'.put wD f.dst l (fn (e.src wA f.a l) (e.src wB f.b l) (e.src wC f.c l)))

/-- Whether a field is a pair. -/
def Field.wide : Field → Bool
  | .gen w => w
  | _ => false

/-- An R-format instruction that computes lane by lane from general sources to a general destination. -/
def Exe.runR (f : FormR) (u : RUse) (fn : Nat → Nat → Nat → Nat) (e : Exe) : Except Trap Exe := do
  e.chkR f u
  return e.resultR f u u.a.wide u.b.wide u.c.wide u.dst.wide fn

/-! ### Registers an instruction names (R159) -/

/-- Registers that a general code of 32 or 64 bits names. -/
def codeRegs (w64 : Bool) (code : Code) : List Nat :=
  if code.toNat < 0xF0 then (if w64 then [code.toNat, code.toNat + 1] else [code.toNat]) else []

/-- Registers that a field names. -/
def Field.regs (u : Field) (code : Code) : List Nat :=
  match u with
  | .gen w => codeRegs w code
  | _ => []

/-- Registers that an R-format instruction names. -/
def regsR (f : FormR) (u : RUse) : List Nat := u.dst.regs f.dst ++ u.a.regs f.a ++ u.b.regs f.b ++ u.c.regs f.c

/-- Registers n to n + k − 1. -/
def blockRegs (n k : Nat) : List Nat := (List.range k).map (n + ·)

end Sys2Proof.Machine
end

