-- ==== Sys2Proof/Machine/Flags.lean ====
section
/-! DEFINITION. Flags: writing a flag lane by lane, the combine field, and the integer and float conditions (R83, R111,
R118, R122). -/

namespace Sys2Proof.Machine

/-- Whether a code names a flag destination, f7 included (R111). -/
def flagOk (code : Code) : Bool := decide (code.toNat ≤ 7)

/-- Flag k of a lane; f7 reads true (R83). -/
def Exe.flag (e : Exe) (k l : Nat) : Bool := if 7 ≤ k then true else (e.flags.getD k 0).getLsbD l

/-- Write flag k of a lane; a write to f7 is discarded (R111). -/
def Exe.setFlag (e : Exe) (k l : Nat) (v : Bool) : Exe := { e with flags := modAt e.flags k fun m => setLane m l v }

/-- The combine field of `icmp` and `fcmp` (R111, R122). -/
def combine (m : Comb) (old cond : Bool) : Bool :=
  match m with
  | .set => cond
  | .and => old && cond
  | .or => old || cond

/-- An integer condition on two exact values (R111). -/
def intCond (c : Cond) (a b : Int) : Bool :=
  match c with
  | .eq => decide (a = b)
  | .ne => decide (a ≠ b)
  | .lt => decide (a < b)
  | .le => decide (a ≤ b)
  | .gt => decide (a > b)
  | .ge => decide (a ≥ b)

/-- A float condition on two FP32 encodings (R122). -/
def floatCond (c : FCond) (x y : Nat) : Bool :=
  match c, fCmp (val32 x) (val32 y) with
  | .nan, r => r.isNone
  | .num, r => r.isSome
  | .eq, r => r == some .eq
  | .ne, r => r != some .eq
  | .lt, r => r == some .lt
  | .le, r => r == some .lt || r == some .eq
  | .gt, r => r == some .gt
  | .ge, r => r == some .gt || r == some .eq

/-- The result of an R-format instruction that writes a flag in each acting lane. -/
def Exe.resultFlag (e : Exe) (f : FormR) (u : RUse) (fn : Nat → Bool) : Exe :=
  e.capture f u (e.each (e.acting f.g) fun e' l => e'.setFlag f.dst.toNat l (fn l))

/-- An R-format instruction that writes a flag from general sources (R111, R118). -/
def Exe.runFlag (f : FormR) (u : RUse) (fn : Exe → Nat → Bool) (e : Exe) : Except Trap Exe := do
  if !flagOk f.dst then throw (e.operand 0)
  e.chkR f u
  return e.resultFlag f u (fn e)

end Sys2Proof.Machine
end

