-- ==== Sys2Proof/Machine/Translate.lean ====
section
/-! DEFINITION. Address translation: the view table (R42 to R45), the page tables (R176), the TLBs (R177), page faults and
their queue (R178, R179), and the error queue (R325). -/

namespace Sys2Proof.Machine

/-- What an access needs of a page (R176). -/
structure Need where
  r : Bool := false
  w : Bool := false
  x : Bool := false
  deriving DecidableEq, Repr

/-- How a translation fails (R178): the page of an address is not present, or a row that the walk reads is being copied, for which it waits (R381); or an
access fault with its reason (R349). -/
inductive XErr where
  | absent (va : Nat)
  | access (reason : Nat)
  deriving DecidableEq, Repr

/-- The windows of a view: base and kind (0 row-major, 1 column-major, 2 tiled) (R42). -/
def View.windows (v : View) : List (Nat × Nat) := [(v.baseRm, 0), (v.baseCm, 1), (v.baseTl, 2)]

/-- Bytes of each window (R42). -/
def View.bytes (v : View) : Nat := v.rows * v.cols * v.es

/-- STORE of R44. -/
def View.store (v : View) (row col : Nat) : Nat :=
  v.frame + ((row / 32) * (v.cols / 32) + col / 32) * 1024 * v.es + ((row % 32) * 32 + col % 32) * v.es

/-- VIEW and STORE of R44 in one window: the device address of byte va. -/
def View.at (v : View) (base kind va : Nat) : Nat :=
  let n := (va - base) / v.es
  let b := (va - base) % v.es
  let rc :=
    if kind = 0 then (n / v.cols, n % v.cols)
    else if kind = 1 then (n % v.rows, n / v.rows)
    else
      let t := n / 1024
      let q := n % 1024
      ((t / (v.cols / 32)) * 32 + q / 32, (t % (v.cols / 32)) * 32 + q % 32)
  v.store rc.1 rc.2 + b

/-- The view and window that hold an address (R44). -/
def Ctx.view? (x : Ctx) (va : Nat) : Option (View × Nat × Nat) :=
  x.views.findSome? fun v =>
    (v.windows.find? fun w => decide (w.1 ≤ va) && decide (va < w.1 + v.bytes)).map fun w => (v, w.1, w.2)

/-- Element size of the view window that splits an access of n bytes; 0 where none does (R45). -/
def Chip.elemOf (c : Chip) (ctx va n : Nat) : Nat :=
  match (c.ctx? ctx).bind fun x => x.view? va with
  | some v => if v.1.es < n then v.1.es else 0
  | none => 0

/-- Bytes that a cached translation maps (R177). -/
def TlbEntry.size (t : TlbEntry) : Nat := if t.big then 2 ^ 21 else 2 ^ 16

/-- A level-4 entry's rights and frame as a cached translation: of its 64 KiB page, or of the 2 MiB page that its group forms (R176, R177). -/
def leafEntry (ctx va e : Nat) : TlbEntry :=
  let frame := if bit e 7 then bits e 51 16 / 32 * 32 else bits e 51 16
  { ctx, va := if bit e 7 then va / 2 ^ 21 * 2 ^ 21 else va / 2 ^ 16 * 2 ^ 16, big := bit e 7, frame := frame * 65536, host := bit e 8
    r := bit e 2, w := bit e 3, x := bit e 4 }

/-- Reserved bits of a table entry (R176). -/
def entryReserved (e : Nat) : Bool := bits e 63 52 != 0 || bits e 15 9 != 0 || bits e 6 5 != 0

/-- Whether the group of 32 level-4 entries that holds entry e at index i is a 2 MiB page (R176). -/
def bigGroupOk (c : Chip) (table i e : Nat) : Bool :=
  let i0 := i / 32 * 32
  let f0 := bits (c.dev.le (table + 8 * i0) 8) 51 16
  decide (f0 % 32 = 0) &&
    (List.range 32).all fun k =>
      let g := c.dev.le (table + 8 * (i0 + k)) 8
      bit g 0 && bit g 7 && !bit g 1 && !entryReserved g && bits g 4 2 == bits e 4 2 && bit g 8 == bit e 8 &&
        bits g 51 16 == f0 + k

/-- Whether one of n device bytes has an uncorrectable error (R383). -/
def Chip.anyBadAt (c : Chip) (pa n : Nat) : Bool := (List.range n).any fun k => c.bad.get false (pa + k)

/-- Walk one table after another (R176): the index shifts of the levels still to go, the table, the address. A table in a range whose key is not
released fails with reason 5, lost table bytes with reason 4 (R377, R383). (DEDUCED, log 45.) -/
def walkFrom (c : Chip) (ctx va : Nat) : List Nat → Nat → Except XErr TlbEntry
  | [], _ => .error (.access 0)
  | sh :: rest, table =>
    let i := (va >>> sh) % (if sh = 46 then 2048 else 1024)
    if !c.exists (table + 8 * i) then .error (.access 0)
    else if c.isLocked (table + 8 * i) then .error (.access 5)
    else if c.anyBadAt (table + 8 * i) 8 then .error (.access 4)
    else
      let e := c.dev.le (table + 8 * i) 8
      if !bit e 0 then .error (.absent va)
      else if entryReserved e then .error (.access 0)
      else match rest with
        | [] =>
          if bit e 1 then .error (.access 0)
          else if bit e 7 && !bigGroupOk c table i e then .error (.access 0)
          else .ok (leafEntry ctx va e)
        | _ :: _ =>
          if !bit e 1 || bit e 7 || bit e 8 then .error (.access 0)
          else walkFrom c ctx va rest (bits e 51 16 * 65536)

/-- Addresses of the table entries that a walk reads, up to the first that leads no further (R176). -/
def walkReads (c : Chip) (va : Nat) : List Nat → Nat → List Nat
  | [], _ => []
  | sh :: rest, table =>
    let a := table + 8 * ((va >>> sh) % (if sh = 46 then 2048 else 1024))
    let e := c.dev.le a 8
    if bit e 0 && bit e 1 then a :: walkReads c va rest (bits e 51 16 * 65536)
    else if bit e 0 && bit e 7 then (List.range 32).map fun k => a / 256 * 256 + 8 * k
    else [a]

/-- Whether the walk of an address waits: a table entry that it reads lies in a row that is being copied (R381). -/
def Chip.walkHeld (c : Chip) (ctx va : Nat) : Bool :=
  !c.copying.isEmpty && c.inCopy ((walkReads c va [46, 36, 26, 16] (((c.ctx? ctx).map (·.level1)).getD 0)).map .dev)

/-- Walk the four tables of a context (R176). -/
def Chip.walk (c : Chip) (ctx va : Nat) : Except XErr TlbEntry :=
  match c.ctx? ctx with
  | none => .error (.access 0)
  | some x => if c.walkHeld ctx va then .error (.absent va) else walkFrom c ctx va [46, 36, 26, 16] x.level1

/-- Whether a cached translation serves an address (R177). -/
def TlbEntry.hits (t : TlbEntry) (ctx va : Nat) : Bool := t.ctx == ctx && t.va == va / t.size * t.size

/-- The translation of a page: from the core's L1 TLB, from its die's L2 TLB, or by a walk (R177). -/
def Chip.entry (c : Chip) (n ctx va : Nat) : Except XErr TlbEntry :=
  match (c.core n).tlb.find? fun t => t.hits ctx va with
  | some t => .ok t
  | none => match (c.tlb2.getD (c.die n) []).find? fun t => t.hits ctx va with
    | some t => .ok t
    | none => c.walk ctx va

/-- Checks on the device address that a translation gives: it exists, its memory key is released, its data is sound
(R366, R377, R383). -/
def Chip.checkDev (c : Chip) (need : Need) (pa : Nat) : Except XErr Loc :=
  if !c.exists pa then .error (.access 0)
  else if c.isLocked pa then .error (.access 5)
  else if (need.r || need.x) && c.bad.get false pa then .error (.access 4)
  else .ok (.dev pa)

/-- Translate one byte of a virtual address (R40, R43, R178). -/
def Chip.xlByte (c : Chip) (n ctx : Nat) (need : Need) (va : Nat) : Except XErr Loc :=
  if 2 ^ 56 ≤ va then .error (.access 0)
  else match (c.ctx? ctx).bind fun x => x.view? va with
    | some (v, base, kind) => c.checkDev need (v.at base kind va)
    | none => match c.entry n ctx va with
      | .error e => .error e
      | .ok t =>
        if (need.r && !t.r) || (need.w && !t.w) || (need.x && !t.x) then .error (.access 0)
        else
          let pa := t.frame + va % t.size
          if t.host then (if Config.linkLost c.fresh then .error (.access 4) else .ok (.host pa))
          else c.checkDev need pa

/-- Translate n bytes from an address on: one location a byte, or the first failure. An access fault of any byte comes
before a page that is not present (R178). -/
def Chip.xl (c : Chip) (core ctx : Nat) (need : Need) (va n : Nat) : Except XErr (List Loc) :=
  let rs := (List.range n).map fun k => c.xlByte core ctx need (va + k)
  match rs.findSome? fun r => match r with
      | .error (.access e) => some (XErr.access e)
      | _ => none with
  | some e => .error e
  | none => rs.mapM id

/-- Whether an engine's access to a byte of a range failed with the page that it waited for (R179). -/
def Chip.failedIn (c : Chip) (id va n : Nat) : Bool := c.failed.any fun x => x.1 == id && overlap x.2 65536 va n

/-- Translate the bytes of an engine's access, by the name under which it waits for pages: one that was reported unresolvable fails it with reason 3,
whatever the tables say by then (R179). -/
def Chip.xlFor (c : Chip) (id core ctx : Nat) (need : Need) (va n : Nat) : Except XErr (List Loc) :=
  if c.failedIn id va n then .error (.access 3) else c.xl core ctx need va n

/-- The 8 bytes of a clause header or an instruction word (R78, R81); they wait in a row that is being copied (R381). (DEDUCED, log 12.) -/
def Chip.fetchWord (c : Chip) (core ctx va : Nat) : Except XErr DWord :=
  match c.xl core ctx { x := true } va 8 with
  | .ok ls => if c.inCopy ls then .error (.absent va) else .ok (BitVec.ofNat 64 (ofLe (c.readLocs ls)))
  | .error e => .error e

/-- Whether the fetch of a word waits for a row that is being copied (R381). -/
def Chip.fetchHeld (c : Chip) (core ctx va : Nat) : Bool :=
  !c.copying.isEmpty && (c.walkHeld ctx va || match c.xl core ctx { x := true } va 8 with
    | .ok ls => c.inCopy ls
    | .error _ => false)

/-- The chip as reads that the model settles in one event see it, which wait for no row. (DESIGN CHOICE, log 99.) -/
def Chip.uncopied (c : Chip) : Chip := { c with copying := [] }

/-- Translation without cached entries: what the distributor reads goes through the page tables (R29, R335). (DEDUCED, log 62.) -/
def Chip.walkOnly (c : Chip) : Chip := { c.uncopied with cores := [], tlb2 := [] }

/-- Keep a translation in a TLB of sets of `ways` entries, the oldest of its set dropped first (R177). (DESIGN CHOICE, log 46.) -/
def tlbKeep (ts : List TlbEntry) (t : TlbEntry) (sets ways : Nat) : List TlbEntry :=
  let inSet := fun (x : TlbEntry) => x.va / x.size % sets == t.va / t.size % sets
  let drop := if (ts.filter inSet).length < ways then none else ts.find? inSet
  (match drop with
    | some x => ts.erase x
    | none => ts) ++ [t]

/-- Keep a translation in the core's fully associative L1 TLB of 96 entries and in the die's 8-way L2 TLB of 8,192 entries (R177). -/
def Chip.fillTlb (c : Chip) (n ctx va : Nat) : Chip :=
  if ((c.ctx? ctx).bind fun x => x.view? va).isSome then c
  else match c.entry n ctx va with
    | .error _ => c
    | .ok t =>
      let c := if (c.core n).tlb.any (·.hits ctx va) then c else c.modCore n fun k => { k with tlb := tlbKeep k.tlb t 1 96 }
      if (c.tlb2.getD (c.die n) []).any (·.hits ctx va) then c else { c with tlb2 := modAt c.tlb2 (c.die n) fun ts => tlbKeep ts t 1024 8 }

/-- Whether a cached translation maps a byte of a range; a length of 0 means the whole context. -/
def TlbEntry.within (t : TlbEntry) (lo len : Nat) : Bool := len == 0 || overlap lo len t.va t.size

/-- Drop the cached translations of a context that satisfy p. -/
def Chip.dropTlb (c : Chip) (ctx : Nat) (p : TlbEntry → Bool) : Chip :=
  let keep := fun (ts : List TlbEntry) => ts.filter fun t => !(t.ctx == ctx && p t)
  { c with cores := c.cores.map fun k => { k with tlb := keep k.tlb }, tlb2 := c.tlb2.map keep }

/-! ### Accesses to the capacity tier (R366 to R370) -/

/-- Device addresses, one in each element or page, that the 64 KiB of a virtual page map to: the elements of a view window one by one (R44), a page
of the tables at its first byte. -/
def Chip.pageMembers (c : Chip) (ctx va : Nat) : List Nat :=
  let step := match (c.ctx? ctx).bind fun x => x.view? va with
    | some (v, _, _) => v.es
    | none => 65536
  (List.range (65536 / step)).filterMap fun k => match c.walkOnly.xlByte 0 ctx {} (va + step * k) with
    | .ok (.dev pa) => some pa
    | _ => none

/-- Key of a member's access count: congruence group and member (R366, R368). -/
def countKey (fast pa : Nat) : Nat := 4 * (pa % fast / 65536) + pa / fast

/-- Keys of the members that hold some pages of a context. -/
def Chip.pageKeys (c : Chip) (ctx : Nat) (pages : List Nat) : List Nat := ((pages.flatMap (c.pageMembers ctx)).map (countKey c.fast)).eraseDups

/-- Slot of member m in a remap entry (R367). -/
def slotIn (e : BitVec 16) (m : Nat) : Nat := bits e.toNat (2 * m + 1) (2 * m)

/-- Whether a group holds part of a lay-by: it was pinned at provisioning (R160, R367). -/
def Plat.pinned (p : Plat) (g : Nat) : Bool := p.layby.any fun a => decide (a / 65536 ≤ g) && decide (g < a / 65536 + 32)

/-- Remap entry of a group (R367). -/
def Plat.entry (p : Plat) (g : Nat) : BitVec 16 := Sparse.get 0xE4 p.remap g ||| (if p.pinned g then 0x100 else 0)

/-- Note members that an access reaches which counts (R368). -/
def Chip.reach (c : Chip) (keys : List Nat) : Chip := { c with reached := c.reached ++ keys.filter fun k => !c.reached.contains k }

/-- Note the members that an access from outside a launch reaches; there are none without a capacity tier. -/
def Chip.reachLocs (c : Chip) (ls : List Loc) : Chip :=
  if c.cap = 0 then c
  else c.reach (ls.filterMap fun l => match l with
    | .dev pa => some (countKey c.fast pa)
    | _ => none).eraseDups

/-- A hint range once its launch accesses n bytes from an address on that lie in some members. -/
def HintRange.note (h : HintRange) (va n : Nat) (keys : List Nat) : HintRange :=
  if overlap h.base (65536 * h.len) va n then
    let new := keys.filter fun k => !h.members.contains k
    { h with bytes := h.bytes + n, members := h.members ++ new, slow := h.slow || !new.isEmpty }
  else h

/-- Note that a launch accesses n bytes of its context's space: in the ranges of its hint list that hold one of them, and in the members reached, but by an
access to a streaming range (R369, R370). -/
def Chip.touch (c : Chip) (launch va n : Nat) : Chip :=
  match c.launch? launch with
  | none => c
  | some l =>
    let pages := (List.range ((va % 65536 + n + 65535) / 65536)).map fun i => va / 65536 * 65536 + 65536 * i
    let keys := if c.cap = 0 then [] else c.pageKeys l.ctx pages
    let c := if l.hints.any fun h => h.hint == 1 && overlap h.base (65536 * h.len) va n then c else c.reach keys
    c.modLaunch launch fun l => { l with hints := l.hints.map fun h => h.note va n keys }

/-! ### Record queues in device memory (R325) -/

/-- Whether a record queue with control block at base and capacity 2^k has room. -/
def Chip.queueRoom (c : Chip) (base k : Nat) : Bool :=
  decide ((c.dev.le base 8 + 2 ^ 64 - c.dev.le (base + 8) 8) % 2 ^ 64 < 2 ^ k)

/-- Append a 32-byte record where there is room (R325). -/
def Chip.queueWrite (c : Chip) (base k rec : Nat) : Chip :=
  let w := c.dev.le base 8
  (c.devPut (base + 64 + 32 * (w % 2 ^ k)) 32 rec).devPut base 8 (w + 1)

/-- Append a record to a context's error queue, or count it as lost (R325). -/
def Chip.errAppend (c : Chip) (ctx rec : Nat) : Chip :=
  match c.ctx? ctx with
  | none => c
  | some x =>
    if c.queueRoom x.errBase x.errCap then c.queueWrite x.errBase x.errCap rec
    else c.devPut (x.errBase + 16) 8 (c.dev.le (x.errBase + 16) 8 + 1)

/-- A record in the layout of R212. -/
def record212 (kind cause slot thread core number clause addr : Nat) : Nat :=
  fld 192 addr + fld 128 clause + fld 64 number + fld 40 core + fld 36 thread + fld 30 slot + fld 8 cause + kind

/-- A record in R212's layout of which the spec names only some fields: slot, thread and clause are free values. (DESIGN CHOICE, log 44.) -/
def Chip.looseRecord (c : Chip) (ctx kind cause core number addr : Nat) : Chip :=
  let v := c.free
  let w := v.2.free
  w.2.errAppend ctx (record212 kind cause (bits v.1.toNat 5 0) (bits v.1.toNat 9 6) core number w.1.toNat addr)

/-- A control block with zero indices (R325, R352). -/
def controlBlock (k : Nat) : Nat := fld 192 k

/-! ### Page faults (R179) -/

/-- The record of a page fault. -/
def PFault.record (f : PFault) : Nat :=
  fld 192 f.page + fld 128 f.num + fld 40 f.core + fld 36 f.die + fld 35 (b01 f.engine) + fld 32 f.kind + 0x29

/-- Append the record of an outstanding fault where the queue has room (R179). -/
def Chip.appendFault (c : Chip) (ctx num : Nat) : Chip :=
  match c.ctx? ctx with
  | none => c
  | some x => match x.faults.find? fun f => f.num == num && !f.appended with
    | none => c
    | some f =>
      if c.queueRoom x.pfBase x.pfCap then
        (c.queueWrite x.pfBase x.pfCap f.record).modCtx ctx fun x =>
          { x with faults := x.faults.map fun g => if g.num = num then { g with appended := true } else g }
      else c

/-- The kind bits of a fault record: execute, write, read (R179). -/
def Need.code (n : Need) : Nat := 4 * b01 n.x + 2 * b01 n.w + b01 n.r

/-- Join the outstanding fault of an address's page or open a new one (R179): its number. Its record is appended where no older one still waits
for room. Core 0xFF is the fabric target, whose die the spec
does not name: a free value. -/
def Chip.openFault (c : Chip) (ctx va core : Nat) (engine : Bool) (need : Need) : Nat × Chip :=
  let page := va / 65536 * 65536
  match c.ctx? ctx with
  | none => (0, c)
  | some x => match x.faults.find? fun f => f.page == page with
    | some f => (f.num, c)
    | none =>
      let v := c.free
      let f : PFault := { num := x.nextFault, page, core, die := if core = 0xFF then v.1.toNat % 4 else c.die core, engine, kind := need.code }
      let c := (if core = 0xFF then v.2 else c).modCtx ctx fun x => { x with faults := x.faults ++ [f], nextFault := x.nextFault + 1 }
      (f.num, if x.faults.all (·.appended) then c.appendFault ctx f.num else c)

/-- Whether a fault is still outstanding. -/
def Chip.faultOpen (c : Chip) (ctx num : Nat) : Bool := ((c.ctx? ctx).map fun x => x.faults.any fun f => f.num == num).getD false

end Sys2Proof.Machine
end

