-- ==== Sys2Proof/Machine/Objects.lean ====
section
/-! DEFINITION. The three ties between engines: pennants (R12), timelines (R14) and barrier objects (R16, R17); and the
command journal and command timelines (R339, R340). -/

namespace Sys2Proof.Machine

/-! ### Pennants (R12) -/

/-- Pennant that a pennant-select bit chooses from the agent's header; none for code 15 (R12, R78). -/
def Exe.pennant (e : Exe) (ps : Bool) : Option Nat :=
  let k := if ps then bits e.hdr.toNat 39 36 else bits e.hdr.toNat 43 40
  if k < 12 then some k else none

/-- Whether raising the pennant would stall: its count is 63 (R12). -/
def Squad.pennantFull (q : Squad) : Option Nat → Bool
  | some k => decide (63 ≤ q.pennants.getD k 0)
  | none => false

/-- Raise a pennant (R12). -/
def Squad.raise (q : Squad) : Option Nat → Squad
  | some k => { q with pennants := modAt q.pennants k (· + 1) }
  | none => q

/-- Lower a pennant (R12). -/
def Squad.lower (q : Squad) : Option Nat → Squad
  | some k => { q with pennants := modAt q.pennants k (· - 1) }
  | none => q

/-! ### Timelines (R14) -/

/-- The largest number up to which every command has completed (R14). -/
def advance : Nat → Nat → List Nat → Nat
  | 0, done, _ => done
  | k + 1, done, fin => if fin.contains (done + 1) then advance k (done + 1) fin else done

/-- Complete command n of a slot; a failed one sets the sticky fault bit (R14). -/
def Slot.finish (s : Slot) (n : Nat) (failed : Bool) : Slot :=
  let fin := n :: s.finished
  let done := advance fin.length s.done fin
  { s with done, finished := fin.filter fun k => decide (done < k), fault := s.fault || failed }

/-- Number a command on a slot of a core (R14). -/
def Chip.number (c : Chip) (n slot : Nat) : Nat × Chip :=
  (((c.core n).slots.getD slot {}).issue + 1,
   c.modCore n fun k => { k with slots := modAt k.slots slot fun s => { s with issue := s.issue + 1 } })

/-- Complete a numbered command (R14). -/
def Chip.finish (c : Chip) (n slot num : Nat) (failed : Bool) : Chip :=
  c.modCore n fun k => { k with slots := modAt k.slots slot fun s => s.finish num failed }

/-- Whether a slot is handed to one of the squad's musters (R15). -/
def Chip.slotHeld (c : Chip) (q : Squad) (slot : Nat) : Bool :=
  ((c.core q.place.core).slots.getD slot {}).owners.any fun o => o.1 == q.launch && q.exe.mslots.contains (some o.2)

/-! ### Barrier objects (R16, R17) -/

/-- A barrier object's fields. -/
structure BarObj where
  excess : Bool
  remote : Bool
  gated : Bool
  pending : Int
  phase : Nat
  expected : Nat
  arrivals : Nat
  deriving DecidableEq, Repr

/-- Read the object from its 128 bits (R16). -/
def BarObj.read (x : Nat) : BarObj :=
  { excess := bit x 98, remote := bit x 97, gated := bit x 96, pending := signed 32 (bits x 95 64), phase := bits x 63 32
    expected := bits x 31 16, arrivals := bits x 15 0 }

/-- The object's 128 bits; reserved bits are written as zero (R16). -/
def BarObj.write (o : BarObj) : Nat :=
  fld 98 (b01 o.excess) + fld 97 (b01 o.remote) + fld 96 (b01 o.gated) + fld 64 (pattern 32 o.pending) +
    fld 32 (o.phase % 2 ^ 32) + fld 16 o.expected + o.arrivals

/-- Whether the object's phase is complete (R17). -/
def BarObj.complete (o : BarObj) : Bool := o.arrivals == o.expected && (!o.gated || o.pending == 0)

/-- The phase-completion check (R17). -/
def BarObj.check (o : BarObj) : BarObj := if o.complete then { o with phase := (o.phase + 1) % 2 ^ 32, arrivals := 0 } else o

/-- One update at the home: an addition to pending bytes, and an arrival (R17). (DEDUCED, log 49.) -/
def BarObj.update (o : BarObj) (arrive : Bool) (add : Int) : BarObj :=
  let o := { o with pending := signed 32 (pattern 32 (o.pending + add)) }
  if arrive then
    if o.arrivals = o.expected then { o with excess := true }
    else BarObj.check { o with arrivals := (o.arrivals + 1) % 2 ^ 16 }
  else o.check

/-- The object at its locations. -/
def Chip.barObj (c : Chip) (ls : List Loc) : BarObj := BarObj.read (ofLe (c.readLocs ls))

/-- The location of a muster's barrier object (R28). -/
def Chip.musterBar (c : Chip) (n : Nat) (launch muster : Nat) : Option Loc :=
  match c.launch? launch, c.muster? launch muster with
  | some l, some m => if m.barrier = 0 then none else (c.uncopied.xlByte n l.ctx {} m.barrier).toOption
  | _, _ => none

/-- Give every window whose muster's object lies at a location its new phase (R59). -/
def Chip.copyPhase (c : Chip) (l : Loc) (phase : Nat) : Chip :=
  { c with cores := c.cores.mapIdx fun n k =>
      { k with windows := k.windows.map fun w => if c.musterBar n w.launch w.muster = some l then { w with phase } else w } }

/-- Apply an update to the object at its locations; a completed phase reaches the windows' phase copies (R17, R59). -/
def Chip.updateObj (c : Chip) (ls : List Loc) (arrive : Bool) (add : Int) : Chip :=
  let o := c.barObj ls
  let o' := o.update arrive add
  let c := c.writeLocs ls (leBytes 16 o'.write)
  if o'.phase = o.phase then c else match ls with
    | l :: _ => c.copyPhase l o'.phase
    | [] => c

/-- An update that an engine or a signal makes, counted in the phase before it: every `bar.wait` that returns for that phase acquires what the
update follows, whatever its scope (R50). -/
def Chip.countObj (c : Chip) (ls : List Loc) (arrive : Bool) (add : Int) : Chip :=
  let e := (ls.headD (.host 0), (c.barObj ls).phase)
  { c.updateObj ls arrive add with counted := if c.counted.contains e then c.counted else c.counted ++ [e] }

/-- Count bytes down on a barrier object, if there is one (R238, R319). -/
def Chip.countDown (c : Chip) (ls : List Loc) (n : Nat) : Chip := if ls.isEmpty then c else c.countObj ls false (-(n : Int))

/-! ### Command journal and command timelines (R339, R340) -/

/-- Fields of a command record (R334). -/
def Cmd.typ (k : Cmd) : Nat := bits k.record 31 24
def Cmd.ctx (k : Cmd) : Nat := bits k.record 23 18
def Cmd.seq (k : Cmd) : Nat := bits k.record 63 32
def Cmd.sigTl (k : Cmd) : Nat := bits k.record 109 104
def Cmd.sigOk (k : Cmd) : Bool := bit k.record 110

/-- A journal entry (R340): state 0 accepted, 1 started, 2 completed, 3 failed. -/
def Cmd.journal (k : Cmd) (state cause detail : Nat) : Nat :=
  fld 448 detail + fld 384 k.number + fld 96 k.seq + fld 88 k.typ + fld 82 k.ctx + fld 76 k.queue + fld 70 k.sigTl +
    fld 8 cause + state

/-- Write a command's journal entry (R340). -/
def Chip.journalWrite (c : Chip) (k : Cmd) (state cause detail : Nat) : Chip :=
  c.devPut (c.journal + 64 + 64 * (k.entry % 2 ^ c.journalC)) 64 (k.journal state cause detail)

/-- Complete number n of a command timeline, remembering its earliest failure (R339). -/
def CmdTimeline.finish (t : CmdTimeline) (n cause : Nat) : CmdTimeline :=
  let fin := n :: t.finished
  let done := advance fin.length t.done fin
  let first := decide (cause ≠ 0) && (decide (t.failNo = 0) || decide (n < t.failNo))
  { t with
    done, finished := fin.filter fun k => decide (done < k)
    failNo := if first then n else t.failNo
    failCause := if first then cause else t.failCause }

/-- End a command: completed where cause is 0, failed otherwise (R339, R340). -/
def Chip.endCmd (c : Chip) (id cause detail : Nat) : Chip :=
  match c.cmds.find? fun k => k.id == id with
  | none => c
  | some k =>
    let c := c.journalWrite k (if cause = 0 then 2 else 3) cause detail
    { c with
      cmds := c.cmds.filter fun j => j.id != id
      timelines := if k.sigOk then modAt c.timelines k.sigTl fun t => t.finish k.number cause else c.timelines }

/-- Mark a command started (R339, R340). -/
def Chip.startCmd (c : Chip) (id : Nat) : Chip :=
  match c.cmds.find? fun k => k.id == id with
  | none => c
  | some k => { c.journalWrite k 1 0 0 with cmds := c.cmds.map fun j => if j.id = id then { j with started := true } else j }

end Sys2Proof.Machine
end

