-- ==== Sys2Proof/Machine/Teardown.lean ====
section
/-! DEFINITION. Context teardown (R353), which a command or a double trap (R351) asks for: exit records of what has not
retired (R37), the freeing of everything the context holds, and the closing of its exposure entries (R302). -/

namespace Sys2Proof.Machine

/-- The 128-bit exit record (R37). -/
def exitValue (scf : LaneMask) (number core bench slot status : Nat) : Nat :=
  fld 96 scf.toNat + fld 64 number + fld 40 core + fld 37 bench + fld 32 slot + status

/-- Write an exit record of a torn-down context (R37): at once where its page is present; a page that is not present makes it wait as EXIT_RECORD_WRITE
does; an access fault is reported and the record is not written. -/
def Chip.exitNow (c : Chip) (ctx core number addr v : Nat) : Chip :=
  match c.xl core ctx { w := true } addr 16 with
  | .ok ls => c.writeLocs ls (leBytes 16 v)
  | .error (.absent _) => { c with exitRecords := c.exitRecords ++ [{ id := c.nextId, ctx, core, addr, value := v, number }], nextId := c.nextId + 1 }
  | .error (.access _) => c.looseRecord ctx 0x2A 5 core number addr

/-- Lines of the L1 of every core that hold none of these device addresses. -/
def Chip.l1Drop (c : Chip) (p : L1Line → Bool) : Chip := { c with cores := c.cores.map fun k => { k with l1 := k.l1.filter fun x => !p x } }

/-- Exit records, with status 0x02, of the squads of a launch that have not retired (R353, step 3). A squad that holds no
bench slot has free place fields. (DESIGN CHOICE, log 64.) -/
def Chip.teardownExits (c : Chip) (l : Launch) : Chip :=
  let resident := c.squads.filter fun q => q.launch == l.id && !q.spawned
  let away := ((c.coreSets.flatMap fun s => s.squads).filter fun q => q.launch == l.id && !q.spawned).length
  let c := resident.foldl (fun c q =>
    c.exitNow l.ctx q.place.core l.number (l.exits + 16 * q.number)
      (exitValue q.scfMask q.number q.place.core q.place.bench q.place.slot 2)) c
  let rest := ((List.range l.squads).filter fun i => !l.dispatched.contains i)
  let c := rest.foldl (fun c i =>
    let r := c.free
    r.2.exitNow l.ctx 0 l.number (l.exits + 16 * i) (exitValue 0 i (bits r.1.toNat 7 0) (bits r.1.toNat 10 8) (bits r.1.toNat 15 11) 2)) c
  if away = 0 then c
  else ((c.coreSets.flatMap fun s => s.squads).filter fun q => q.launch == l.id && !q.spawned).foldl (fun c q =>
    match c.ctx? l.ctx with
    | none => c
    | some x =>
      let img := x.imgBase + 32768 * q.slot
      let r := c.free
      let i := c.dev.le (img + 8) 4
      r.2.exitNow l.ctx 0 l.number (l.exits + 16 * i)
        (exitValue (BitVec.ofNat 32 (c.dev.le (img + 12) 4)) i (bits r.1.toNat 7 0) (bits r.1.toNat 10 8) (bits r.1.toNat 15 11) 2)) c

/-- Forget a slot's owners from some launches. -/
def Slot.release (s : Slot) (p : Nat × Nat → Bool) : Slot := { s with owners := s.owners.filter fun o => !p o }

/-- A queue returned to Free (R217). -/
def Queue.freed (_ : Queue) : Queue := {}

/-- Free the accumulator banks and invalidate the owner word of a bench whose owner is the context (R264). -/
def Bench.forget (b : Bench) (x : Nat) : Bench :=
  if b.accValid && b.accCtx == x then
    { b with accValid := false, accCtx := 0, modes := List.replicate 16 .free, vals := [], keys := [], tables := [], drains := [], service := none }
  else b

/-- Merge bytes of a store into a write-combining entry, from a byte of its line on (R312). -/
def WcEntry.put (w : WcEntry) (req p : Nat) (bs : List Byte) : WcEntry :=
  let here := fun i => decide (p ≤ i) && decide (i < p + bs.length)
  { w with
    bytes := w.bytes.mapIdx fun i b => if here i then bs.getD (i - p) 0 else b
    mask := w.mask.mapIdx fun i b => b || here i
    stores := w.stores ++ [(req, p, bs)] }

/-- A write-combining entry without the stores of some requests: it holds what the others have merged (R353, step 4). -/
def WcEntry.without (w : WcEntry) (gone : Nat → Bool) : WcEntry :=
  (w.stores.filter fun x => !gone x.1).foldl (fun w x => w.put x.1 x.2.1 x.2.2)
    { w with bytes := List.replicate 128 0, mask := List.replicate 128 false, stores := [] }

/-- What runs on a core for a context stops and is discarded: quarry threads and start commands, hoist commands, write-combining entries (R353, steps
1 and 4). -/
def Core.halt (k : Core) (x : Nat) (uids reqs : List Nat) : Core :=
  { k with
    threads := k.threads.map fun t => t.filter fun t => t.exe.ctx != x
    starts := k.starts.filter fun s => s.ctx != x
    ends := k.ends.filter fun e => e.ctx != x
    hoists := k.hoists.filter fun h => h.ctx != x
    wc := (k.wc.map fun w => { w.without reqs.contains with ctxs := w.ctxs.filter (· != x), squads := w.squads.filter fun u => !uids.contains u }).filter
      fun w => !w.stores.isEmpty
    preempt := if k.preempt = some x then none else k.preempt }

/-- What a core holds for a context is freed: windows, timeline slots, bins, queues and cached lines (R353, step 6). -/
def Core.forget (k : Core) (x : Nat) (ls : List Nat) : Core :=
  { k with
    windows := k.windows.filter fun w => !ls.contains w.launch
    slots := k.slots.map fun s => s.release fun o => ls.contains o.1
    bins := k.bins.filter fun b => b.ctx != x
    queues := k.queues.map fun q => if q.state != .free && q.ctx == x then q.freed else q
    l1 := k.l1.filter fun l => l.ctx != x }

/-- Whether every exposure entry of a context is closed. -/
def Chip.exposClosed (c : Chip) (x : Nat) : Bool := c.fab.expo.all fun e => e.state == 0 || e.ctx != x

/-- Change an exposure entry's state: what arrives from then on falls in a later cycle (R331). -/
def Chip.setExpo (c : Chip) (i : Nat) (f : Expo → Expo) : Chip :=
  { c with fab := { c.fab with expo := modAt c.fab.expo i f, cycle := c.fab.cycle + 1 } }

/-- Answer the window commands that wait for an entry which is now closed (R302, R322): revokes complete, then the first
open opens the entry, and later opens find it open and complete with the sticky fault bit. -/
def Chip.settleWindows (c : Chip) (i : Nat) : Chip :=
  let ws := c.fab.wins.filter fun w => w.entry == i
  let c := { c with fab := { c.fab with wins := c.fab.wins.filter fun w => w.entry != i } }
  let c := (ws.filter fun w => !w.openIt).foldl (fun c w => c.finish w.core w.slot w.num false) c
  match ws.filter fun w => w.openIt with
  | [] => c
  | w :: rest =>
    let e : Expo :=
      { base := w.base, key := bits w.desc 15 0, size := bits w.desc 21 16, ctx := w.ctx, state := 1
        read := bit w.desc 22, write := bit w.desc 23, atomic := bit w.desc 24, reduce := bit w.desc 25, signal := bit w.desc 26 }
    let c := c.setExpo i fun _ => e
    rest.foldl (fun c w => c.finish w.core w.slot w.num true) (c.finish w.core w.slot w.num false)

/-- Close an exposure entry that is closing and has nothing in flight, and answer the commands that wait for it (R302). -/
def Chip.closeEntry (c : Chip) (i : Nat) : Chip :=
  let e := c.fab.expo.getD i {}
  if e.state = 2 ∧ e.inFlight = 0 then
    (c.setExpo i fun e => { e with state := 0 }).settleWindows i
  else c

/-- An open exposure entry begins to close (R302). -/
def Chip.beginClose (c : Chip) (i : Nat) : Chip :=
  (c.setExpo i fun e => if e.state = 1 then { e with state := 2 } else e).closeEntry i

/-- Whose turn it is once the squads named and the threads of a context have stopped. -/
def Chip.turnWithout (c : Chip) (mine : List Nat) (x : Nat) : Turn :=
  match c.turn with
  | some (.squad uid) => if mine.contains uid then none else c.turn
  | some (.thread n t) => if ((c.thread? n t).map fun t => t.exe.ctx == x).getD false then none else c.turn
  | none => none

/-- The fabric without the commands of a context; its packets abroad are answered and ignored. -/
def Fabric.halt (f : Fabric) (x : Nat) : Fabric :=
  { f with cmds := f.cmds.filter fun k => k.ctx != x, wins := f.wins.filter fun w => w.ctx != x }

/-- Steps 6 and 7 of a teardown: everything the context holds on cores and benches is freed, its cached translations are dropped, and its number is
free (R353). -/
def Chip.release (c : Chip) (x : Nat) (dying : List Nat) : Chip :=
  let c := { c with
    formed := c.formed.filter fun f => f.ctx != x
    ringRounds := c.ringRounds.filter fun r => !dying.contains r.1
    cores := c.cores.map fun (k : Core) => k.forget x dying
    benches := c.benches.map fun (b : Bench) => b.forget x
    fab := { c.fab with tlb := c.fab.tlb.filter fun t => t.ctx != x } }
  { c.dropTlb x fun _ => true with ctxs := modAt c.ctxs x fun _ => none }

/-- A teardown goes on (R353): once its exit records are written, the context's exposure entries are revoked; once every one is closed, what it holds
is freed and the command completes. -/
def Chip.settleTeardown (c : Chip) (x : Nat) : Chip :=
  match c.ctx? x with
  | none => c
  | some k => match k.closing with
    | none => c
    | some cmd =>
      if c.exitRecords.any fun e => e.ctx == x then c
      else
        let c := (List.range 256).foldl (fun c i => if (c.fab.expo.getD i {}).ctx = x then c.beginClose i else c) c
        if c.exposClosed x then (c.release x k.dying).endCmd cmd 0 0 else c

/-- Close an exposure entry that is closing and has nothing in flight; a teardown that waits for it goes on (R302, R353). -/
def Chip.settleExpo (c : Chip) (i : Nat) : Chip :=
  let e := c.fab.expo.getD i {}
  if e.state = 2 ∧ e.inFlight = 0 then (c.closeEntry i).settleTeardown e.ctx else c

/-- Revoke an exposure entry (R302). -/
def Chip.revokeExpo (c : Chip) (i : Nat) : Chip :=
  (c.setExpo i fun e => if e.state = 1 then { e with state := 2 } else e).settleExpo i

/-- Tear a context down (R353); `cmd` is the teardown command, 0 for a double trap (R351). -/
def Chip.teardown (c : Chip) (x cmd : Nat) : Chip :=
  match c.ctx? x with
  | none => c
  | some k =>
    if k.closing.isSome then c
    else
      let ls := (c.launches.filter fun l => l.ctx == x)
      let ids := ls.map (·.id)
      -- step 2: commands of the context that have not started, and started launches, fail
      let c := (c.cmds.filter fun j => j.ctx == x && j.id != cmd && (!j.started || ids.contains j.id)).foldl (fun c j => c.endCmd j.id 0x0B 0) c
      -- its page faults are dropped with the accesses that wait on them; retired squads whose exit record waits are among those of step 3
      let c := { c with exitRecords := c.exitRecords.filter fun e => e.ctx != x }.modCtx x fun k => { k with faults := [], closing := some cmd, dying := ids }
      -- step 3: exit records
      let c := ls.foldl (fun c l => c.teardownExits l) c
      -- steps 1 and 4: squads and threads stop, and what they have abroad or buffered is discarded
      let mine := (c.squads.filter fun q => q.exe.ctx == x).map (·.uid)
      let reqs := (c.requests.filter fun r => r.ctx == x).map (·.id)
      let c := { c with
        squads := c.squads.filter fun q => q.exe.ctx != x
        requests := c.requests.filter fun r => r.ctx != x
        updates := c.updates.filter fun u => u.ctx != x
        rings := c.rings.filter fun r => r.ctx != x
        launches := c.launches.filter fun l => l.ctx != x
        barInits := c.barInits.filter fun b => !ids.contains b.launch
        coreSets := c.coreSets.filter fun s => s.ctx != x
        moves := c.moves.filter fun m => !ids.contains m.launch
        asked := c.asked.filter fun a => a.2.1 != x
        fab := c.fab.halt x
        cores := c.cores.map fun (k : Core) => k.halt x mine reqs
        benches := c.benches.map fun (b : Bench) =>
          { b with landing := b.landing.filter (fun l => !mine.contains l.uid), drains := b.drains.filter fun d => d.ctx != x, service := b.service.filter fun u => !mine.contains u }
        turn := c.turnWithout mine x }
      -- steps 5 to 7
      c.settleTeardown x

end Sys2Proof.Machine
end

