-- ==== Sys2Proof/Machine/Ops.lean ====
section
/-! DEFINITION. Named operations on squads and threads: removing lanes and releasing burgees and ensigns (R23, R147, R148),
ending a clause (R25, R149), committing a region (R56), taking an exception (R153, R212) and the state that returning from
one leaves (R154), and the driver that runs one instruction for the agent whose turn it is. -/

namespace Sys2Proof.Machine

/-- How an instruction ends: its effect is done; it stalls and is tried again; it stalls in a local wait that the watchdog counts (R347), or for a
register (R159); the agent stays at it until something else ends it (an awaited access, an abort); it traps, with or without an earlier effect on the
machine. -/
inductive Res where
  | done (c : Chip)
  | stall (c : Chip)
  | wait (c : Chip)
  | pend (c : Chip) (regs : List Nat)
  | left (c : Chip)
  | trap (t : Trap)
  | trapIn (c : Chip) (t : Trap)

/-! ### Lanes -/

/-- State of a lane. -/
def Squad.state (q : Squad) (l : Nat) : LaneState := q.st.getD l .exited

/-- Whether a lane is in Burgee-wait or Ensign-wait. -/
def LaneState.waits : LaneState → Bool
  | .burgeeWait _ => true
  | .ensignWait _ => true
  | .eligible => false
  | .yielded => false
  | .exited => false

/-- Whether a lane has not exited. -/
def Squad.live (q : Squad) (l : Nat) : Bool := decide (l < 32) && q.state l != .exited

/-- The mask of non-exited lanes. -/
def Squad.liveMask (q : Squad) : LaneMask := maskOf q.live

/-- Change the state of the lanes of a mask. -/
def Squad.setStates (q : Squad) (m : LaneMask) (v : LaneState) : Squad := { q with st := q.st.mapIdx fun l s => if m.getLsbD l then v else s }

/-- Give the lanes of a mask a new header address and resume position; how they reach it (R80, R154). -/
def Squad.setPc (q : Squad) (m : LaneMask) (pc pos : Nat) (transfer resume : Bool) : Squad :=
  { q with
    lpc := q.lpc.mapIdx fun l a => if m.getLsbD l then pc else a
    resume := q.resume.mapIdx fun l a => if m.getLsbD l then pos else a
    byTransfer := if transfer then q.byTransfer ||| m else q.byTransfer &&& ~~~m
    byResume := if resume then q.byResume ||| m else q.byResume &&& ~~~m }

/-- Take lanes out of the active set (R25). -/
def Squad.leave (q : Squad) (m : LaneMask) : Squad := { q with exe := { q.exe with active := q.exe.active &&& ~~~m } }

/-- Lanes in Burgee-wait on b. -/
def Squad.waiting (q : Squad) (b : Nat) : LaneMask := maskOf fun l => q.state l == .burgeeWait b

/-- Test burgee b for completion and release it (R147). -/
def Squad.testBurgee (q : Squad) (b : Nat) : Squad :=
  let m := q.burgees.getD b 0
  if m ≠ 0 ∧ m &&& ~~~(q.waiting b) = 0 then { (q.setStates (q.waiting b) .eligible) with burgees := q.burgees.set b 0 } else q

/-- Lanes that wait on ensign k. -/
def Squad.signers (q : Squad) (k : Nat) : LaneMask := (q.ensigns.getD k {}).signed &&& maskOf fun l => q.state l == .ensignWait k

/-- Clear an ensign: its waiting lanes become Eligible (R150). -/
def Squad.clearEnsign (q : Squad) (k : Nat) : Squad := { (q.setStates (q.signers k) .eligible) with ensigns := q.ensigns.set k {} }

/-- Test whether an open ensign is armed, or cleared by an empty Set (R148). -/
def Squad.testEnsign (q : Squad) (k : Nat) : Squad :=
  let e := q.ensigns.getD k {}
  if e.isOpen then
    if e.set = 0 then q.clearEnsign k
    else if e.set &&& ~~~e.signed = 0 then { q with ensigns := q.ensigns.set k { e with armed := true } }
    else q
  else q

/-- Whether some live lane resumes inside the clause at an address. -/
def Squad.resumesAt (q : Squad) (h : Nat) : Bool := (List.range 32).any fun l => q.live l && q.byResume.getLsbD l && q.lpc.getD l 0 == h

/-- Handler mode clears when every trapping lane has returned or exited (R154); an ensign left by a trap in its continuation
clause clears then, where no lane resumes inside that clause (R149). -/
def Squad.testHandler (q : Squad) : Squad :=
  if q.trap.hmode && q.trap.left == 0 then
    let q := { q with trap := { q.trap with hmode := false } }
    match q.contLeft with
    | some k => if q.resumesAt (q.ensigns.getD k {}).cont then q else { (q.clearEnsign k) with contLeft := none }
    | none => q
  else q

/-- Remove lanes that exit or are switched off from every burgee and ensign, and release what that completes (R23). -/
def Squad.remove (q : Squad) (m : LaneMask) : Squad :=
  let q := { ((q.setStates m .exited).leave m) with
    burgees := q.burgees.map fun b => b &&& ~~~m
    ensigns := q.ensigns.map fun e => { e with set := e.set &&& ~~~m, signed := e.signed &&& ~~~m }
    trap := { q.trap with left := q.trap.left &&& ~~~m } }
  let q := (List.range 12).foldl Squad.testBurgee q
  let q := (List.range 4).foldl Squad.testEnsign q
  q.testHandler

/-- Switch lanes off for a scratch fault (R23, R171). -/
def Squad.switchOff (q : Squad) (m : LaneMask) : Squad := { (q.remove m) with scfMask := q.scfMask ||| m }

/-! ### Ending a clause -/

/-- The clause ends: the remaining active lanes go on to the next header, unused credits return, and an ensign whose
continuation clause held no collective instruction clears (R25, R149, R166), a new round of it that the clause has armed with it. (DESIGN CHOICE,
log 97.) -/
def Squad.endClause (q : Squad) : Squad :=
  let q := q.setPc q.exe.active q.exe.nextHdr 0 false false
  let q := { q with exe := { q.exe with active := 0, inClause := false }, credit := 0, creditRegs := 0 }
  match q.contEns with
  | some k =>
    let q := if (q.ensigns.getD k {}).armed then q.clearEnsign k else q
    { q with contEns := none, contLeft := none }
  | none => q

/-- An instruction of a squad is done: the next position, or the end of the clause (R25). -/
def Squad.advance (q : Squad) : Squad :=
  let q := { q with exe := { q.exe with pos := q.exe.pos + 1 }, stall := none }
  if q.exe.active = 0 ∨ q.exe.count < q.exe.pos then q.endClause else q

/-- The agent stalls: something else happens first. -/
def Chip.stallTurn (c : Chip) : Chip := { c with turn := none }

/-- A squad stalls at its instruction. -/
def Chip.stallSquad (c : Chip) (uid : Nat) (k : Stall) : Chip := (c.modSquad uid fun q => { q with stall := some k }).stallTurn

/-- An instruction of a squad is done. -/
def Chip.advance (c : Chip) (uid : Nat) : Chip :=
  let c := c.modSquad uid Squad.advance
  { c with turn := if ((c.squad? uid).map fun q => q.exe.inClause).getD false then c.turn else none }

/-! ### Stores and the region buffer -/

/-- The bytes of a cached line of which those at some device addresses are read anew. -/
def L1Line.take (x : L1Line) (pas : List Nat) (rd : Nat → Byte) : L1Line :=
  { x with bytes := (x.pas.zip x.bytes).map fun e => if pas.contains e.1 then rd e.1 else e.2 }

/-- Bring L1 in line with a store of a core: the addressed line takes the bytes that were written, every other line of the core that holds
any of them is dropped (R48). -/
def Core.l1Store (k : Core) (ctx va : Nat) (pas : List Nat) (rd : Nat → Byte) : Core :=
  { k with l1 := (k.l1.filter fun x => (x.ctx == ctx && x.va == va / 128 * 128) || !(x.pas.any pas.contains)).map fun x => x.take pas rd }

/-- Bring a core's L1 in line with the home at some locations (R48, R52). -/
def Chip.l1Sync (c : Chip) (n ctx va : Nat) (ls : List Loc) : Chip :=
  let pas := ls.filterMap Loc.devPa?
  if pas.isEmpty then c else c.modCore n fun k => k.l1Store ctx va pas fun p => c.dev.byte p

/-- Write bytes for an agent of a core: the home and the core's L1 change together (R48). -/
def Chip.writeAt (c : Chip) (n ctx va : Nat) (ls : List Loc) (bs : List Byte) : Chip := (c.writeLocs ls bs).l1Sync n ctx va ls

/-- Mark the scratch lines of locations as written (R172). -/
def Chip.markWritten (c : Chip) (ls : List Loc) : Chip :=
  ls.foldl (fun c l => match l with
    | .scr m off => c.modCore m fun k => { k with written := k.written.set false (off / 128) true }
    | _ => c) c

/-- Perform a store of a core at its locations (R48, R172). (DEDUCED, log 10.) -/
def Chip.storeAt (c : Chip) (n ctx va : Nat) (ls : List Loc) (bs : List Byte) : Chip := (c.writeAt n ctx va ls bs).markWritten ls

/-- Whether an access still has to be performed. -/
def Access.open_ (x : Access) : Bool :=
  match x.status with
  | .waiting => true
  | .faulted _ => true
  | _ => false

/-- Whether a lane of a mask took part in an arrival of the agent below a number that its object's home has not applied yet (R195). -/
def Chip.arriving (c : Chip) (a : Agent) (below : Nat) (m : LaneMask) : Bool :=
  c.updates.any fun u => u.uid.map Agent.squad == some a && decide (u.id < below) && u.lanes &&& m != 0

/-- Whether an access of a request is one of a lane of a mask. -/
def Request.by (r : Request) (x : Access) (m : LaneMask) : Bool := r.squadWide || m.getLsbD x.lane

/-- Whether a lane of a mask has an access or an arrival still to be performed that the agent issued below a number (R49). -/
def Chip.earlier (c : Chip) (a : Agent) (below : Nat) (m : LaneMask) : Bool :=
  (c.requests.any fun r => r.agent == a && decide (r.id < below) && r.accs.any fun x => x.open_ && r.by x m) || c.arriving a below m

/-- Whether an agent has a request or an arrival below a number in which a lane still has to be performed at one of these locations (R51, R52). -/
def Chip.earlierAt (c : Chip) (a : Agent) (below lane : Nat) (ls : List Loc) : Bool :=
  (c.requests.any fun r => r.agent == a && decide (r.id < below) && r.accs.any fun x => x.open_ && r.by x (laneBit lane) && x.locs.any ls.contains) ||
    c.updates.any fun u => u.uid.map Agent.squad == some a && decide (u.id < below) && u.lanes.getLsbD lane && u.locs.any ls.contains

/-- Whether stores of a region of the squad that has ended are still to be performed (R56). -/
def Chip.committing (c : Chip) (uid : Nat) : Bool := c.requests.any fun r => r.agent == .squad uid && r.commit

/-- Whether a region of the squad has still to end: one is open that holds stores, or stores of one that has ended are still to be performed (R56). -/
def Chip.regionHeld (c : Chip) (q : Squad) : Bool := (q.region.any fun r => !r.buf.isEmpty) || c.committing q.uid

/-- A buffered store of a region as a request of its own, which carries its scope, order and pennant (R56, R173). -/
def Chip.commitReq (c : Chip) (q : Squad) (id : Nat) (b : BufStore) : Request :=
  let size := (b.lanes.map fun x => x.2.2.length).headD 0
  let scratch := b.lanes.any fun x => x.2.2.any fun e => e.1.isScr
  { id, agent := .squad q.uid, ctx := q.exe.ctx, core := q.place.core, launch := q.launch, musters := q.exe.mslots.filterMap fun m => m
    kind := .store, size, scope := if scratch then min b.scope 1 else b.scope, order := b.order, pennant := b.pennant, commit := true, scratch
    accs := b.lanes.map fun x =>
      { lane := x.1, va := x.2.1, locs := x.2.2.map (·.1), data := x.2.2.map (·.2), elem := if scratch then 0 else c.elemOf q.exe.ctx x.2.1 size } }

/-- An open region ends: its buffered stores become requests, oldest first, and no region is open any more (R56). (DEDUCED, log 10.) -/
def Chip.commitRegion (c : Chip) (uid : Nat) : Chip :=
  match c.squad? uid with
  | none => c
  | some q => match q.region with
    | none => c
    | some r =>
      { c.setSquad { q with region := none } with
        requests := c.requests ++ r.buf.mapIdx fun i b => c.commitReq q (c.nextId + i) b, nextId := c.nextId + r.buf.length }

/-- An instruction that ends the open region first: it waits until the region's stores are performed (R56, R175). -/
def Chip.endRegion (c : Chip) (q : Squad) (fn : Chip → Res) : Res :=
  if c.regionHeld q then .stall (c.commitRegion q.uid) else fn (c.commitRegion q.uid)

/-! ### Taking an exception -/

/-- Save the latch entries of lanes that will resume inside the clause (R153, R154). (DEDUCED, log 26.) -/
def Squad.saveLatch (q : Squad) (m : LaneMask) : Squad :=
  { q with
    savedLatch := (lanesOf m).foldl (fun t l => (List.range 3).foldl (fun t k => t.set 0 (32 * k + l) (q.exe.latchVal k l)) t) q.savedLatch
    savedAt := q.savedAt.mapIdx fun l a => if m.getLsbD l then q.exe.latchAt else a }

/-- Forget the saved latch entries of lanes: they resume with the latch empty (R143, R174). -/
def Squad.dropLatch (q : Squad) (m : LaneMask) : Squad :=
  { q with savedAt := q.savedAt.mapIdx fun l a => if m.getLsbD l then [none, none, none] else a }

/-- TAKE_TRAP of R153 for a squad that has a handler and is not in one: which lanes trap, where they go, where the other
active lanes resume, and what the trap state holds. `atStart` says that the trap is taken at the clause start, `addr` is
`cw.trapaddr`. Lanes reach the handler's first header neither by a taken transfer nor by a resumption, so a header that fails there is an illegal
clause (R80). (DESIGN CHOICE, log 94.) -/
def Squad.takeTrap (q : Squad) (vec : Nat) (t : Trap) (atStart : Bool) (addr : Nat) : Squad :=
  let e := q.exe
  let lanes := t.lanes.getD e.active
  let stay := e.active &&& ~~~lanes
  let q := q.setPc lanes vec 0 false false
  let q := if e.pos < e.count then q.setPc stay e.hdrAt (e.pos + 1) false true else q.setPc stay e.nextHdr 0 false false
  let q := match q.contEns with
    | some k => { (q.setStates (q.signers k) .eligible) with contEns := none, contLeft := some k }
    | none => q
  { (q.saveLatch e.active) with
    trap :=
      { hmode := true, cause := t.cause, addr, mask := lanes, det := t.det, left := lanes
        hdr := e.hdr, hdrAt := e.hdrAt, pos := e.pos, atStart }
    exe := { q.exe with active := 0, inClause := false }
    credit := 0, creditRegs := 0, stall := none, waitTested := false, waitExpired := false, waitMet := none }

/-- A double trap, or a trap without a handler (R351): the squad stops, a record of kind 0x27 is appended, and the context
is torn down. -/
def Chip.doubleTrap (c : Chip) (q : Squad) (t : Trap) (addr : Nat) : Chip :=
  let c := c.setSquad { q with dead := true, exe := { q.exe with active := 0, inClause := false } }
  let c := c.errAppend q.exe.ctx (record212 0x27 t.cause q.place.slot q.place.bench q.place.core 0 q.exe.hdrAt addr)
  { (c.teardown q.exe.ctx 0) with turn := none }

/-- Take a trap for a squad: the one place where an exception is entered (R153, R351). -/
def Chip.takeTrap (c : Chip) (uid : Nat) (t : Trap) (atStart : Bool := false) (addr : Option Nat := none) : Chip :=
  match c.squad? uid with
  | none => c
  | some q =>
    let a := addr.getD (if atStart then q.exe.hdrAt else q.exe.wordAt)
    let vec := ((c.ctx? q.exe.ctx).map (·.trapvec)).getD 0
    if q.trap.hmode ∨ vec = 0 then c.doubleTrap q t a
    else { (c.setSquad (q.takeTrap vec t atStart a)) with turn := none }

/-! ### Quarry threads ending -/

/-- Whether an entry is Complete (R218). -/
def QEntry.complete (x : QEntry) : Bool := x.shut && x.out.isEmpty

/-- Queues that a thread feeds, and drains. -/
def Core.feeds (k : Core) (t : Nat) : List Nat := (List.range 16).filter fun q => let x := k.queues.getD q {}; x.state == .loadOpen && x.thread == t && !x.ended
def Core.drains (k : Core) (t : Nat) : List Nat :=
  (List.range 16).filter fun q => let x := k.queues.getD q {}; (x.state == .scatterOpen || x.state == .draining) && x.thread == t && !x.ended

/-- Close a load queue whose thread has exited once all its entries are Complete (R217). -/
def Queue.settle (q : Queue) : Queue :=
  if q.state == .loadOpen && q.ended && q.entries.all QEntry.complete then { q with state := .loadClosed } else q

/-- A load queue when its feeding thread exits (R217, R218): the Filling entry is closed. -/
def Queue.feederExits (q : Queue) : Queue := Queue.settle { q with ended := true, entries := q.entries.map fun x => { x with shut := true } }

/-- A load queue when its feeding thread faults (R212): the partly filled entry is discarded. -/
def Queue.feederFaults (q : Queue) : Queue := { q with state := .faulted, ended := true, entries := q.entries.filter fun x => x.shut }

/-- A scatter queue when its draining thread exits or faults (R212, R217). -/
def Queue.drainerEnds (q : Queue) : Queue := { q with state := .closed, ended := true, entries := [], readPos := 0 }

/-- A thread leaves: its start command now waits for R222. -/
def Chip.endThread (c : Chip) (n t : Nat) (fault : Bool) : Chip :=
  match c.thread? n t with
  | none => c
  | some th =>
    let k := c.core n
    let lost := (k.drains t).any fun q => !(k.queues.getD q {}).entries.isEmpty
    let c := (k.feeds t).foldl (fun c q => c.modQueue n q fun x => if fault then x.feederFaults else x.feederExits) c
    let c := (k.drains t).foldl (fun c q => c.modQueue n q Queue.drainerEnds) c
    let c := c.modCore n fun k =>
      { k with
        threads := modAt k.threads t fun _ => none
        ends := k.ends ++ [{ id := th.id, ctx := th.exe.ctx, slot := th.slot, num := th.num }]
        slots := modAt k.slots th.slot fun s => { s with fault := s.fault || fault || lost } }
    { c with turn := if c.turn = some (.thread n t) then none else c.turn }

/-- A quarry fault: the exception of a quarry thread, in the clause at a header address (R212). -/
def Chip.quarryFaultAt (c : Chip) (n t : Nat) (tr : Trap) (hdrAt : Nat) : Chip :=
  match c.thread? n t with
  | none => c
  | some th =>
    let addr := if tr.cause = 5 then tr.det % 2 ^ 57 else tr.va
    (c.endThread n t true).errAppend th.exe.ctx (record212 0x21 tr.cause th.slot t n th.num hdrAt addr)

/-- A quarry fault in the clause that the thread is in. -/
def Chip.quarryFault (c : Chip) (n t : Nat) (tr : Trap) : Chip := c.quarryFaultAt n t tr (((c.thread? n t).map fun th => th.exe.hdrAt).getD 0)

/-- An instruction of a quarry thread is done (R209, R25). -/
def Exe.advanceThread (e : Exe) : Exe :=
  let e := { e with pos := e.pos + 1 }
  if e.active = 0 then { e with inClause := false }
  else if e.count < e.pos then { e with inClause := false, hdrAt := e.nextHdr }
  else e

/-- An instruction of a quarry thread is done. -/
def Chip.advanceThread (c : Chip) (n t : Nat) : Chip :=
  let c := c.modThread n t fun th => { th with exe := th.exe.advanceThread, byTransfer := th.byTransfer && th.exe.active == 0, parked := false }
  { c with turn := if ((c.thread? n t).map fun th => th.exe.inClause).getD false then c.turn else none }

/-! ### Registers that are away (R159) -/

/-- Registers of a squad that are abroad, pending or in the landing buffer, and uniform registers that await a token (as
256 + k). -/
def Chip.busyRegs (c : Chip) (uid : Nat) : List Nat :=
  (c.requests.filter fun r => r.agent == .squad uid).flatMap (fun r => r.dstRegs ++ r.escort.map (·.1)) ++
    ((c.updates.filter fun u => u.uid == some uid).filterMap fun u => u.token.map fun t => 256 + t.toNat) ++
    (c.benches.flatMap fun b => b.landing.filter fun l => l.uid == uid).flatMap fun l => l.regs.map (·.1)

/-- Whether an instruction that names these registers stalls (R159). -/
def Chip.blocked (c : Chip) (uid : Nat) (uses : List Nat) : Bool := uses.any (c.busyRegs uid).contains

/-! ### Running one instruction -/

/-- Run an instruction for a squad: the clause class (R82), then the registers it names (R159), then its own checks and
effect. An instruction that waited on a page reported unresolvable has no effect (R179). -/
def Chip.runSquad (c : Chip) (q : Squad) (classes : List Nat) (uses : Exe → List Nat) (fn : Chip → Squad → Res) : Chip :=
  if !classes.contains q.exe.cls then c.takeTrap q.uid q.exe.illegalClause
  else if q.skip then (c.modSquad q.uid fun q => { q with skip := false }).advance q.uid
  else if q.awaiting.isSome || c.blocked q.uid (uses q.exe) then c.stallSquad q.uid (.registers (uses q.exe))
  else match fn c q with
    | .done c => c.advance q.uid
    | .stall c => c.stallSquad q.uid .other
    | .wait c => c.stallSquad q.uid .localWait
    | .pend c rs => c.stallSquad q.uid (.registers rs)
    | .left c => c.stallSquad q.uid .other
    | .trap t => c.takeTrap q.uid t
    | .trapIn c t => c.takeTrap q.uid t

/-- Run an instruction for a quarry thread (R209, R210). -/
def Chip.runThread (c : Chip) (n t : Nat) (th : QThread) (fn : Chip → QThread → Res) : Chip :=
  match fn c th with
  | .done c => c.advanceThread n t
  | .stall c => c.stallTurn
  | .wait c => (c.modThread n t fun th => { th with parked := true }).stallTurn
  | .pend c _ => c.stallTurn
  | .left c => c.stallTurn
  | .trap tr => c.quarryFault n t tr
  | .trapIn c tr => c.quarryFault n t tr

/-- The next state with a new chip. -/
def onChip (s : State) (c : Chip) : Host.Outcome State Fault Refusal := .next { s with chip := c }

/-- Run an instruction for whose turn it is: a squad's meaning and a quarry thread's meaning of it. -/
def onAgent (s : State) (fq : Chip → Squad → Chip) (ft : Chip → Nat → Nat → QThread → Chip) : Host.Outcome State Fault Refusal :=
  match s.chip.turn with
  | some (.squad uid) => match s.chip.squad? uid with
    | some q => if q.exe.inClause then onChip s (fq s.chip q) else .fault .notExecuting
    | none => .fault .notExecuting
  | some (.thread n t) => match s.chip.thread? n t with
    | some th => if th.exe.inClause then onChip s (ft s.chip n t th) else .fault .notExecuting
    | none => .fault .notExecuting
  | none => .fault .notExecuting

/-- A quarry thread meets an instruction that access clauses do not allow (R82, R210). -/
def Chip.threadIllegal (c : Chip) (n t : Nat) (th : QThread) : Chip := c.quarryFault n t th.exe.illegalClause

/-- An instruction of squads only. -/
def onSquad (s : State) (classes : List Nat) (uses : Exe → List Nat) (fn : Chip → Squad → Res) : Host.Outcome State Fault Refusal :=
  onAgent s (fun c q => c.runSquad q classes uses fn) Chip.threadIllegal

/-- A register effect as the effect of a squad's instruction. -/
def exeRes (fn : Exe → Except Trap Exe) (c : Chip) (q : Squad) : Res :=
  match fn q.exe with
  | .ok e => .done (c.setSquad { q with exe := e })
  | .error t => .trap t

/-- A register effect as the effect of a thread's instruction. -/
def exeResThread (fn : Exe → Except Trap Exe) (n t : Nat) (c : Chip) (th : QThread) : Res :=
  match fn th.exe with
  | .ok e => .done (c.modThread n t fun th => { th with exe := e })
  | .error tr => .trap tr

/-- An instruction of squads that only changes registers and flags. -/
def onRegs (s : State) (classes : List Nat) (uses : Exe → List Nat) (fn : Exe → Except Trap Exe) : Host.Outcome State Fault Refusal :=
  onSquad s classes uses (exeRes fn)

/-- A register instruction of squads and quarry threads (R102). -/
def onBoth (s : State) (uses : Exe → List Nat) (fn : Exe → Except Trap Exe) : Host.Outcome State Fault Refusal :=
  onAgent s (fun c q => c.runSquad q [0] uses (exeRes fn)) (fun c n t th => c.runThread n t th (exeResThread fn n t))

end Sys2Proof.Machine
end

