-- ==== Sys2Proof/Machine/IntegerOps.lean ====
section
/-! DEFINITION. The integer and address instructions, opcodes 0x000 to 0x0FF (R98 to R117), for squads and quarry threads. -/

namespace Sys2Proof.Machine

/-! ### Types (R98, R99) -/

/-- Width of a type in bits (R98). -/
def tyW : IntTy → Nat
  | .s8 | .z8 => 8
  | .s16 | .z16 => 16
  | .s32 | .z32 => 32
  | .s64 | .z64 => 64

/-- Whether a type is signed (R98). -/
def tyS : IntTy → Bool
  | .s8 | .s16 | .s32 | .s64 => true
  | .z8 | .z16 | .z32 | .z64 => false

/-- Whether a type is 64 bits wide, so that its operands are pairs (R98). -/
def tyWide (t : IntTy) : Bool := tyW t == 64

/-- VAL of R99: the low w bits of a source, signed or unsigned by type. -/
def VAL (t : IntTy) (x : Nat) : Int := if tyS t then signed (tyW t) x else ((x % 2 ^ tyW t : Nat) : Int)

/-- Smallest and largest value of a type (R68). -/
def tyMin (t : IntTy) : Int := if tyS t then -(2 ^ (tyW t - 1)) else 0
def tyMax (t : IntTy) : Int := if tyS t then 2 ^ (tyW t - 1) - 1 else 2 ^ tyW t - 1

/-- WRAP of R99: the value of the type congruent to y modulo 2^w. -/
def WRAP (y : Int) (t : IntTy) : Int := VAL t (pattern (tyW t) y)

/-- SAT of R67 on an integer. -/
def SAT (y : Int) (t : IntTy) : Int := if y < tyMin t then tyMin t else if tyMax t < y then tyMax t else y

/-- What PUT of R99 leaves in the register or the pair: sign- or zero-extended to 32 bits, or the 64-bit pattern. -/
def PUT (t : IntTy) (y : Int) : Nat := if tyWide t then pattern 64 y else pattern 32 y

/-- The result of R99: saturated or wrapped, as PUT leaves it. -/
def intResult (t : IntTy) (sat : Bool) (y : Int) : Nat := PUT t (if sat then SAT y t else WRAP y t)

/-- Operand use of instructions whose operands all take the type's width. -/
def use3 (t : IntTy) : RUse := { dst := .gen (tyWide t), a := .gen (tyWide t), b := .gen (tyWide t), c := .gen (tyWide t) }
def use2 (t : IntTy) : RUse := { dst := .gen (tyWide t), a := .gen (tyWide t), b := .gen (tyWide t) }
def use1 (t : IntTy) : RUse := { dst := .gen (tyWide t), a := .gen (tyWide t) }

/-- An integer instruction of R99: operand use, saturation, and the exact result of the entry. -/
def intOp (f : FormR) (u : RUse) (t : IntTy) (sat : Bool) (op : Int → Int → Int → Int) (s : State) :
    Host.Outcome State Fault Refusal :=
  onBoth s (fun _ => regsR f u) (Exe.runR f u fun a b c => intResult t sat (op (VAL t a) (VAL t b) (VAL t c)))

/-! ### Arithmetic (R104) -/

/-- `iadd`. -/
def execIadd (f : FormR) (t : IntTy) (sat : Bool) := intOp f (use2 t) t sat fun a b _ => a + b
/-- `isub`. -/
def execIsub (f : FormR) (t : IntTy) (sat : Bool) := intOp f (use2 t) t sat fun a b _ => a - b
/-- `imul`. -/
def execImul (f : FormR) (t : IntTy) (sat : Bool) := intOp f (use2 t) t sat fun a b _ => a * b
/-- `imulh`: floor of the product over 2^w. -/
def execImulh (f : FormR) (t : IntTy) := intOp f (use2 t) t false fun a b _ => (a * b) / 2 ^ tyW t
/-- `imad`. -/
def execImad (f : FormR) (t : IntTy) (sat : Bool) := intOp f (use3 t) t sat fun a b c => a * b + c
/-- `imin`. -/
def execImin (f : FormR) (t : IntTy) := intOp f (use2 t) t false fun a b _ => min a b
/-- `imax`. -/
def execImax (f : FormR) (t : IntTy) := intOp f (use2 t) t false fun a b _ => max a b
/-- `iabs`: a `.z` type returns a unchanged. -/
def execIabs (f : FormR) (t : IntTy) (sat : Bool) := intOp f (use1 t) t sat fun a _ _ => (a.natAbs : Int)
/-- `ineg`. -/
def execIneg (f : FormR) (t : IntTy) (sat : Bool) := intOp f (use1 t) t sat fun a _ _ => -a

/-! ### Logic (R105) -/

/-- A logic operation on the low w bits; signedness does not matter, so the operands are taken as patterns. -/
def bitOp (f : FormR) (u : RUse) (t : IntTy) (op : Nat → Nat → Nat → Nat) (s : State) : Host.Outcome State Fault Refusal :=
  onBoth s (fun _ => regsR f u) (Exe.runR f u fun a b c => PUT t (VAL t (op (a % 2 ^ tyW t) (b % 2 ^ tyW t) (c % 2 ^ tyW t))))

/-- `and`. -/
def execAnd (f : FormR) (t : IntTy) := bitOp f (use2 t) t fun a b _ => a &&& b
/-- `or`. -/
def execOr (f : FormR) (t : IntTy) := bitOp f (use2 t) t fun a b _ => a ||| b
/-- `xor`. -/
def execXor (f : FormR) (t : IntTy) := bitOp f (use2 t) t fun a b _ => a ^^^ b
/-- `andn`: a AND NOT b. -/
def execAndn (f : FormR) (t : IntTy) := bitOp f (use2 t) t fun a b _ => a &&& (2 ^ tyW t - 1 - b)
/-- `not`. -/
def execNot (f : FormR) (t : IntTy) := bitOp f (use1 t) t fun a _ _ => 2 ^ tyW t - 1 - a

/-! ### Shifts (R106, R107) -/

/-- Operand use of a shift: field B is a single register unless the count is immediate. -/
def useShift (t : IntTy) (imm : Bool) : RUse :=
  { dst := .gen (tyWide t), a := .gen (tyWide t), b := if imm then .unused else .gen false }

/-- A shift of R106: the count is bits 7:0 of B or the immediate. -/
def shiftOp (f : FormR) (t : IntTy) (imm : Bool) (cnt : BitVec 6) (op : Nat → Nat → Nat → Nat) (s : State) :
    Host.Outcome State Fault Refusal :=
  onBoth s (fun _ => regsR f (useShift t imm)) (Exe.runR f (useShift t imm) fun a b _ =>
    PUT t (VAL t (op (tyW t) (a % 2 ^ tyW t) (if imm then cnt.toNat else b % 256))))

/-- Left shift of a w-bit pattern. -/
def shlW (w a n : Nat) : Nat := if n < w then (a <<< n) % 2 ^ w else 0
/-- Logical right shift. -/
def shrW (w a n : Nat) : Nat := if n < w then a >>> n else 0
/-- Arithmetic right shift. -/
def sarW (w a n : Nat) : Nat := pattern w (signed w a / 2 ^ (min n w))
/-- Left rotation by n mod w. -/
def rotW (w a n : Nat) : Nat := ((a <<< (n % w)) % 2 ^ w) ||| (a >>> (w - n % w))

/-- `shl`. -/
def execShl (f : FormR) (t : IntTy) (imm : Bool) (cnt : BitVec 6) := shiftOp f t imm cnt shlW
/-- `shr`. -/
def execShr (f : FormR) (t : IntTy) (imm : Bool) (cnt : BitVec 6) := shiftOp f t imm cnt shrW
/-- `sar`. -/
def execSar (f : FormR) (t : IntTy) (imm : Bool) (cnt : BitVec 6) := shiftOp f t imm cnt sarW
/-- `rot`. -/
def execRot (f : FormR) (t : IntTy) (imm : Bool) (cnt : BitVec 6) := shiftOp f t imm cnt rotW

/-- Operand use of three single registers. -/
def useSingle3 : RUse := { dst := .gen false, a := .gen false, b := .gen false, c := .gen false }

/-- The funnel shift (R107). -/
def funnel (left : Bool) (a b c : Nat) : Nat :=
  let v := b * 2 ^ 32 + a
  let n := c % 64
  if left then ((v <<< n) % 2 ^ 64) >>> 32 else (v >>> n) % 2 ^ 32

/-- `shf`. -/
def execShf (f : FormR) (left : Bool) := fun (s : State) => onBoth s (fun _ => regsR f useSingle3) (Exe.runR f useSingle3 (funnel left))

/-! ### Bit counts and fields (R108 to R110) -/

/-- Number of set bits among the low w. -/
def popcW (w a : Nat) : Nat := ((List.range w).filter fun i => a.testBit i).length
/-- Number of leading zeros among the low w bits. -/
def clzW (w a : Nat) : Nat := if a % 2 ^ w = 0 then w else w - 1 - Nat.log2 (a % 2 ^ w)
/-- The low w bits in reverse order. -/
def brevW (w a : Nat) : Nat := (List.range w).foldl (fun r i => r + b01 (a.testBit i) * 2 ^ (w - 1 - i)) 0

/-- `popc`. -/
def execPopc (f : FormR) (t : IntTy) := bitOp f (use1 t) t fun a _ _ => popcW (tyW t) a
/-- `clz`. -/
def execClz (f : FormR) (t : IntTy) := bitOp f (use1 t) t fun a _ _ => clzW (tyW t) a
/-- `brev`. -/
def execBrev (f : FormR) (t : IntTy) := bitOp f (use1 t) t fun a _ _ => brevW (tyW t) a

/-- Operand use of `bfx`: position and length are single registers. -/
def useBfx (t : IntTy) : RUse := { dst := .gen (tyWide t), a := .gen (tyWide t), b := .gen false, c := .gen false }
/-- Operand use of `bfi`: position and length share a single register. -/
def useBfi (t : IntTy) : RUse := { dst := .gen (tyWide t), a := .gen (tyWide t), b := .gen (tyWide t), c := .gen false }

/-- Extract a field (R109). -/
def bfxW (t : IntTy) (a b c : Nat) : Int :=
  let w := tyW t
  let p := b % 256
  let q := c % 256
  if w ≤ p ∨ q = 0 then 0
  else
    let q := min q (w - p)
    let y := ((a % 2 ^ w) >>> p) % 2 ^ q
    if tyS t then signed q y else (y : Int)

/-- Insert a field (R109). -/
def bfiW (t : IntTy) (a b c : Nat) : Int :=
  let w := tyW t
  let p := c % 256
  let q := c / 256 % 256
  let b := b % 2 ^ w
  if w ≤ p ∨ q = 0 then (b : Int)
  else
    let q := min q (w - p)
    ((b % 2 ^ p + (a % 2 ^ q) * 2 ^ p + b / 2 ^ (p + q) * 2 ^ (p + q) : Nat) : Int)

/-- `bfx`. -/
def execBfx (f : FormR) (t : IntTy) := fun (s : State) =>
  onBoth s (fun _ => regsR f (useBfx t)) (Exe.runR f (useBfx t) fun a b c => PUT t (bfxW t a b c))
/-- `bfi`. -/
def execBfi (f : FormR) (t : IntTy) := fun (s : State) =>
  onBoth s (fun _ => regsR f (useBfi t)) (Exe.runR f (useBfi t) fun a b c => PUT t (bfiW t a b c))

/-- One byte of `perm` (R110). -/
def permByte (a b s : Nat) : Nat := if s < 8 then ((a + b * 2 ^ 32) >>> (8 * s)) % 256 else 0
/-- Byte permutation (R110). -/
def permW (a b c : Nat) : Nat := ofLe ((List.range 4).map fun i => BitVec.ofNat 8 (permByte a b (bits c (4 * i + 3) (4 * i))))

/-- `perm`. -/
def execPerm (f : FormR) := fun (s : State) => onBoth s (fun _ => regsR f useSingle3) (Exe.runR f useSingle3 permW)

/-! ### Compare, select, moves (R111 to R115) -/

/-- Operand use of `icmp`. -/
def useCmp (t : IntTy) : RUse := { dst := .other, a := .gen (tyWide t), b := .gen (tyWide t) }

/-- `icmp` (R111). -/
def execIcmp (f : FormR) (t : IntTy) (m : Comb) (cond : Cond) := fun (s : State) =>
  onBoth s (fun _ => regsR f (useCmp t)) (Exe.runFlag f (useCmp t) fun e l =>
    combine m (e.flag f.dst.toNat l) (intCond cond (VAL t (e.src (tyWide t) f.a l)) (VAL t (e.src (tyWide t) f.b l))))

/-- The lane-wise choice of `sel` (R112). -/
def Exe.runSel (f : FormR) (t : IntTy) (inv : Bool) (k : BitVec 3) (e : Exe) : Except Trap Exe := do
  e.chkR f (use2 t)
  return e.capture f (use2 t) (e.each (e.acting f.g) fun e' l =>
    e'.put (tyWide t) f.dst l (if (e.flag k.toNat l != inv) then e.src (tyWide t) f.a l else e.src (tyWide t) f.b l))

/-- `sel` (R112). -/
def execSel (f : FormR) (t : IntTy) (inv : Bool) (k : BitVec 3) := fun (s : State) =>
  onBoth s (fun _ => regsR f (use2 t)) (Exe.runSel f t inv k)

/-- Uniform registers that a uniform code names, as 256 + k. -/
def uniRegs (w : Bool) (code : Code) : List Nat :=
  if code.toNat < 0x40 then (if w then [256 + code.toNat, 257 + code.toNat] else [256 + code.toNat]) else []

/-- Operand use of `mov`: either side may be uniform (R113). -/
def useMov (t : IntTy) (du au : Bool) : RUse :=
  { dst := if du then .other else .gen (tyWide t), a := if au then .other else .gen (tyWide t) }

/-- The move of `mov` (R113). -/
def Exe.runMov (f : FormR) (t : IntTy) (du au : Bool) (e : Exe) : Except Trap Exe := do
  let w := tyWide t
  if du then e.chkUniDst 0 w f.dst else e.chkDst (.gen w) f.dst
  if au then e.chkUni 1 w f.a else e.chkSrc 1 (.gen w) f.a
  e.chkHold f (useMov t du au)
  let val := fun l => if au then e.uniVal w f.a else e.src w f.a l
  let act := e.acting f.g
  let e' := if du then (match lowestLane act with
      | some l => e.putUni w f.dst (val l)
      | none => e)
    else e.each act fun e' l => e'.put w f.dst l (val l)
  return e.capture f (useMov t du au) e'

/-- `mov` (R113). -/
def execMov (f : FormR) (t : IntTy) (du au : Bool) := fun (s : State) =>
  onBoth s (fun _ => regsR f (useMov t du au) ++ (if du then uniRegs (tyWide t) f.dst else []) ++ if au then uniRegs (tyWide t) f.a else [])
    (Exe.runMov f t du au)

/-- Register that `movx` and `movxw` address: base k and uniform index (R114). -/
def Exe.indexed (e : Exe) (w : Bool) (k b : Code) : Nat := if w then k.toNat + 2 * e.uniVal false b else k.toNat + e.uniVal false b

/-- Whether a code is a legal base register number (R114). -/
def baseOk (w : Bool) (k : Code) : Bool := decide (k.toNat < 0xF0) && (!w || decide (k.toNat % 2 = 0))

/-- Operand use of `movx` and `movxw`. -/
def useMovx (t : IntTy) : RUse := { dst := .gen (tyWide t), a := .other, b := .other }
def useMovxw (t : IntTy) : RUse := { dst := .other, a := .gen (tyWide t), b := .other }

/-- The indexed read of `movx` (R114). -/
def Exe.runMovx (f : FormR) (t : IntTy) (e : Exe) : Except Trap Exe := do
  let w := tyWide t
  e.chkDst (.gen w) f.dst
  if !baseOk w f.a then throw (e.operand 1)
  e.chkUni 2 false f.b
  e.chkHold f (useMovx t)
  let n := e.indexed w f.a f.b
  if !e.regOk w n then throw (e.operand 2)
  return e.each (e.acting f.g) fun e' l => e'.put w f.dst l (if w then e.regPair n l else (e.reg n l).toNat)

/-- The indexed write of `movxw` (R114). -/
def Exe.runMovxw (f : FormR) (t : IntTy) (e : Exe) : Except Trap Exe := do
  let w := tyWide t
  if !baseOk w f.dst then throw (e.operand 0)
  e.chkSrc 1 (.gen w) f.a
  e.chkUni 2 false f.b
  e.chkHold f (useMovxw t)
  let n := e.indexed w f.dst f.b
  if !e.regOk w n then throw (e.operand 2)
  return e.capture f (useMovxw t) (e.each (e.acting f.g) fun e' l =>
    let v := e.src w f.a l
    if w then (e'.setReg n l v).setReg (n + 1) l (v / 2 ^ 32) else e'.setReg n l v)

/-- Registers that `movx` and `movxw` name through the index (R159). -/
def Exe.indexedRegs (e : Exe) (w : Bool) (k b : Code) : List Nat :=
  let n := e.indexed w k b
  if w then [n, n + 1] else [n]

/-- `movx` (R114). -/
def execMovx (f : FormR) (t : IntTy) := fun (s : State) =>
  onBoth s (fun e => codeRegs (tyWide t) f.dst ++ uniRegs false f.b ++ e.indexedRegs (tyWide t) f.a f.b) (Exe.runMovx f t)
/-- `movxw` (R114). -/
def execMovxw (f : FormR) (t : IntTy) := fun (s : State) =>
  onBoth s (fun e => codeRegs (tyWide t) f.a ++ uniRegs false f.b ++ e.indexedRegs (tyWide t) f.dst f.b) (Exe.runMovxw f t)

/-- Operand use of `lea`: pairs D and A, a single index. -/
def useLea : RUse := { dst := .gen true, a := .gen true, b := .gen false }

/-- `lea` (R115). -/
def execLea (f : FormR) (t : IntTy) (sh : BitVec 3) := fun (s : State) =>
  onBoth s (fun _ => regsR f useLea) (Exe.runR f useLea fun a b _ => pattern 64 ((a : Int) + VAL t b * 2 ^ sh.toNat))

/-! ### Immediate forms (R103, R116) -/

/-- The immediate at the width of the form: sign-extended to 64 bits where Ext is set (R103). -/
def immVal (w64 : Bool) (imm : BitVec 32) : Nat := if w64 then pattern 64 imm.toInt else imm.toNat

/-- An I-form instruction: D ← op(A, Imm32), wrapped (R103). -/
def Exe.runI (f : FormI) (w64 useA : Bool) (op : Nat → Nat → Nat) (e : Exe) : Except Trap Exe := do
  e.chkDst (.gen w64) f.dst
  if useA then e.chkSrc 1 (.gen w64) f.a
  return e.each (e.acting f.g) fun e' l =>
    e'.put w64 f.dst l (op (if useA then e.src w64 f.a l else 0) (immVal w64 f.imm) % (if w64 then 2 ^ 64 else 2 ^ 32))

/-- Registers of an I-form instruction. -/
def regsI (f : FormI) (w64 useA : Bool) : List Nat := codeRegs w64 f.dst ++ (if useA then codeRegs w64 f.a else [])

/-- An I-form instruction. -/
def immOp (f : FormI) (w64 useA : Bool) (op : Nat → Nat → Nat) (s : State) : Host.Outcome State Fault Refusal :=
  onBoth s (fun _ => regsI f w64 useA) (Exe.runI f w64 useA op)

/-- `movi`. -/
def execMovi (f : FormI) (w64 : Bool) := immOp f w64 false fun _ i => i
/-- `iadd` with an immediate. -/
def execIaddImm (f : FormI) (w64 : Bool) := immOp f w64 true fun a i => a + i
/-- `imul` with an immediate. -/
def execImulImm (f : FormI) (w64 : Bool) := immOp f w64 true fun a i => a * i
/-- `and` with an immediate. -/
def execAndImm (f : FormI) (w64 : Bool) := immOp f w64 true fun a i => a &&& i
/-- `or` with an immediate. -/
def execOrImm (f : FormI) (w64 : Bool) := immOp f w64 true fun a i => a ||| i
/-- `xor` with an immediate. -/
def execXorImm (f : FormI) (w64 : Bool) := immOp f w64 true fun a i => a ^^^ i

end Sys2Proof.Machine
end

