-- ==== Sys2Proof/Machine/FloatOps.lean ====
section
/-! DEFINITION. The float and conversion instructions, opcodes 0x100 to 0x17F (R118 to R130). Values are FP32 encodings unless
a format field says otherwise. -/

namespace Sys2Proof.Machine

/-- Operand uses with single registers. -/
def useF1 : RUse := { dst := .gen false, a := .gen false }
def useF2 : RUse := { dst := .gen false, a := .gen false, b := .gen false }
def useF3 : RUse := useSingle3

/-- A float instruction on single registers, lane by lane (R119). -/
def floatOp (f : FormR) (u : RUse) (op : Nat → Nat → Nat → Nat) (s : State) : Host.Outcome State Fault Refusal :=
  onRegs s [0] (fun _ => regsR f u) (Exe.runR f u op)

/-! ### Arithmetic (R120, R121) -/

/-- `fadd`. -/
def execFadd (f : FormR) (r : Rnd) := floatOp f useF2 fun a b _ => ROUND (fAdd (val32 a) (val32 b) r) .f32 r
/-- `fsub`. -/
def execFsub (f : FormR) (r : Rnd) := floatOp f useF2 fun a b _ => ROUND (fAdd (val32 a) (fNeg (val32 b)) r) .f32 r
/-- `fmul`. -/
def execFmul (f : FormR) (r : Rnd) := floatOp f useF2 fun a b _ => ROUND (fMul (val32 a) (val32 b)) .f32 r
/-- `ffma`: one rounding of the exact a × b + c. -/
def execFfma (f : FormR) (r : Rnd) := floatOp f useF3 fun a b c => ROUND (fFma (val32 a) (val32 b) (val32 c) r) .f32 r
/-- `fmin`. -/
def execFmin (f : FormR) := floatOp f useF2 fun a b _ => fMinMax false a b
/-- `fmax`. -/
def execFmax (f : FormR) := floatOp f useF2 fun a b _ => fMinMax true a b

/-- Operand use of `fcmp` and `fcls`. -/
def useFcmp : RUse := { dst := .other, a := .gen false, b := .gen false }
def useFcls : RUse := { dst := .other, a := .gen false }

/-- `fcmp` (R122). -/
def execFcmp (f : FormR) (m : Comb) (cond : FCond) := fun (s : State) =>
  onRegs s [0] (fun _ => regsR f useFcmp) (Exe.runFlag f useFcmp fun e l =>
    combine m (e.flag f.dst.toNat l) (floatCond cond (e.src false f.a l) (e.src false f.b l)))

/-! ### Reciprocals, roots, approximations (R123, R124) -/

/-- `frcp`. -/
def execFrcp (f : FormR) (r : Rnd) := floatOp f useF1 fun a _ _ => ROUND (fRcp (val32 a)) .f32 r
/-- `frsq`. -/
def execFrsq (f : FormR) (r : Rnd) := floatOp f useF1 fun a _ _ => ROUND (fRsq (val32 a)) .f32 r
/-- `fsqrt`. -/
def execFsqrt (f : FormR) (r : Rnd) := floatOp f useF1 fun a _ _ => ROUND (fSqrt (val32 a)) .f32 r
/-- `fex2`. -/
def execFex2 (f : FormR) := floatOp f useF1 fun a _ _ => fex2W a
/-- `flg2`. -/
def execFlg2 (f : FormR) := floatOp f useF1 fun a _ _ => flg2W a
/-- `fsin`. -/
def execFsin (f : FormR) := floatOp f useF1 fun a _ _ => fsinW a
/-- `fcos`. -/
def execFcos (f : FormR) := floatOp f useF1 fun a _ _ => fcosW a

/-! ### Conversions (R125 to R129) -/

/-- Element el of a packed register in a format (R68, R118). -/
def element (sf : Fmt) (x el : Nat) : Nat := (x >>> (sf.width * el)) % 2 ^ sf.width

/-- `frnd`. -/
def execFrnd (f : FormR) (r : Rnd) := floatOp f useF1 fun a _ _ => fRound (val32 a) r
/-- `fcvt`: an infinity or a large value goes to the largest finite value in E4M3 (R66). -/
def execFcvt (f : FormR) (df : Fmt) (r : Rnd) (sf : Fmt) (el : BitVec 2) :=
  floatOp f useF1 fun a _ _ => ROUND (unpack sf (element sf a el.toNat)) df r

/-- `fcls` (R126). -/
def execFcls (f : FormR) (sf : Fmt) (mask : BitVec 9) := fun (s : State) =>
  onRegs s [0] (fun _ => regsR f useFcls) (Exe.runFlag f useFcls fun e l =>
    mask.getLsbD (fClass sf (element sf (e.src false f.a l) 0)))

/-- SAT of R67 on a value already rounded to an integer. -/
def SATF (x : FVal) (t : IntTy) (r : Rnd) : Int :=
  match x with
  | .nan => 0
  | .inf s => if s then tyMin t else tyMax t
  | x => SAT ((fToInt x r).getD 0) t

/-- Operand uses of `f2i` and `i2f`: the integer side is a pair for a 64-bit type. -/
def useF2i (t : IntTy) : RUse := { dst := .gen (tyWide t), a := .gen false }
def useI2f (t : IntTy) : RUse := { dst := .gen false, a := .gen (tyWide t) }

/-- `f2i` (R128). -/
def execF2i (f : FormR) (t : IntTy) (r : Rnd) (sf : Fmt) (el : BitVec 2) :=
  floatOp f (useF2i t) fun a _ _ => PUT t (SATF (unpack sf (element sf a el.toNat)) t r)
/-- `i2f` (R129). -/
def execI2f (f : FormR) (df : Fmt) (r : Rnd) (t : IntTy) := floatOp f (useI2f t) fun a _ _ => ROUND (fOfInt (VAL t a)) df r

/-! ### Packed arithmetic (R130) -/

/-- Two packed results of an operation on the elements of three registers. -/
def packed (m : Fmt) (op : FVal → FVal → FVal → Nat) (a b c : Nat) : Nat :=
  let one := fun el => op (unpack m (element m a el)) (unpack m (element m b el)) (unpack m (element m c el))
  one 0 + 2 ^ 16 * one 1

/-- `hadd2`. -/
def execHadd2 (f : FormR) (m : Fmt) (r : Rnd) := floatOp f useF2 (packed m fun a b _ => ROUND (fAdd a b r) m r)
/-- `hmul2`. -/
def execHmul2 (f : FormR) (m : Fmt) (r : Rnd) := floatOp f useF2 (packed m fun a b _ => ROUND (fMul a b) m r)
/-- `hfma2`. -/
def execHfma2 (f : FormR) (m : Fmt) (r : Rnd) := floatOp f useF3 (packed m fun a b c => ROUND (fFma a b c r) m r)

end Sys2Proof.Machine
end

