-- ==== Sys2Proof/Machine/CrossLane.lean ====
section
/-! DEFINITION. The cross-lane and flag instructions, opcodes 0x180 to 0x184 (R131 to R136). -/

namespace Sys2Proof.Machine

/-- Value that source lane j supplies to a cross-lane read: its register where the lane is live, zero where it has exited (R131). For a latch code a
live lane supplies its latch word, 0 where it has captured none in this clause, though it is not active. (DESIGN CHOICE, log 94.) -/
def Squad.supplied (q : Squad) (w64 : Bool) (code : Code) (j : Nat) : Nat := if q.live j then q.exe.src w64 code j else 0

/-- Operand use of `shfl`: the lane operand is uniform in bcast mode. -/
def useShfl (w64 : Bool) (mode : ShMode) : RUse :=
  { dst := .gen w64, a := .gen w64, b := if mode = .bcast then .other else .gen false, c := .gen w64 }

/-- Source lane of `shfl`; none where out of range (R132). -/
def shflLane (mode : ShMode) (l b : Nat) : Option Nat :=
  let j := match mode with
    | .idx => some b
    | .up => if l < b then none else some (l - b)
    | .down => some (l + b)
    | .xor => some (l ^^^ b)
    | .bcast => some b
  j.filter fun j => decide (j < 32)

/-- The register effect of `shfl` (R132). Every source is read before any destination is written. -/
def Squad.runShfl (f : FormR) (w64 : Bool) (mode : ShMode) (q : Squad) : Except Trap Exe := do
  let e := q.exe
  let u := useShfl w64 mode
  e.chkDst u.dst f.dst
  e.chkSrc 1 u.a f.a
  if mode = .bcast then e.chkUni 2 false f.b else e.chkSrc 2 u.b f.b
  e.chkSrc 3 u.c f.c
  e.chkHold f u
  return e.capture f u (e.each (e.acting f.g) fun e' l =>
    e'.put w64 f.dst l (match shflLane mode l (if mode = .bcast then e.uniVal false f.b else e.src false f.b l) with
      | some j => q.supplied w64 f.a j
      | none => e.src w64 f.c l))

/-- `shfl`. -/
def execShfl (f : FormR) (w64 : Bool) (mode : ShMode) := fun (s : State) =>
  onSquad s [0] (fun _ => regsR f (useShfl w64 mode) ++ if mode = .bcast then uniRegs false f.b else []) fun c q =>
    match q.runShfl f w64 mode with
    | .ok e => .done (c.setSquad { q with exe := e })
    | .error t => .trap t

/-- The effect of `vote` (R133). -/
def Exe.runVote (f : FormR) (mode : VoteMode) (inv : Bool) (k : BitVec 3) (e : Exe) : Except Trap Exe := do
  if mode = .bal then e.chkDst (.gen false) f.dst else (if flagOk f.dst then .ok () else .error (e.operand 0))
  e.chkHold f {}
  let g := e.acting f.g
  let pred := fun l => e.flag k.toNat l != inv
  return e.each g fun e' l => match mode with
    | .any => e'.setFlag f.dst.toNat l ((lanesOf g).any pred)
    | .all => e'.setFlag f.dst.toNat l ((lanesOf g).all pred)
    | .bal => e'.put false f.dst l (maskOf fun m => g.getLsbD m && pred m).toNat

/-- `vote`. -/
def execVote (f : FormR) (mode : VoteMode) (inv : Bool) (k : BitVec 3) := fun (s : State) =>
  onRegs s [0] (fun _ => if mode = .bal then codeRegs false f.dst else []) (Exe.runVote f mode inv k)

/-- An FP32 result, the default NaN where it is a NaN (R63). -/
def canon32 (v : Nat) : Nat := if (val32 v).isNaN then Fmt.defaultNaN .f32 else v

/-- The reduction of `lred` over the values of the contributing lanes (R134). -/
def lredVal (t : IntTy) (op : LredOp) (vs : List Nat) : Nat :=
  let w := tyW t
  match op with
  | .add => PUT t (VAL t (vs.foldl (fun a b => (a + b) % 2 ^ w) 0))
  | .min => PUT t ((vs.map (VAL t)).foldl min (tyMax t))
  | .max => PUT t ((vs.map (VAL t)).foldl max (tyMin t))
  | .and => vs.foldl (fun a b => a &&& b) (2 ^ w - 1)
  | .or => vs.foldl (fun a b => a ||| b) 0
  | .xor => vs.foldl (fun a b => a ^^^ b) 0
  | .fadd => canon32 (TREE vs)

/-- The effect of `lred`. -/
def Exe.runLred (f : FormR) (t : IntTy) (op : LredOp) (e : Exe) : Except Trap Exe := do
  e.chkR f (use1 t)
  let g := e.acting f.g
  return e.capture f (use1 t) (e.each g fun e' l =>
    e'.put (tyWide t) f.dst l (lredVal t op ((lanesOf g).map fun m => e.src (tyWide t) f.a m)))

/-- `lred`. -/
def execLred (f : FormR) (t : IntTy) (op : LredOp) := fun (s : State) =>
  onRegs s [0] (fun _ => regsR f (use1 t)) (Exe.runLred f t op)

/-- Operand use of `match`. -/
def useMatch (w64 : Bool) : RUse := { dst := .gen false, a := .gen w64 }

/-- The effect of `match` (R135). -/
def Exe.runMatch (f : FormR) (w64 : Bool) (e : Exe) : Except Trap Exe := do
  e.chkR f (useMatch w64)
  let g := e.acting f.g
  return e.capture f (useMatch w64) (e.each g fun e' l =>
    e'.put false f.dst l (maskOf fun m => g.getLsbD m && e.src w64 f.a m == e.src w64 f.a l).toNat)

/-- `match`. -/
def execMatchLanes (f : FormR) (w64 : Bool) := fun (s : State) =>
  onRegs s [0] (fun _ => regsR f (useMatch w64)) (Exe.runMatch f w64)

/-- Operand use of `flg`: direction 1 reads A, direction 0 writes D (R136). -/
def useFlg (wr : Bool) : RUse := if wr then { a := .gen false } else { dst := .gen false }

/-- Flags of a lane, f0 in bit 0, f7 reading 1 (R136). -/
def Exe.flagByte (e : Exe) (l : Nat) : Nat := ((List.range 8).map fun k => b01 (e.flag k l) * 2 ^ k).sum

/-- The effect of `flg`. -/
def Exe.runFlg (f : FormR) (wr : Bool) (e : Exe) : Except Trap Exe := do
  e.chkR f (useFlg wr)
  return e.capture f (useFlg wr) (e.each (e.acting f.g) fun e' l =>
    if wr then (List.range 7).foldl (fun e'' k => e''.setFlag k l ((e.src false f.a l).testBit k)) e'
    else e'.put false f.dst l (e.flagByte l))

/-- `flg`. -/
def execFlg (f : FormR) (wr : Bool) := fun (s : State) => onRegs s [0] (fun _ => regsR f (useFlg wr)) (Exe.runFlg f wr)

end Sys2Proof.Machine
end

