-- ==== Sys2Proof/Machine/Packets.lean ====
section
/-! DEFINITION. Fabric addresses and request packets: FXLATE (R299), routes (R296), building and numbering packets (R303 to
R305), and the write-combining buffer (R312). -/

namespace Sys2Proof.Machine

/-- A number read through a context's page tables. -/
def Chip.readVirtual (c : Chip) (core ctx va n : Nat) : Except XErr Nat :=
  (c.xl core ctx { r := true } va n).map fun ls => ofLe (c.readLocs ls)

/-- The peer entry and the window entry of a fabric address: cached in the die, or read through the page tables (R299). -/
def Chip.fabEntries (c : Chip) (core ctx fa : Nat) : Except XErr (Nat × Nat) :=
  let peerNo := bits fa 55 46
  let win := bits fa 45 40
  match c.fab.tlb.find? fun t => t.die == c.die core && t.ctx == ctx && t.peer == peerNo && t.win == win with
  | some t => .ok (t.pe, t.we)
  | none => do
    let table := ((c.ctx? ctx).map (·.peer)).getD 0
    let pe ← c.readVirtual core ctx (table + 8 * peerNo) 8
    if !bit pe 63 || bits pe 62 59 != 0 || bits pe 8 0 != 0 then throw (.access 0)
    let we ← c.readVirtual core ctx (bits pe 48 9 * 512 + 8 * win) 8
    let sz := bits we 31 26
    if !bit we 63 || bits we 62 56 != 0 || bits we 25 0 != 0 || sz < 12 || 40 < sz then throw (.access 0)
    return (pe, we)

/-- FXLATE of R299: a failure is a page that is not present or an access fault. -/
def Chip.fxlate (c : Chip) (core ctx fa size : Nat) : Except XErr FabAddr := do
  let e ← c.fabEntries core ctx fa
  let off := bits fa 39 0
  if 2 ^ bits e.2 31 26 < off + size then throw (.access 0)
  return { peer := bits fa 55 46, node := bits e.1 58 49, index := bits e.2 55 48, key := bits e.2 47 32, off }

/-- Keep a fabric translation in the die (R299). -/
def Chip.fillFab (c : Chip) (core ctx fa : Nat) : Chip :=
  match c.fabEntries core ctx fa with
  | .error _ => c
  | .ok (pe, we) =>
    let t : FabTlb := { die := c.die core, ctx, peer := bits fa 55 46, win := bits fa 45 40, pe, we }
    if c.fab.tlb.contains t then c else { c with fab := { c.fab with tlb := c.fab.tlb ++ [t] } }

/-- Route entry of a node (R296). -/
def Fabric.route (f : Fabric) (node : Nat) : Nat := (Sparse.get 0 f.routes node).toNat

/-- Whether the route entry of a node is valid; a device of no group reaches not even itself (R295, R297). -/
def Fabric.reaches (f : Fabric) (node : Nat) : Bool := bit (f.route node) 31

/-- Ports of the route entry of a node, ascending (R296). -/
def Fabric.routePorts (f : Fabric) (node : Nat) : List Nat := (List.range 20).filter fun p => bit (f.route node) p

/-- Whether a packet for a node can leave: its route entry is valid and names a port, or the node is this device. (DEDUCED, log 84.) -/
def Fabric.leads (f : Fabric) (node : Nat) : Bool := f.reaches node && (node == f.node || !(f.routePorts node).isEmpty)

/-- Port on which the initiator sends a packet that is number `pos` of its message (R305). -/
def Fabric.portOf (f : Fabric) (p : Packet) (pos : Nat) : Nat :=
  let ps := f.routePorts p.dest.toNat
  if p.ordered then ps.headD 0 else ps.getD ((p.message.toNat + pos) % ps.length) 0

/-! ### The bits of a packet (R303, R304) -/

/-- The 256 bits of a header (R304). -/
def packetHeader (p : Packet) : Nat :=
  fld 216 p.barOffset.toNat + fld 208 p.barIndex.toNat + fld 192 p.barKey.toNat + fld 184 p.group.toNat + fld 183 (b01 p.counted) +
    fld 160 p.message.toNat + fld 152 p.hops.toNat + fld 148 p.cause.toNat + fld 128 p.key.toNat + fld 120 p.index.toNat +
    fld 80 p.offset.toNat + fld 69 p.bytes.toNat + fld 68 (b01 p.ordered) + fld 66 p.channel.toNat + fld 62 p.opcode.toNat +
    fld 58 p.operation.toNat + fld 48 p.rank.toNat + fld 38 p.dest.toNat + fld 28 p.src.toNat + p.seq.toNat

/-- The packet of a header and a payload (R304). -/
def packetOfHeader (h : Nat) (payload : List Byte) : Packet :=
  { barOffset := BitVec.ofNat 40 (bits h 255 216), barIndex := BitVec.ofNat 8 (bits h 215 208), barKey := BitVec.ofNat 16 (bits h 207 192)
    group := BitVec.ofNat 8 (bits h 191 184), counted := bit h 183, message := BitVec.ofNat 16 (bits h 175 160)
    hops := BitVec.ofNat 8 (bits h 159 152), cause := BitVec.ofNat 4 (bits h 151 148), key := BitVec.ofNat 16 (bits h 143 128)
    index := BitVec.ofNat 8 (bits h 127 120), offset := BitVec.ofNat 40 (bits h 119 80), bytes := BitVec.ofNat 11 (bits h 79 69)
    ordered := bit h 68, channel := BitVec.ofNat 2 (bits h 67 66), opcode := BitVec.ofNat 4 (bits h 65 62)
    operation := BitVec.ofNat 4 (bits h 61 58), rank := BitVec.ofNat 10 (bits h 57 48), dest := BitVec.ofNat 10 (bits h 47 38)
    src := BitVec.ofNat 10 (bits h 37 28), seq := BitVec.ofNat 28 (bits h 27 0), payload }

/-- Payload flits of n bytes from byte (offset mod 64) of the first (R303). -/
def payloadFlits (off n : Nat) : Nat := if n = 0 then 0 else (off % 64 + n + 63) / 64

/-- Flits of a packet: its header flit and its payload flits (R303). -/
def flits (p : Packet) : Nat := 1 + payloadFlits p.offset.toNat p.payload.length

/-- The bytes of a packet's flits (R303, R304). -/
def packetWire (p : Packet) : List Byte :=
  let skip := if p.payload.isEmpty then 0 else p.offset.toNat % 64
  let n := 64 * (flits p - 1)
  leBytes 64 (packetHeader p) ++ List.replicate skip 0 ++ p.payload ++ List.replicate (n - skip - p.payload.length) 0

/-- Payload bytes that a header announces: a read and a signal carry none. (DEDUCED, log 38.) -/
def announced (p : Packet) : Nat := if p.opcode = 0 ∨ p.opcode = 4 then 0 else p.bytes.toNat

/-- The packet that flits carry (R303, R304). -/
def packetOfWire (bs : List Byte) : Packet :=
  let p := packetOfHeader (ofLe (bs.take 32)) []
  { p with payload := ((bs.drop 64).drop (p.offset.toNat % 64)).take (announced p) }

/-- Header fields that every request packet of this device shares (R304). -/
def Fabric.header (f : Fabric) (die opcode channel : Nat) (ordered : Bool) (a : FabAddr) (bytes : Nat) (payload : List Byte) : Packet :=
  { src := BitVec.ofNat 10 f.node, dest := BitVec.ofNat 10 a.node, opcode := BitVec.ofNat 4 opcode, channel := BitVec.ofNat 2 channel
    ordered, bytes := BitVec.ofNat 11 bytes, offset := BitVec.ofNat 40 a.off, index := BitVec.ofNat 8 a.index
    key := BitVec.ofNat 16 a.key, hops := BitVec.ofNat 8 (bits (f.route a.node) 24 20)
    message := BitVec.ofNat 16 (f.message.getD die 0), payload }

/-- Key of a sequence counter: node and channel. -/
def seqKey (node channel : Nat) : Nat := 4 * node + channel

/-- Queue a request packet at the initiator (R305, R307): an ordered one takes the next sequence number of its destination
and channel. -/
def Chip.sendRequest (c : Chip) (die : Nat) (pkt : Packet) (owner : FabOwner) (ctx : Nat) (uids : List Nat) : Chip :=
  let k := seqKey pkt.dest.toNat pkt.channel.toNat
  let pkt := if pkt.ordered then { pkt with seq := BitVec.ofNat 28 (Sparse.get 0 c.fab.seqOut k) } else pkt
  let seqOut := if pkt.ordered then c.fab.seqOut.set 0 k (Sparse.get 0 c.fab.seqOut k + 1) else c.fab.seqOut
  { c with
    nextId := c.nextId + 1
    fab := { c.fab with
      seqOut, pieces := modAt c.fab.pieces die (· + 1)
      out := c.fab.out ++ [{ id := c.nextId, die, pkt, owner, ctx, uids, pos := c.fab.pieces.getD die 0 }] } }

/-- The next message of a die begins (R304). -/
def Chip.nextMessage (c : Chip) (die : Nat) : Chip :=
  { c with fab := { c.fab with message := modAt c.fab.message die (· + 1), pieces := modAt c.fab.pieces die fun _ => 0 } }

/-- Cut a message of n bytes at 1 KiB-aligned target offsets (R303): position, offset and length of each packet. -/
def splitAt1K : Nat → Nat → Nat → Nat → List (Nat × Nat × Nat)
  | 0, _, _, _ => []
  | k + 1, pos, off, n =>
    if n = 0 then []
    else
      let m := min n (1024 - off % 1024)
      (pos, off, m) :: splitAt1K k (pos + m) (off + m) (n - m)

/-- Packets of a message of n bytes at a target offset. -/
def packetsOf (off n : Nat) : List (Nat × Nat × Nat) := splitAt1K (n / 1024 + 2) 0 off n

/-! ### Accesses to the same bytes of a peer (R51, R52, R186) -/

/-- Whether two accesses of n and m bytes reach one byte of a peer. -/
def FabAddr.meets (a : FabAddr) (n : Nat) (b : FabAddr) (m : Nat) : Bool := a.node == b.node && a.index == b.index && overlap a.off n b.off m

/-- Whether an access of a request to bytes of a peer still waits for its answer. -/
def Request.peerOpen (r : Request) (a : FabAddr) (n : Nat) (lane : Nat → Bool) : Bool :=
  r.accs.any fun x => x.open_ && lane x.lane && x.fab.elim false fun b => a.meets n b r.size

/-- Whether stores of two requests to bytes of a peer have an order: of one lane by program order (R51), of one instruction by lane (R186). -/
def Request.storeBefore (s r : Request) (a : FabAddr) (n : Nat) : Bool :=
  s.agent == r.agent && r.accs.any fun y => y.fab.elim false fun b => a.meets n b r.size &&
    s.peerOpen b r.size fun l => (decide (s.id < r.id) && l == y.lane) || (s.id == r.id && decide (l < y.lane))

/-! ### Write combining (R312) -/

/-- Contiguous runs of set positions of a mask: start and length. -/
def maskRuns : Nat → List Bool → List (Nat × Nat)
  | _, [] => []
  | i, false :: bs => maskRuns (i + 1) bs
  | i, true :: bs => match maskRuns (i + 1) bs with
    | (j, n) :: rest => if j = i + 1 then (i, n + 1) :: rest else (i, 1) :: (j, n) :: rest
    | [] => [(i, 1)]

/-- Drain an entry of a core's write-combining buffer: one unordered write packet for each run of valid bytes (R312), which concerns the squads that
stored into the run (R323). -/
def Chip.drainEntry (c : Chip) (n id : Nat) : Chip :=
  match (c.core n).wc.find? fun w => w.id == id with
  | none => c
  | some w =>
    let c := c.modCore n fun k => { k with wc := k.wc.filter fun x => x.id != id }
    let die := c.die n
    let c := c.nextMessage die
    (maskRuns 0 w.mask).foldl (fun c r =>
      let a : FabAddr := { peer := 0, node := w.node, index := w.index, key := w.key, off := w.line * 128 + r.1 }
      let ss := ((w.stores.filter fun x => overlap x.2.1 x.2.2.length r.1 r.2).map (·.1)).eraseDups
      let rs := ss.filterMap c.request?
      let uids := (rs.filterMap fun x => match x.agent with
        | .squad u => some u
        | .thread _ _ => none).eraseDups
      c.sendRequest die (c.fab.header die 1 0 false a r.2 ((w.bytes.drop r.1).take r.2)) (.wc n (w.va + r.1) ss) ((rs.map (·.ctx)).headD (w.ctxs.headD 0)) uids) c

/-- Drain every entry that a squad stored into (R312). -/
def Chip.drainWc (c : Chip) (uid : Nat) : Chip :=
  match c.squad? uid with
  | none => c
  | some q => ((c.core q.place.core).wc.filter fun w => w.squads.contains uid).foldl (fun c w => c.drainEntry q.place.core w.id) c

/-- Merge one store's bytes into the entry of its key, or a new one (R312); an entry with all bytes valid drains. -/
def Chip.wcStore (c : Chip) (n ctx uid req va : Nat) (a : FabAddr) (bs : List Byte) : Chip :=
  let key := fun (w : WcEntry) => w.node == a.node && w.index == a.index && w.key == a.key && w.line == a.off / 128
  let r := match (c.core n).wc.find? key with
    | some w => (w.id, c)
    | none =>
      let c := match (c.core n).wc with
        | w :: _ => if 64 ≤ (c.core n).wc.length then c.drainEntry n w.id else c
        | [] => c
      let w : WcEntry := { id := c.nextId, ctxs := [ctx], node := a.node, index := a.index, key := a.key, line := a.off / 128, va := va / 128 * 128 }
      (w.id, { c.modCore n fun k => { k with wc := k.wc ++ [w] } with nextId := c.nextId + 1 })
  let p := a.off % 128
  let put := fun (w : WcEntry) =>
    { w.put req p bs with
      ctxs := if w.ctxs.contains ctx then w.ctxs else w.ctxs ++ [ctx]
      squads := if w.squads.contains uid then w.squads else w.squads ++ [uid] }
  let c := r.2.modCore n fun k => { k with wc := k.wc.map fun w => if w.id = r.1 then put w else w }
  if ((c.core n).wc.find? fun w => w.id == r.1).elim false fun w => w.mask.all id then c.drainEntry n r.1 else c

end Sys2Proof.Machine
end

