-- ==== Sys2Proof/Machine/Placement.lean ====
section
/-! DEFINITION. Placement: windows and timeline slots of a muster on a core (R32), benches and slots for squads (R343), the
start state of a squad (R34), spawn bins and the squads they form (R33 to R36). -/

namespace Sys2Proof.Machine

/-! ### Windows and slots (R32) -/

/-- Whether lines lo to lo + n − 1 of a core's scratch lie in no window. -/
def Core.linesFree (k : Core) (lo n : Nat) : Bool := decide (lo + n ≤ 16384) && k.windows.all fun w => !overlap lo n w.base w.lines

/-- First line of a free run of n lines, at line 0 or at the end of a window: which free lines a window takes the spec does not say. (DESIGN CHOICE,
log 92.) -/
def Core.findLines (k : Core) (n : Nat) : Option Nat := (0 :: k.windows.map fun w => w.base + w.lines).find? fun lo => k.linesFree lo n

/-- Allocate a window: zero-filled, every presence bit set, written bits clear, race records reset (R32, R59, R172). -/
def Core.openWindow (k : Core) (w : Window) : Core :=
  { k with
    windows := k.windows ++ [w]
    scratch := Sparse.clearRange k.scratch (128 * w.base) (128 * (w.base + w.lines))
    absent := k.absent.clearRange w.base (w.base + w.lines)
    written := k.written.clearRange w.base (w.base + w.lines)
    race := k.race.clearRange w.base (w.base + w.lines) }

/-- Whether the timeline slots of a mask are free on a core, or held by the same launch (R32). -/
def Core.slotsFree (k : Core) (launch mask : Nat) : Bool :=
  (List.range 64).all fun i => !bit mask i || (k.slots.getD i {}).owners.all fun o => o.1 == launch

/-- Hand over the slots of a mask to a muster; counters are reset only for the first muster placed there (R14, R32). The spec names only the counters;
the sticky fault bit is cleared with them. (DESIGN CHOICE, log 92.) -/
def Core.handSlots (k : Core) (launch muster mask : Nat) : Core :=
  { k with slots := k.slots.mapIdx fun i s =>
      if bit mask i then
        if s.owners.isEmpty then { owners := [(launch, muster)] }
        else if s.owners.contains (launch, muster) then s
        else { s with owners := s.owners ++ [(launch, muster)] }
      else s }

/-- Contexts resident on a core (R354). -/
def Chip.residents (c : Chip) (n : Nat) : List Nat :=
  let k := c.core n
  ((c.squads.filter fun q => q.place.core == n).map (·.exe.ctx) ++
    (k.windows.map fun w => ((c.launch? w.launch).map (·.ctx)).getD 64) ++
    (k.slots.flatMap fun s => s.owners.map fun o => ((c.launch? o.1).map (·.ctx)).getD 64) ++
    ((c.launches.filter fun l => l.placing.any fun x => x.2.core == n).map (·.ctx)) ++ ((c.formed.filter fun f => f.place.any fun p => p.core == n).map (·.ctx)) ++
    (k.queues.filter fun q => q.state != .free).map (·.ctx) ++ k.threads.filterMap (·.map (·.exe.ctx))).eraseDups

/-- Whether context x may become resident on a core: at most 8 contexts are (R354). -/
def Chip.mayReside (c : Chip) (n x : Nat) : Bool := (c.residents n).contains x || decide ((c.residents n).length < 8)

/-- The phase that a window starts in (R59): that of the muster's barrier object, which keeps its contents where the distributor does not write it;
0 without an object, or where its page cannot be read. (DESIGN CHOICE, log 50.) -/
def Chip.startPhase (c : Chip) (ctx n : Nat) (m : Muster) : Nat :=
  if m.barrier = 0 ∨ m.barInit && !m.barDone then 0
  else match c.uncopied.xl n ctx { r := true } m.barrier 16 with
    | .ok ls => bits (ofLe (c.readLocs ls)) 63 32
    | .error _ => 0

/-- Place a muster on a core: its window where it is same-core and not yet placed, its timeline slots where the core does not
hold them yet, and the writing of its barrier object once (R32). None where the core lacks room. -/
def Chip.musterOnto (c : Chip) (launch idx n : Nat) : Option Chip :=
  match c.launch? launch, c.muster? launch idx with
  | some l, some m =>
    if m.cores.contains n then some c
    else if !c.mayReside n l.ctx || !(c.core n).slotsFree launch m.timelines then none
    else
      match (if m.place = 2 ∧ m.lines ≠ 0 then (c.core n).findLines m.lines else some 0) with
      | none => none
      | some lo =>
        let c := if m.place = 2 ∧ m.lines ≠ 0 then c.modCore n fun k => 
            k.openWindow { launch, muster := idx, base := lo, lines := m.lines, check := m.check, phase := c.startPhase l.ctx n m } else c
        let c := c.modCore n fun k => k.handSlots launch idx m.timelines
        let c := if m.barInit && !m.barDone && !m.placed then
            { c with barInits := c.barInits ++ [{ id := c.nextId, launch, muster := idx, core := n }], nextId := c.nextId + 1 }
          else c
        some (c.modMuster launch idx fun m =>
          { m with
            cores := m.cores ++ [n], placed := true, barDone := m.barDone || !m.barInit
            cluster := match m.cluster with
              | some x => some x
              | none => if m.place = 1 then ((c.clusters[n]?).join).map (·.1) else none })
  | _, _ => none

/-- Place several musters on a core, all or none. -/
def Chip.mustersOnto (c : Chip) (launch n : Nat) : List Nat → Option Chip
  | [] => some c
  | i :: is => (c.musterOnto launch i n).bind fun c => c.mustersOnto launch n is

/-- Members of a muster (R28). -/
def Muster.has (m : Muster) (i : Nat) : Bool :=
  if m.kind = 0 then
    if m.stride = 0 then decide (m.count = 1) && decide (i = m.base)
    else decide (m.base ≤ i) && decide ((i - m.base) % m.stride = 0) && decide ((i - m.base) / m.stride < m.count)
  else m.members.contains i

/-- Whether a muster names no squad and none can be spawned into it (R28). -/
def Muster.namesNone (m : Muster) : Bool := if m.kind = 0 then decide (m.count = 0) else m.kind == 1 && m.members.isEmpty

/-- Table indices of the musters that name a squad, ascending, at most four (R30). -/
def Launch.mslotsOf (l : Launch) (i : Nat) : List (Option Nat) :=
  let ms := (l.musters.filter fun m => m.has i).map fun m => some m.idx
  (ms ++ List.replicate 4 none).take 4

/-- Whether two musters share a squad of the launch. -/
def Launch.share (l : Launch) (a b : Muster) : Bool := (List.range l.squads).any fun i => a.has i && b.has i

/-- Close a list of same-core musters under sharing, for as many rounds as fuel allows (R31). -/
def Launch.closeGroup (l : Launch) : Nat → List Nat → List Nat
  | 0, g => g
  | k + 1, g => Launch.closeGroup l k
      (g ++ ((l.musters.filter fun m => m.place == 2 && !g.contains m.idx && l.musters.any fun x => g.contains x.idx && l.share x m).map (·.idx)))

/-- The same-core musters of the placement group that holds a muster (R31). -/
def Launch.groupOf (l : Launch) (idx : Nat) : List Nat := l.closeGroup l.musters.length [idx]

/-- Whether muster slots name a muster of the group that a move moves (R361). -/
def Chip.inGroup (c : Chip) (m : Move) (launch : Nat) (ms : List (Option Nat)) : Bool :=
  m.launch == launch && match c.launch? launch with
    | some l => (l.groupOf m.muster).any fun i => ms.contains (some i)
    | none => false

/-- Whether the last squad of a pre-empted context has left a core (R358). -/
def Chip.emptied (c : Chip) (n x : Nat) : Bool :=
  (c.core n).preempt == some x && !(c.squads.any fun q => q.place.core == n && q.exe.ctx == x) && !c.formed.any fun f => f.saves && f.core == n && f.ctx == x

/-- Whether the last squad of a moving group has left its core (R361). -/
def Chip.leftCore (c : Chip) (m : Move) : Bool :=
  !(c.squads.any fun q => q.place.core == m.core && c.inGroup m q.launch q.exe.mslots) &&
    !c.formed.any fun f => f.saves && f.core == m.core && c.inGroup m f.launch [f.muster]

/-! ### Benches (R158, R343) -/

/-- Squads with a slot on a bench. -/
def Chip.onBench (c : Chip) (n b : Nat) : List Squad := c.squads.filter fun q => q.place.core == n && q.place.bench == b

/-- Declared registers of a formed squad: the largest of its threads'. -/
def Formed.declared (f : Formed) : Nat := (f.threads.map (·.declared)).foldl max 8

/-- Slots of a bench that squads placed and not yet dispatched hold, with their blocks (R342, R346). -/
def Chip.reserved (c : Chip) (n b : Nat) : List (Nat × Nat) :=
  let here := fun (p : Place) => p.core == n && p.bench == b
  (c.launches.flatMap fun l => (l.placing.filter fun x => here x.2).map fun x => (x.2.slot, l.declared / 8)) ++
    c.formed.filterMap fun f => (f.place.filter here).map fun p => (p.slot, f.declared / 8)

/-- Free physical blocks in the pool of a bench: 256 less the resident ones (R158). -/
def Chip.pool (c : Chip) (n b : Nat) : Nat := 256 - ((c.onBench n b).map fun q => q.resident.length).sum

/-- Blocks of the pool that no placed squad is to take (R158, R343). -/
def Chip.freeBlocks (c : Chip) (n b : Nat) : Nat := c.pool n b - ((c.reserved n b).map (·.2)).sum

/-- Logical blocks of registers. -/
def blocksOf (ns : List Nat) : List Nat := (ns.map (· / 8)).eraseDups

/-- Whether the pool has blocks for the oldest escort in a bench's landing buffer, which then moves before anything else takes a block (R162). -/
def Chip.moveDue (c : Chip) (n b : Nat) : Bool :=
  (c.bench n b).landing.head?.elim false fun l => (c.squad? l.uid).elim true fun q =>
    decide (((blocksOf (l.regs.map (·.1))).filter fun k => !q.resident.contains k).length ≤ c.pool n b)

/-- Whether a bench may receive a squad of D registers that was placed on it: the pool has its blocks, no escort is to move into them, and no evicted squad
waits to be rehoused (R162, R164). -/
def Chip.benchReady (c : Chip) (n b d : Nat) : Bool :=
  decide (d / 8 ≤ c.pool n b) && !c.moveDue n b && (c.onBench n b).all fun q => q.evicted.isNone

/-- Lowest free slot of a bench. -/
def Chip.freeSlot (c : Chip) (n b : Nat) : Option Nat :=
  (List.range 32).find? fun s => ((c.onBench n b).all fun q => q.place.slot != s) && (c.reserved n b).all fun x => x.1 != s

/-- Whether a bench takes a squad of D registers: it is open, no evicted squad waits to be rehoused, a slot and blocks are
free (R158, R164, R343, R381). -/
def Chip.benchTakes (c : Chip) (n b d : Nat) : Bool :=
  let x := c.bench n b
  x.enabled && !x.closed && (c.freeSlot n b).isSome && decide (d / 8 ≤ c.freeBlocks n b) && (c.onBench n b).all fun q => q.evicted.isNone

/-- Bench of a core for a squad of D registers: most free blocks, then the lowest number (R343). -/
def Chip.pickBench (c : Chip) (n d : Nat) : Option Nat :=
  (List.range 6).foldl (fun best b =>
    if c.benchTakes n b d then match best with
      | none => some b
      | some a => if c.freeBlocks n a < c.freeBlocks n b then some b else some a
    else best) none

/-- Free squad slots of a core. -/
def Chip.freeSlots (c : Chip) (n : Nat) : Nat :=
  ((List.range 6).map fun b => let x := c.bench n b; if x.enabled && !x.closed then 32 - (c.onBench n b).length - (c.reserved n b).length else 0).sum

/-! ### Starting a squad (R34) -/

/-- Escort quotas of a squad's muster slots (R155). -/
def Chip.quotas (c : Chip) (launch : Nat) (ms : List (Option Nat)) : List Nat :=
  ms.map fun m => ((m.bind fun i => c.muster? launch i).map (·.quota)).getD 0

/-- The start state of a squad of a launch, or of a formed squad where `threads` is given (R34). A formed squad has no squad
number, so the area of its spill stack (R336) is a free value. Its start is an acquire: L1
of its core is invalidated (R145, R48). -/
def Chip.startSquad (c : Chip) (l : Launch) (pl : Place) (number entry d : Nat) (ms : List (Option Nat)) (threads : Option (List Spawned)) : Chip :=
  let live : LaneMask := match threads with
    | some ts => maskOf fun i => decide (i < ts.length)
    | none => BitVec.allOnes 32
  let e : Exe := { ctx := l.ctx, core := pl.core, declared := d, mslots := ms }
  let e := match threads with
    | some ts => (ts.mapIdx fun i t => (i, t)).foldl (fun (e : Exe) (p : Nat × Spawned) =>
        (p.2.args.mapIdx fun k w => (k, w)).foldl (fun (e : Exe) (a : Nat × Word) => e.setReg a.1 p.1 a.2.toNat) e) e
    | none => e
  let e := (((e.setUni 0 (if threads.isSome then 0xFFFFFFFF else number)).setUni 1
    (match threads with
      | some ts => ts.length
      | none => l.squads)).setUni 2 l.args).setUni 3 (l.args / 2 ^ 32)
  let q : Squad :=
    { uid := c.nextId, place := pl, launch := l.id, number := if threads.isSome then 0xFFFFFFFF else number, spawned := threads.isSome, entry
      dispatched := c.order, lastIssue := c.order, exe := e, lpc := List.replicate 32 entry
      st := (List.range 32).map fun i => if live.getLsbD i then .eligible else .exited
      stackNo := if threads.isSome then c.free.1.toNat % 2 ^ 24 else number
      quota := c.quotas l.id ms, resident := List.range (d / 8) }
  { c.modCore pl.core fun k => { k with l1 := [] } with
    squads := c.squads ++ [q], nextId := c.nextId + 1, order := c.order + 1, fresh := if threads.isSome then c.fresh + 1 else c.fresh }

/-! ### Spawn bins (R33) -/

/-- Whether what a bin forms on a core is saved with its context: a pre-emption of the context or a migration of its muster's group is in progress there
(R36, R361, R362). -/
def Chip.binLeaves (c : Chip) (n ctx launch : Nat) (muster : Option Nat) : Bool :=
  (c.core n).preempt == some ctx || c.moves.any fun m => m.core == n && muster.isSome && c.inGroup m launch [muster]

/-- Form a squad of a bin's threads: it waits for dispatch, or to be saved (R33, R34, R36). -/
def Chip.formBin (c : Chip) (n : Nat) (b : Bin) : Chip :=
  let f : Formed :=
    { id := c.nextId, launch := b.launch, ctx := b.ctx, core := n, entry := b.entry, muster := b.muster, threads := b.threads
      saves := c.binLeaves n b.ctx b.launch b.muster }
  { c.modCore n fun k => { k with bins := k.bins.filter fun x => x != b } with formed := c.formed ++ [f], nextId := c.nextId + 1 }

/-- Whether a bin has a key (R33). (DESIGN CHOICE, log 92.) -/
def Bin.keyed (b : Bin) (launch entry : Nat) (muster : Option Nat) : Bool := b.launch == launch && b.entry == entry && b.muster == muster

/-- One thread enters the bin of its key (R33). -/
def Chip.binAdd (c : Chip) (n ctx launch entry : Nat) (muster : Option Nat) (t : Spawned) : Chip :=
  let key := fun (b : Bin) => b.keyed launch entry muster
  let c := if (c.core n).bins.any key || (c.core n).bins.length < 16 then c
    else match (c.core n).bins.foldl (fun (m : Option Bin) b => match m with
        | none => some b
        | some a => if b.since < a.since then some b else some a) none with
      | some b => c.formBin n b
      | none => c
  let c := if (c.core n).bins.any key then c.modCore n fun k => { k with bins := k.bins.map fun b => if key b then { b with threads := b.threads ++ [t] } else b }
    else { c.modCore n fun k => { k with bins := k.bins ++ [{ launch, ctx, entry, muster, threads := [t], since := c.order, wait := ((c.ctx? ctx).map (·.binwait)).getD 512 }] } with order := c.order + 1 }
  match (c.core n).bins.find? key with
  | some b => if b.threads.length = 32 then c.formBin n b else c
  | none => c

end Sys2Proof.Machine
end

