-- ==== Sys2Proof/Machine/Control.lean ====
section
/-! DEFINITION. Control flow, burgees and ensigns, opcodes 0x1C0 to 0x1CF (R138 to R151). -/

namespace Sys2Proof.Machine

/-- Check the burgee field (R84, R138): codes 12 to 14 trap in every row, 15 where the row uses a burgee. The field has no
number of its own in R349; its bits are charged to the modifiers. -/
def Exe.chkBurg (e : Exe) (f : FormB) (used : Bool) : Except Trap Unit :=
  if f.burg.toNat < 12 ∨ (f.burg.toNat = 15 ∧ !used) then .ok () else .error (e.operand 6)

/-- A squad's effect that may trap, as the effect of its instruction. -/
def squadRes (fn : Squad → Except Trap Squad) (c : Chip) (q : Squad) : Res :=
  match fn q with
  | .ok q => .done (c.setSquad q)
  | .error t => .trap t

/-- Target H + 8 × offset or pair + 8 × offset, modulo 2^64 (R140). -/
def target (base : Nat) (off : BitVec 28) : Nat := pattern 64 ((base : Int) + 8 * off.toInt)

/-- Lanes take a control transfer, each to its own target (R139). -/
def Squad.transfer (q : Squad) (m : LaneMask) (tgt : Nat → Nat) : Squad :=
  ((lanesOf m).foldl (fun q l => q.setPc (laneBit l) (tgt l) 0 true false) q).leave m

/-- A quarry thread takes a control transfer (R139, R209). -/
def QThread.transfer (th : QThread) (tgt : Nat) : QThread := { th with exe := { th.exe with hdrAt := tgt, active := 0 }, byTransfer := true }

/-- `bra` for a squad and for a quarry thread. -/
def Squad.runBra (f : FormB) (q : Squad) : Except Trap Squad := do
  q.exe.chkBurg f false
  return q.transfer (q.exe.acting f.g) fun _ => target q.exe.hdrAt f.off
def threadBra (f : FormB) (n t : Nat) (c : Chip) (th : QThread) : Res :=
  match th.exe.chkBurg f false with
  | .error tr => .trap tr
  | .ok _ => .done (if th.exe.guard f.g 0 then c.modThread n t fun th => th.transfer (target th.exe.hdrAt f.off) else c)

/-- Every clause class a header may have (R138). -/
def allClasses : List Nat := [0, 1, 2, 3, 4, 5]

/-- `bra` (R140). -/
def execBra (f : FormB) := fun (s : State) =>
  onAgent s (fun c q => c.runSquad q allClasses (fun _ => []) (squadRes (Squad.runBra f))) (fun c n t th => c.runThread n t th (threadBra f n t))

/-- Indirect transfer of `brx` and `ret` (R140). -/
def Squad.runBrx (f : FormB) (q : Squad) : Except Trap Squad := do
  q.exe.chkSrc 0 (.gen true) f.reg
  q.exe.chkBurg f false
  return q.transfer (q.exe.acting f.g) fun l => target (q.exe.src true f.reg l) f.off

/-- `brx` (R140). -/
def execBrx (f : FormB) := fun (s : State) => onSquad s [0] (fun _ => codeRegs true f.reg) (squadRes (Squad.runBrx f))
/-- `ret` (R140): as `brx`. -/
def execRet (f : FormB) := fun (s : State) => onSquad s [0] (fun _ => codeRegs true f.reg) (squadRes (Squad.runBrx f))

/-- `call` (R140): the target is read before the link is written. -/
def Squad.runCall (f : FormB) (ind : Bool) (q : Squad) : Except Trap Squad := do
  let e := q.exe
  if ind then e.chkSrc 0 (.gen true) f.reg
  e.chkDst (.gen true) f.reg
  e.chkBurg f false
  let m := e.acting f.g
  let q := q.transfer m fun l => target (if ind then e.src true f.reg l else e.hdrAt) f.off
  return { q with exe := q.exe.each m fun e' l => e'.put true f.reg l e.nextHdr }

/-- `call`. -/
def execCall (f : FormB) (ind : Bool) := fun (s : State) => onSquad s [0] (fun _ => codeRegs true f.reg) (squadRes (Squad.runCall f ind))

/-- `exit` of a squad (R141, R312): it ends the region and drains the squad's write-combining entries. -/
def squadExit (f : FormB) (c : Chip) (q : Squad) : Res :=
  match q.exe.chkBurg f false with
  | .error t => .trap t
  | .ok _ =>
    let m := q.exe.acting f.g
    if m = 0 then .done c else c.endRegion q fun c => .done ((c.drainWc q.uid).modSquad q.uid fun q => q.remove m)

/-- `exit` of a quarry thread (R217, R222). -/
def threadExit (f : FormB) (n t : Nat) (c : Chip) (th : QThread) : Res :=
  match th.exe.chkBurg f false with
  | .error tr => .trap tr
  | .ok _ => .done (if th.exe.guard f.g 0 then c.endThread n t false else c)

/-- `exit`. -/
def execExit (f : FormB) := fun (s : State) =>
  onAgent s (fun c q => c.runSquad q allClasses (fun _ => []) (squadExit f)) (fun c n t th => c.runThread n t th (threadExit f n t))

/-- `yield` (R142). -/
def Squad.runYield (f : FormB) (q : Squad) : Except Trap Squad := do
  q.exe.chkBurg f false
  let m := q.exe.acting f.g
  return ((q.setPc m q.exe.nextHdr 0 false false).setStates m .yielded).leave m

/-- `yield`. -/
def execYield (f : FormB) := fun (s : State) => onSquad s [0] (fun _ => []) (squadRes (Squad.runYield f))

/-- `nop` (R142). -/
def Exe.runNop (f : FormB) (e : Exe) : Except Trap Exe := do
  e.chkBurg f false
  return e

/-- `nop`. -/
def execNop (f : FormB) := fun (s : State) =>
  onAgent s (fun c q => c.runSquad q allClasses (fun _ => []) (exeRes (Exe.runNop f)))
    (fun c n t th => c.runThread n t th (exeResThread (Exe.runNop f) n t))

/-- The region that `region` opens: it restarts at the instruction that follows, with the latch empty (R143). -/
def Squad.openRegion (q : Squad) : Squad :=
  let e := q.exe
  { q with
    region := some (if e.pos < e.count then { hdrAt := e.hdrAt, pos := e.pos + 1, mask := e.active } else { hdrAt := e.nextHdr, pos := 0, mask := e.active })
    exe := { e with latchAt := [none, none, none] } }

/-- `region` (R143). -/
def squadRegion (f : FormB) (endOnly : Bool) (c : Chip) (q : Squad) : Res :=
  match q.exe.chkBurg f false with
  | .error t => .trap t
  | .ok _ =>
    if q.exe.acting f.g = 0 then .done c
    else c.endRegion q fun c => .done (if endOnly then c else c.modSquad q.uid Squad.openRegion)

/-- `region`. -/
def execRegion (f : FormB) (endOnly : Bool) := fun (s : State) => onSquad s [0] (fun _ => []) (squadRegion f endOnly)

/-! ### spawn (R144) -/

/-- Operand checks of `spawn`: codes and the muster slot, then the limits of R144 (R93). -/
def Squad.chkSpawn (q : Squad) (f : FormX) (argc ms : BitVec 3) : Except Trap Unit := do
  let e := q.exe
  e.chkSrc 0 (.gen true) f.p
  if argc ≠ 0 ∧ (0xF0 ≤ f.q.toNat ∨ e.declared < f.q.toNat + argc.toNat) then throw (e.operand 1)
  if ms ≠ 7 ∧ (e.mslots.getD ms.toNat none).isNone then throw (e.operand 6)
  if (lanesOf (e.acting f.g)).any fun l => let v := e.src true f.p l; v % 8 != 0 || decide (2 ^ 57 ≤ v) then throw (e.operand 0)
  if f.s.toNat = 0 ∨ 30 < f.s.toNat then throw (e.operand 2)

/-- A thread of `spawn`: argument words that the instruction does not supply are zero (R33). -/
def Exe.spawned (e : Exe) (f : FormX) (argc : BitVec 3) (l : Nat) : Spawned :=
  { args := (List.range 4).map fun k => if k < argc.toNat then e.reg (f.q.toNat + k) l else 0, declared := 8 * f.s.toNat }

/-- The muster a `spawn` names is on the squad's core, its barrier object written, or can be placed there (R35). -/
def Chip.spawnPlace (c : Chip) (q : Squad) (m : Option Nat) : Option Chip :=
  match m.bind fun i => c.muster? q.launch i with
  | none => some c
  | some k => if k.kind = 2 ∧ !k.placed then c.musterOnto q.launch k.idx q.place.core else some c

/-- The effect of `spawn`: threads enter the bins of their keys in ascending lane order; with a `cw.binwait` of 0 these bins form at the end (R33, R144,
R155). -/
def Chip.spawnAll (c : Chip) (q : Squad) (f : FormX) (argc : BitVec 3) (m : Option Nat) : Chip :=
  let e := q.exe
  let n := q.place.core
  let c := (lanesOf (e.acting f.g)).foldl (fun c l => c.binAdd n e.ctx q.launch (e.src true f.p l) m (e.spawned f argc l)) c
  let c : Chip := match m with
    | some i => c.modMuster q.launch i fun k => { k with spawnedInto := true }
    | none => c
  let fed := fun (b : Bin) => (lanesOf (e.acting f.g)).any fun l => b.keyed q.launch (e.src true f.p l) m
  if ((c.ctx? e.ctx).map (·.binwait)).getD 512 == 0 then ((c.core n).bins.filter fed).foldl (fun c b => c.formBin n b) c else c

/-- `spawn`: a device-scope release, so it waits for the squad's earlier accesses (R145). -/
def squadSpawn (f : FormX) (argc ms : BitVec 3) (c : Chip) (q : Squad) : Res :=
  match q.chkSpawn f argc ms with
  | .error t => .trap t
  | .ok _ =>
    if q.exe.acting f.g = 0 then .done c
    else
      let m := if ms = 7 then none else q.exe.mslots.getD ms.toNat none
      c.endRegion q fun c =>
      if c.earlier (.squad q.uid) c.nextId (q.exe.acting f.g) then .stall c
      else match c.spawnPlace q m with
        | none => .stall c
        | some c =>
          if ((m.bind fun i => c.muster? q.launch i).map fun k => k.barInit && !k.barDone).getD false then .stall c
          else .done (c.spawnAll q f argc m)

/-- `spawn`. -/
def execSpawn (f : FormX) (argc ms : BitVec 3) := fun (s : State) =>
  onSquad s [0] (fun _ => codeRegs true f.p ++ blockRegs f.q.toNat argc.toNat) (squadSpawn f argc ms)

/-! ### Burgees (R146, R147) -/

/-- A burgee instruction that acts on the lanes whose guard is true. -/
def Squad.runBurg (f : FormB) (op : Squad → Nat → LaneMask → Squad) (q : Squad) : Except Trap Squad := do
  q.exe.chkBurg f true
  return op q f.burg.toNat (q.exe.acting f.g)

/-- `bjoin`. -/
def execBjoin (f : FormB) := fun (s : State) =>
  onSquad s [0] (fun _ => []) (squadRes (Squad.runBurg f fun q b m => { q with burgees := modAt q.burgees b (· ||| m) }))

/-- `bleave`. -/
def execBleave (f : FormB) := fun (s : State) =>
  onSquad s [0] (fun _ => []) (squadRes (Squad.runBurg f fun q b m => Squad.testBurgee { q with burgees := modAt q.burgees b (· &&& ~~~m) } b))

/-- The effect of `bwait`: enrolled lanes wait, the others go on to the next clause (R146). -/
def Squad.bwaitOn (q : Squad) (b : Nat) (m : LaneMask) : Squad :=
  Squad.testBurgee (((q.setPc m q.exe.nextHdr 0 false false).setStates (m &&& q.burgees.getD b 0) (.burgeeWait b)).leave m) b

/-- `bwait`; it ends the region (R175). -/
def squadBwait (f : FormB) (c : Chip) (q : Squad) : Res :=
  match q.exe.chkBurg f true with
  | .error t => .trap t
  | .ok _ =>
    let m := q.exe.acting f.g
    if m = 0 then .done c else c.endRegion q fun c => .done (c.modSquad q.uid fun q => q.bwaitOn f.burg.toNat m)

/-- `bwait`. -/
def execBwait (f : FormB) := fun (s : State) => onSquad s [0] (fun _ => []) (squadBwait f)

/-- The effect of `bset`: lanes that wait on b and lose their bit are released at once (R146). -/
def Squad.bsetTo (q : Squad) (b : Nat) (v : LaneMask) : Squad :=
  let v := v &&& q.liveMask
  Squad.testBurgee { (q.setStates (q.waiting b &&& ~~~v) .eligible) with burgees := q.burgees.set b v } b

/-- `bset`. -/
def Squad.runBset (f : FormB) (q : Squad) : Except Trap Squad := do
  q.exe.chkUni 0 false f.reg
  q.exe.chkBurg f true
  return if q.exe.acting f.g = 0 then q else q.bsetTo f.burg.toNat (BitVec.ofNat 32 (q.exe.uniVal false f.reg))
def execBset (f : FormB) := fun (s : State) => onSquad s [0] (fun _ => uniRegs false f.reg) (squadRes (Squad.runBset f))

/-- `bget`. -/
def Squad.runBget (f : FormB) (q : Squad) : Except Trap Squad := do
  q.exe.chkUniDst 0 false f.reg
  q.exe.chkBurg f true
  return if q.exe.acting f.g = 0 then q else { q with exe := q.exe.putUni false f.reg (q.burgees.getD f.burg.toNat 0).toNat }
def execBget (f : FormB) := fun (s : State) => onSquad s [0] (fun _ => uniRegs false f.reg) (squadRes (Squad.runBget f))

/-! ### Ensigns (R148 to R150) -/

/-- The effect of `esign` for lanes g of a declared live set (R148). -/
def Squad.sign (q : Squad) (k : Nat) (g set : LaneMask) : Squad :=
  let e := q.ensigns.getD k {}
  let e := if e.isOpen then e else { isOpen := true, set, cont := q.exe.nextHdr }
  let e := { e with signed := e.signed ||| g }
  let e := if e.set &&& ~~~e.signed = 0 then { e with armed := true } else e
  (((q.setPc g q.exe.nextHdr 0 false false).setStates g (.ensignWait k)).leave g |> fun q => { q with ensigns := q.ensigns.set k e })

/-- Conditions of `esign`, each an illegal operand of the register field (R148, R349). -/
def Squad.chkSign (q : Squad) (k : Nat) (g set : LaneMask) : Bool :=
  let e := q.ensigns.getD k {}
  set != 0 && !(e.isOpen && (set != e.set || q.exe.nextHdr != e.cont)) && (g &&& ~~~set) == 0

/-- `esign`; it ends the region (R175). -/
def squadEsign (f : FormB) (k : BitVec 2) (c : Chip) (q : Squad) : Res :=
  match (do q.exe.chkUni 0 false f.reg; q.exe.chkBurg f false) with
  | .error t => .trap t
  | .ok _ =>
    let g := q.exe.acting f.g
    if g = 0 then .done c
    else
      let set := BitVec.ofNat 32 (q.exe.uniVal false f.reg) &&& q.liveMask
      if q.chkSign k.toNat g set then c.endRegion q fun c => .done (c.modSquad q.uid fun q => q.sign k.toNat g set)
      else .trap (q.exe.operand 0)

/-- `esign`. -/
def execEsign (f : FormB) (k : BitVec 2) := fun (s : State) => onSquad s [0] (fun _ => uniRegs false f.reg) (squadEsign f k)

/-- `eclr`; it ends the region (R150, R175). -/
def squadEclr (f : FormB) (k : BitVec 2) (c : Chip) (q : Squad) : Res :=
  match q.exe.chkBurg f false with
  | .error t => .trap t
  | .ok _ => if q.exe.acting f.g = 0 then .done c else c.endRegion q fun c => .done (c.modSquad q.uid fun q => q.clearEnsign k.toNat)

/-- `eclr`. -/
def execEclr (f : FormB) (k : BitVec 2) := fun (s : State) => onSquad s [0] (fun _ => []) (squadEclr f k)

end Sys2Proof.Machine
end

