-- ==== Sys2Proof/Machine/Memory.lean ====
section
/-! DEFINITION. Issuing memory instructions, opcodes 0x200 to 0x27F (R182 to R192): checks in the order of R185, scratch lane
checks (R171), escorts leaving (R157 to R167), region buffering (R173, R174), aperture accesses (R315). What happens to a
request after its issue is in MemoryEvents. -/

namespace Sys2Proof.Machine

/-- The space a memory instruction reaches (R182). -/
inductive Space where
  | glob | scr | stack
  deriving DecidableEq, Repr

/-- A memory instruction: its operand fields and what its row of R182 says. -/
structure MemOp where
  g : Guard
  data : Code
  addr : Code
  base : Code
  mask : BitVec 8
  /-- Byte offset: the offset field times the access size. -/
  off : Int
  ps : Bool
  scope : Nat
  order : Nat
  tryFlag : Option (BitVec 3) := none
  space : Space := .glob
  kind : AccKind
  size : Nat
  ty : IntTy := .z32
  /-- Operand or compare code, and new code, of `fatom` and `fcas`, which hold them outside the data field (R313). -/
  opnd : Option (Code × Code) := none

/-- Bytes of an access of a type (R182). -/
def tyBytes (t : IntTy) : Nat := tyW t / 8

/-- A memory instruction in format M. -/
def opM (f : FormM) (space : Space) (kind : AccKind) (ty : IntTy) : MemOp :=
  { g := f.g, data := f.data, addr := f.addr, base := f.base, mask := f.mask, off := f.off.toInt * tyBytes ty, ps := f.ps
    scope := f.scope.toNat, order := f.order.toNat, space, kind, size := tyBytes ty, ty }

/-- A memory instruction in the `.try` form (R184). -/
def opT (f : FormT) (space : Space) (kind : AccKind) (ty : IntTy) : MemOp :=
  { g := f.g, data := f.data, addr := f.addr, base := f.base, mask := f.mask, off := f.off.toInt * tyBytes ty, ps := f.ps
    scope := f.scope.toNat, order := f.order.toNat, tryFlag := some f.flag, space, kind, size := tyBytes ty, ty }

/-- Whether operands are 64 bits. -/
def MemOp.wide (m : MemOp) : Bool := m.size == 8

/-- Whether the instruction writes a register (R157, R191). -/
def MemOp.ret (m : MemOp) : Bool :=
  match m.kind with
  | .load => true
  | .store => false
  | .atom _ ret => ret
  | .cas _ => true

/-- Whether the instruction is an atomic. -/
def MemOp.atomic (m : MemOp) : Bool :=
  match m.kind with
  | .atom _ _ => true
  | .cas _ => true
  | _ => false

/-- Registers that the escort mask names (R157). -/
def MemOp.maskRegs (m : MemOp) : List Nat := ((List.range 8).filter fun i => m.mask.getLsbD i).map (m.base.toNat + ·)

/-- Destination registers. -/
def MemOp.dstRegs (m : MemOp) : List Nat := if m.ret then codeRegs m.wide m.data else []

/-- Whether the instruction is escorted (R157). -/
def MemOp.escorted (m : MemOp) : Bool := m.mask != 0

/-- The escort set (R157). -/
def MemOp.escortSet (m : MemOp) : List Nat := if m.escorted then (m.maskRegs ++ m.dstRegs).eraseDups else []

/-- Every register the instruction names (R159). -/
def MemOp.uses (m : MemOp) : List Nat :=
  codeRegs true m.addr ++ m.maskRegs ++
    match m.kind with
    | .cas w64 => if m.data.toNat < 0xF0 then blockRegs m.data.toNat (if w64 then 4 else 2) else []
    | _ => codeRegs m.wide m.data

/-- Effective address of a lane (R185); scratch uses the low word (R41). -/
def MemOp.ea (m : MemOp) (e : Exe) (l : Nat) : Nat :=
  let a := pattern 64 ((e.src true m.addr l : Nat) + m.off)
  if m.space = .scr then a % 2 ^ 32 else a

/-! ### Checks (R185) -/

/-- Codes of the data field (R86, R89, R187 to R192). -/
def MemOp.chkData (m : MemOp) (e : Exe) : Except Trap Unit :=
  match m.kind with
  | .load => e.chkDst (.gen m.wide) m.data
  | .store => e.chkSrc 0 (.gen m.wide) m.data
  | .atom _ ret => do
    e.chkSrc 0 (.gen m.wide) m.data
    if ret then e.chkDst (.gen m.wide) m.data
  | .cas w64 => e.chkSrc 0 (.gen w64) m.data

/-- Limits of the data field of `cas`: no xz, no latch code, and every register of the layout declared (R192). -/
def MemOp.chkCas (m : MemOp) (e : Exe) : Except Trap Unit :=
  match m.kind with
  | .cas w64 =>
    let d := m.data.toNat
    if w64 then (if d % 2 = 0 ∧ d < 0xF0 ∧ d + 3 < e.declared then .ok () else .error (e.operand 0))
    else if d ≤ 0xEE ∧ d + 1 < e.declared then .ok () else .error (e.operand 0)
  | _ => .ok ()

/-- Limits of the escort field (R86). -/
def MemOp.chkEscort (m : MemOp) (e : Exe) : Except Trap Unit :=
  if m.mask = 0 then .ok ()
  else if m.base.toNat < 0xF0 ∧ m.maskRegs.all (fun n => decide (n < e.declared)) then .ok ()
  else .error (e.operand 7)

/-- Orders a row allows (R182). -/
def MemOp.orderOk (m : MemOp) : Bool :=
  if m.space = .stack then m.order == 0
  else match m.kind with
    | .load => m.order == 0 || m.order == 1
    | .store => m.order == 0 || m.order == 2
    | .atom _ ret => ret || m.order == 0 || m.order == 2
    | .cas _ => true

/-- Limits of a row on scope, order, escort mask and try flag, then of the instruction's own rule (R182, R184, R185, R192). (DEDUCED, log 27.) -/
def MemOp.chkLimits (m : MemOp) (e : Exe) : Except Trap Unit := do
  if m.space = .stack ∧ m.scope ≠ 0 then throw (e.operand 6)
  if !m.orderOk then throw (e.operand 6)
  if m.space = .stack ∧ m.mask ≠ 0 then throw (e.operand 7)
  match m.tryFlag with
  | some k =>
    if k = 7 then throw (e.operand 6)
    if m.mask = 0 then throw (e.operand 7)
  | none => pure ()
  m.chkCas e

/-- Steps 1 to 4 of R185 after the opcode and the class. -/
def MemOp.check (m : MemOp) (e : Exe) : Except Trap Unit := do
  m.chkData e
  e.chkSrc 1 (.gen true) m.addr
  m.chkEscort e
  if 4 < m.scope then throw (e.operand 6)
  let g := lanesOf (e.acting m.g)
  if m.space = .scr ∧ g.any (fun l => (e.mslots.getD (bits (m.ea e l) 31 30) none).isNone) then throw (e.operand 1)
  m.chkLimits e
  if m.space = .glob ∧ g.any (fun l => decide (2 ^ 57 ≤ m.ea e l)) then throw (e.operand 1)
  match g.find? fun l => m.ea e l % m.size != 0 with
  | some l => throw (accessFault 1 (m.ea e l))
  | none => pure ()

/-! ### Where a lane's access goes (R178, R189, R171) -/

/-- The outcome of a lane's translation or scratch check. -/
inductive LaneX where
  | at (ls : List Loc)
  | peer (a : FabAddr)
  | absent (page : Nat)
  | fault (reason : Nat)
  | off
  deriving DecidableEq, Repr

/-- Rights an access needs (R176). -/
def AccKind.need : AccKind → Need
  | .load => { r := true }
  | .store => { w := true }
  | _ => { r := true, w := true }

/-- A global access: through the fabric, or through views and page tables (R40). -/
def Chip.laneGlobal (c : Chip) (core ctx : Nat) (need : Need) (va size : Nat) : LaneX :=
  if bit va 56 then
    match c.fxlate core ctx va size with
    | .ok a => .peer a
    | .error (.absent p) => .absent p
    | .error (.access r) => .fault r
  else match c.xl core ctx need va size with
    | .ok ls => .at ls
    | .error (.absent p) => .absent p
    | .error (.access r) => .fault r

/-- Size of a squad's stack above its block area, in bytes (R189). -/
def Chip.stackSize (c : Chip) (q : Squad) : Nat := let k := ((c.launch? q.launch).map (·.stackKiB)).getD 0; (if k = 0 then 16 else k) * 1024

/-- Start of a squad's spill stack: its block area (R164, R189, R336). -/
def Chip.stackArea (c : Chip) (q : Squad) : Nat :=
  let b := ((c.launch? q.launch).map (·.stackBase)).getD 0
  let base := if b = 0 then ((c.ctx? q.exe.ctx).map (·.stackPool)).getD 0 else b
  base + q.stackNo * roundUp (q.exe.declared * 128 + 1024 + c.stackSize q) 4096

/-- Bytes of a squad's block area (R164). -/
def Squad.blockBytes (q : Squad) : Nat := q.exe.declared * 128 + 1024

/-- The global address that a lane's access reaches: for the spill stack, behind the block area (R189). -/
def Chip.laneVa (c : Chip) (q : Squad) (m : MemOp) (l : Nat) : Nat :=
  let a := m.ea q.exe l
  if m.space = .stack then c.stackArea q + q.blockBytes + a else a

/-- Scratch byte of a core that an address reaches, with its window; none out of window (R41). -/
def Chip.scratchAt (c : Chip) (n launch : Nat) (mslots : List (Option Nat)) (addr size : Nat) : Option (Window × Nat) :=
  match mslots.getD (bits addr 31 30) none with
  | none => none
  | some m => match (c.core n).window? launch m with
    | none => none
    | some w => if bits addr 20 0 + size ≤ w.lines * 128 then some (w, w.base * 128 + bits addr 20 0) else none

/-- Checks 1 to 3 of R171. -/
def Chip.laneScr (c : Chip) (q : Squad) (m : MemOp) (l : Nat) : LaneX :=
  let n := q.place.core
  match c.scratchAt n q.launch q.exe.mslots (m.ea q.exe l) m.size with
  | none => .off
  | some (w, b) =>
    let k := c.core n
    if m.kind ≠ .load ∧ Sparse.get false k.absent (b / 128) then .off
    else if w.check = 2 ∧ m.kind ≠ .store ∧ !Sparse.get false k.written (b / 128) then .off
    else .at ((List.range m.size).map fun i => .scr n (b + i))

/-- Where a lane's access goes. -/
def Chip.lane (c : Chip) (q : Squad) (m : MemOp) (l : Nat) : LaneX :=
  match m.space with
  | .scr => c.laneScr q m l
  | .glob => c.laneGlobal q.place.core q.exe.ctx m.kind.need (m.ea q.exe l) m.size
  | .stack =>
    let a := m.ea q.exe l
    if 2 ^ 63 ≤ a ∨ c.stackSize q < a + m.size then .fault 2
    else c.laneGlobal q.place.core q.exe.ctx m.kind.need (c.laneVa q m l) m.size

/-- Whether the home of a lane's access cannot perform it (R45, R181, R315). -/
def Chip.unsupported (c : Chip) (ctx : Nat) (kind : AccKind) (size va : Nat) (x : LaneX) : Bool :=
  match kind, x with
  | .atom op _, .peer _ => op == .fmin || op == .fmax
  | .atom op _, .at (.host _ :: _) => !(op == .add32 || op == .add64 || op == .swap32 || op == .swap64)
  | .atom _ _, .at (.dev _ :: _) => (((c.ctx? ctx).bind fun k => k.view? va).map fun v => decide (v.1.es < size)).getD false
  | .cas _, .at (.dev _ :: _) => (((c.ctx? ctx).bind fun k => k.view? va).map fun v => decide (v.1.es < size)).getD false
  | _, _ => false

/-! ### Race checking (R59, R60) -/

/-- The slot identity that a race record holds (R59). -/
def Place.slotId (p : Place) : Nat := p.bench * 32 + p.slot

/-- The recorded writer and phase of a conflicting non-atomic access to a scratch line, if it conflicts (R59). -/
def Chip.raceAt (c : Chip) (p : Place) (ls : List Loc) : Option (Nat × Nat) :=
  match ls with
  | .scr n b :: _ => match (c.core n).windowOf (b / 128) with
    | none => none
    | some w =>
      let r := (Sparse.get (0xFF00 : BitVec 16) (c.core n).race (b / 128)).toNat
      if w.check ≠ 0 ∧ bits r 15 8 ≠ 0xFF ∧ bits r 15 8 ≠ p.slotId ∧ bits r 7 0 = w.phase % 256 then some (bits r 15 8, b / 128 - w.base) else none
  | _ => none

/-- Record the writer of a scratch line (R59). -/
def Chip.raceMark (c : Chip) (p : Place) (ls : List Loc) : Chip :=
  match ls with
  | .scr n b :: _ => match (c.core n).windowOf (b / 128) with
    | none => c
    | some w => if w.check = 0 then c
      else c.modCore n fun k => { k with race := k.race.set 0xFF00 (b / 128) (BitVec.ofNat 16 (fld 8 p.slotId + w.phase % 256)) }
  | _ => c

/-- The memory-model exception over lanes with their scratch locations, if any conflicts (R60): where lanes conflict on different lines, the line and its
recorded writer are those of the first that conflicts. (DESIGN CHOICE, log 96.) -/
def Chip.raceTrap (c : Chip) (q : Squad) (xs : List (Nat × Nat × List Loc)) : Option Trap :=
  let bad := xs.filterMap fun x => (c.raceAt q.place x.2.2).map fun r => (x.1, x.2.1, r)
  bad.head?.map fun b =>
    let phase := match (c.core q.place.core).window? q.launch ((q.exe.mslots.getD (bits b.2.1 31 30) none).getD 0) with
      | some w => w.phase % 256
      | none => 0
    { cause := 0x0A
      det := fld 62 (bits b.2.1 31 30) + fld 48 b.2.2.2 + fld 40 phase + fld 32 b.2.2.1 + (maskOf fun l => bad.any fun x => x.1 == l).toNat }

/-! ### Escort bounds (R165 to R167) -/

/-- Escorted requests that satisfy p, and their registers (R165). A request counts until it lands, its squad saved or not. -/
def Chip.escortsOut (c : Chip) (p : Request → Bool) : Nat × Nat :=
  let rs := c.requests.filter fun r => r.escorted && p r
  (rs.length, (rs.map fun r => r.escort.length).sum)

/-- Reservations of the squads that satisfy p: requests and registers (R166). -/
def Chip.escortsHeld (c : Chip) (p : Squad → Bool) : Nat × Nat :=
  let qs := c.squads.filter p
  ((qs.map (·.credit)).sum, (qs.map (·.creditRegs)).sum)

/-- Whether every bound of R165 has room for n more requests of a squad with r registers, beside what is outstanding and
reserved (R166, R167). -/
def Chip.escortRoom (c : Chip) (q : Squad) (n r : Nat) : Bool :=
  let mine := c.escortsOut fun r => r.agent == .squad q.uid
  let core := c.escortsOut fun r => r.core == q.place.core
  let here := fun (x : Squad) => x.place.core == q.place.core
  let held := c.escortsHeld here
  decide (mine.1 + (c.escortsHeld fun x => x.uid == q.uid).1 + n ≤ 8) && decide (core.1 + held.1 + n ≤ 2048) && decide (core.2 + held.2 + r ≤ 16384) &&
    (List.range 4).all fun k => match q.exe.mslots.getD k none with
      | none => true
      | some i =>
        let b := q.quota.getD k 0
        let out := c.escortsOut fun r => r.core == q.place.core && r.launch == q.launch && r.musters.contains i
        b == 0 || decide (out.1 + (c.escortsHeld fun x => here x && x.launch == q.launch && x.exe.mslots.contains (some i)).1 + n ≤ b)

/-! ### Registers leaving and coming back (R157, R158) -/

/-- The values of registers in all 32 lanes. -/
def Exe.regFile (e : Exe) (ns : List Nat) : RegFile := ns.map fun n => (n, (List.range 32).map fun l => e.reg n l)

/-- Clear registers that have left the store. -/
def Exe.clearRegs (e : Exe) (ns : List Nat) : Exe := { e with regs := e.regs.filter fun r => !ns.contains (r.1 / 32) }

/-- Put registers back into the store (R161). -/
def Exe.putRegs (e : Exe) (rf : RegFile) : Exe :=
  { e with regs := rf.foldl (fun m r => (r.2.mapIdx fun l v => (l, v)).foldl (fun m x => m.set 0 (32 * r.1 + x.1) x.2) m) e.regs }

/-- Registers of a squad that are abroad. -/
def Chip.abroad (c : Chip) (uid : Nat) : List Nat :=
  (c.requests.filter fun r => r.agent == .squad uid).flatMap fun r => r.escort.map (·.1)

/-- A squad's resident blocks once registers have left: a block whose eight registers are all abroad is released (R158). -/
def Squad.release (q : Squad) (away : List Nat) : Squad :=
  { q with resident := q.resident.filter fun k => (List.range 8).any fun i => !away.contains (8 * k + i) }

/-! ### Regions (R173, R174) -/

/-- The squad's own buffered bytes that a load reads, newest first (R173). -/
def Region.read (r : Region) (ls : List Loc) : List (Option Byte) :=
  let es := r.buf.reverse.flatMap fun b => b.lanes.reverse.map fun x => x.2.2
  ls.map fun l => es.findSome? fun bs => (bs.find? fun e => e.1 == l).map (·.2)

/-- A page fault in an open region (R174): the buffer is discarded, its pennants fall, the squad is parked, and active lanes
outside the region mask keep their place at this instruction. -/
def Squad.abortRegion (q : Squad) (fault va : Nat) : Squad :=
  match q.region with
  | none => q
  | some r =>
    let e := q.exe
    let q := r.buf.foldl (fun q b => q.lower b.pennant) q
    let q := q.setPc (e.active &&& ~~~r.mask) e.hdrAt e.pos false true
    let q := (q.saveLatch (e.active &&& ~~~r.mask)).dropLatch r.mask
    let q := match q.contEns with
      | some k => { (q.setStates (q.signers k) .eligible) with contEns := none, contLeft := some k }
      | none => q
    { q with
      region := some { r with buf := [] }, parked := some fault, parkedVa := va, restart := true, credit := 0, creditRegs := 0
      exe := { q.exe with active := 0, inClause := false } }

/-! ### L1 (R48) -/

/-- Bring the line that holds an address to a core's L1 of 2,048 lines (R9), if it is wholly in device memory; older copies of any of its bytes go
(R48, R52). (DESIGN CHOICE, log 89.) -/
def Chip.fillL1 (c : Chip) (n ctx va : Nat) : Chip :=
  let v := va / 128 * 128
  match c.xl n ctx {} v 128 with
  | .error _ => c
  | .ok ls =>
    let pas := ls.filterMap Loc.devPa?
    if pas.length = 128 then
      let x : L1Line := { ctx, va := v, pas, bytes := pas.map c.dev.byte }
      c.modCore n fun k => { k with l1 := x :: (k.l1.filter fun y => !(y.ctx == ctx && y.va == v) && !(y.pas.any pas.contains)).take 2047 }
    else c

/-- Invalidate every line of a core's L1 (R48). -/
def Chip.dropL1 (c : Chip) (n : Nat) : Chip := c.modCore n fun k => { k with l1 := [] }

/-! ### Issue -/

/-- Whether a lane of a mask has an acquire that has not completed: its later accesses wait for it (R47, R49). -/
def Chip.acquiring (c : Chip) (q : Squad) (m : LaneMask) : Bool :=
  c.requests.any fun r => r.agent == .squad q.uid && bit r.order 0 && r.accs.any fun a => m.getLsbD a.lane

/-- Whether an access is at system scope: named so, or to host or peer memory (R46). -/
def systemScope (scope : Nat) (x : LaneX) : Bool :=
  scope == 4 || match x with
    | .peer _ => true
    | .at (.host _ :: _) => true
    | _ => false

/-- Write a flag in lanes; 7 discards (R167, R196). -/
def Exe.setFlagIn (e : Exe) (k : Nat) (m : LaneMask) (v : Bool) : Exe := e.each m fun e l => e.setFlag k l v

/-- Set the try flag, if the form has one. -/
def MemOp.setTry (m : MemOp) (q : Squad) (g : LaneMask) (v : Bool) : Squad :=
  match m.tryFlag with
  | some k => { q with exe := q.exe.setFlagIn k.toNat g v }
  | none => q

/-- Data bytes of a lane's access: what it stores, its operand, or the new value of `cas` (R188, R191, R192). -/
def MemOp.dataOf (m : MemOp) (e : Exe) (l : Nat) : List Byte :=
  match m.kind with
  | .load => []
  | .cas w64 => leBytes m.size (match m.opnd with
    | some x => e.src w64 x.2 l
    | none => if w64 then e.regPair (m.data.toNat + 2) l else (e.reg (m.data.toNat + 1) l).toNat)
  | _ => leBytes m.size (e.src m.wide ((m.opnd.map (·.1)).getD m.data) l)

/-- Compare bytes of `cas` (R192). -/
def MemOp.cmpOf (m : MemOp) (e : Exe) (l : Nat) : List Byte :=
  match m.kind with
  | .cas w64 => leBytes m.size (e.src w64 ((m.opnd.map (·.1)).getD m.data) l)
  | _ => []

/-- The access record of a lane, with a fault opened for a page that is not present (R178). -/
def Chip.access (c : Chip) (q : Squad) (m : MemOp) (l : Nat) (x : LaneX) : Access × Chip :=
  let va := c.laneVa q m l
  let a : Access :=
    { lane := l, va, data := m.dataOf q.exe l, cmp := m.cmpOf q.exe l
      unsup := c.unsupported q.exe.ctx m.kind m.size va x
      elem := if m.atomic || m.space == .scr then 0 else c.elemOf q.exe.ctx va m.size }
  match x with
  | .at ls => ({ a with locs := ls, onTop := match m.kind, q.region with
      | .load, some r => r.read ls
      | _, _ => [] }, c)
  | .peer p => ({ a with fab := some p }, c)
  | .absent page =>
    let r := c.openFault q.exe.ctx page q.place.core false m.kind.need
    ({ a with status := .faulted r.1 }, r.2)
  | _ => (a, c)

/-- Access records of lanes in ascending order. -/
def Chip.accesses (c : Chip) (q : Squad) (m : MemOp) : List (Nat × LaneX) → List Access × Chip
  | [] => ([], c)
  | (l, x) :: xs =>
    let a := c.access q m l x
    let r := a.2.accesses q m xs
    (a.1 :: r.1, r.2)

/-- Fabric operation code of an atomic (R317). -/
def atomFab : Sys2Proof.AtomOp → Nat
  | .add32 | .add64 => 0
  | .and32 | .and64 => 1
  | .or32 | .or64 => 2
  | .xor32 | .xor64 => 3
  | .swap32 | .swap64 => 4
  | .minS32 | .minS64 => 5
  | .minZ32 | .minZ64 => 6
  | .maxS32 | .maxS64 => 7
  | .maxZ32 | .maxZ64 => 8
  | _ => 9

/-- Operation code that this model gives a compare-and-swap packet (the spec assigns 0 to 9 and names none for it). (DESIGN CHOICE, log 37.) -/
def fabCas : Nat := 10

/-- The packet of one lane's aperture access, other than a store (R303, R304, R315). -/
def Chip.lanePacket (c : Chip) (core : Nat) (kind : AccKind) (size : Nat) (ordered : Bool) (a : FabAddr) (data cmp : List Byte) : Packet :=
  let die := c.die core
  match kind with
  | .atom op _ => { c.fab.header die 2 0 ordered a size data with operation := BitVec.ofNat 4 (atomFab op) }
  | .cas _ => { c.fab.header die 2 0 ordered a (2 * size) (cmp ++ data) with operation := BitVec.ofNat 4 fabCas }
  | _ => c.fab.header die 0 0 ordered a size []

/-- Send what an access needs through the fabric: nothing for one that stays on the device or that the context engine
services (R181). -/
def Chip.sendAccess (c : Chip) (r : Request) (ordered : Bool) (a : Access) : Chip :=
  match a.fab with
  | none => c
  | some p =>
    if a.unsup then c
    else
      let uid := match r.agent with
        | .squad u => u
        | .thread _ _ => 0
      match r.kind with
      | .store => c.wcStore r.core r.ctx uid r.id a.va p a.data
      | k => c.sendRequest (c.die r.core) (c.lanePacket r.core k r.size ordered p a.data a.cmp) (.lane r.id a.lane) r.ctx [uid]

/-- Hand a request to the engine: pennant raised, registers leave or become pending, packets sent (R12, R157 to R159, R315).
An awaited access and an unsupported atomic hold the squad at the instruction (R181, R316). (DEDUCED, log 34.) -/
def Chip.sendReq (c : Chip) (q : Squad) (m : MemOp) (ordered : Bool) (g : LaneMask) (xs : List (Nat × LaneX)) : Res :=
  let va := fun (l : Nat) => c.laneVa q m l
  let c := xs.foldl (fun c x => match x.2 with
    | .at _ => if m.space = .scr then c else c.fillTlb q.place.core q.exe.ctx (va x.1)
    | .peer _ => c.fillFab q.place.core q.exe.ctx (va x.1)
    | _ => c) c
  let as := c.accesses q m xs
  let c := as.2
  let pn := q.exe.pennant m.ps
  let r : Request :=
    { id := c.nextId, agent := .squad q.uid, ctx := q.exe.ctx, core := q.place.core, launch := q.launch, musters := q.exe.mslots.filterMap id, kind := m.kind
      size := m.size, accs := as.1
      scope := if m.space = .scr then min m.scope 1 else m.scope, order := m.order, scratch := m.space == .scr
      dst := if m.ret then some m.data else none, ty := m.ty, dstRegs := if m.escorted then [] else m.dstRegs
      escorted := m.escorted, escort := q.exe.regFile m.escortSet, pennant := pn
      instrAt := q.exe.wordAt, hdrAt := q.exe.hdrAt, inRegion := q.region.isSome, ordered }
  let hold := as.1.any (·.unsup) || (m.ret && m.space == .glob && xs.any fun x => bit (va x.1) 56)
  let q := m.setTry (q.raise pn) g true
  let q := if m.escorted then
      { (Squad.release q (c.abroad q.uid ++ m.escortSet)) with
        exe := q.exe.clearRegs m.escortSet
        credit := if m.tryFlag.isSome then q.credit else q.credit - 1
        creditRegs := if m.tryFlag.isSome then q.creditRegs else q.creditRegs - m.escortSet.length }
    else q
  let q := if hold then { q with awaiting := some r.id } else q
  let c := { c.setSquad q with requests := c.requests ++ [r], nextId := c.nextId + 1 }
  let c := as.1.foldl (fun c a => c.sendAccess r ordered a) (if as.1.any (·.fab.isSome) then c.nextMessage (c.die r.core) else c)
  if hold then .left c else .done c

/-- Buffer a store in the open region (R173). -/
def Chip.bufferStore (c : Chip) (q : Squad) (m : MemOp) (xs : List (Nat × LaneX)) : Chip :=
  let c := if m.space = .scr then c else xs.foldl (fun c x => c.fillTlb q.place.core q.exe.ctx (c.laneVa q m x.1)) c
  let pn := q.exe.pennant m.ps
  let b : BufStore :=
    { scope := m.scope, order := m.order, pennant := pn
      lanes := xs.filterMap fun x => match x.2 with
        | .at ls => some (x.1, c.laneVa q m x.1, ls.zip (m.dataOf q.exe x.1))
        | _ => none }
  c.setSquad { (q.raise pn) with region := q.region.map fun r => { r with buf := r.buf ++ [b] } }

/-- Whether a lane's access goes to a peer. -/
def LaneX.isPeer : LaneX → Bool
  | .peer _ => true
  | _ => false

/-- Whether a memory instruction ends the open region: an atomic, an escorted store, a store to a peer, or a store that finds the buffer full (R173,
R175). -/
def MemOp.ends (m : MemOp) (q : Squad) (peer : Bool) : Bool :=
  q.region.elim false fun r => m.atomic || (m.kind == .store && (m.escorted || peer || decide (32 ≤ r.buf.length)))

/-- Whether an aperture store must wait: an earlier access of its lane to the same bytes that is no store is not performed (R51, R52). What it merged
into a write-combining entry could not be held back from the entry's packet. -/
def Chip.wcHeld (c : Chip) (q : Squad) (n : Nat) (xs : List (Nat × LaneX)) : Bool :=
  xs.any fun x => match x.2 with
    | .peer p => c.requests.any fun r => r.agent == .squad q.uid && r.kind != .store && r.peerOpen p n fun l => l == x.1
    | _ => false

/-- Issue for lanes that passed every check: release waits, the region's buffer, the request. -/
def Chip.issueMem (c : Chip) (q : Squad) (m : MemOp) (ordered : Bool) (g : LaneMask) (xs : List (Nat × LaneX)) : Res :=
  let peer := xs.any fun x => x.2.isPeer
  if bit m.order 1 ∧ (xs.any fun x => systemScope m.scope x.2) ∧ ((c.core q.place.core).wc.any fun w => w.squads.contains q.uid) then .stall (c.drainWc q.uid)
  else if m.kind == .store && c.wcHeld q m.size xs then .stall c
  else if peer ∧ m.order ≠ 0 ∧ c.earlier (.squad q.uid) c.nextId g then .stall c
  else
    let c := if m.kind = .store ∧ m.space = .scr then xs.foldl (fun c x => match x.2 with
      | .at ls => c.raceMark q.place ls
      | _ => c) c else c
    if m.kind = .store ∧ q.region.isSome then .done (c.bufferStore q m xs) else c.sendReq q m ordered g xs

/-- The lanes of a memory instruction whose translations hold no access fault: a page that is not present aborts an open region (R174); lanes are switched
off, races found, and the rest issues (R171, R60). -/
def Chip.goMem (c : Chip) (q : Squad) (m : MemOp) (ordered : Bool) (g : LaneMask) (xs : List (Nat × LaneX)) : Res :=
  match q.region, xs.find? fun x => match x.2 with
      | .absent _ => true
      | _ => false with
  | some _, some (_, .absent page) =>
    let r := c.openFault q.exe.ctx page q.place.core false m.kind.need
    .left (r.2.modSquad q.uid fun q => q.abortRegion r.1 page)
  | _, _ =>
    let off := maskOf fun l => xs.any fun x => x.1 == l && x.2 == .off
    let live := xs.filter fun x => x.2 != .off
    let q' := if off = 0 then q else q.switchOff off
    let race := if m.space = .scr ∧ !m.atomic then
        c.raceTrap q (live.filterMap fun x => match x.2 with
          | .at ls => some (x.1, m.ea q.exe x.1, ls)
          | _ => none)
      else none
    match race with
    | some t => .trapIn (c.setSquad q') t
    | none => if live.isEmpty then .done (c.setSquad q') else (c.setSquad q').issueMem q' m ordered (g &&& ~~~off) live

/-- Step 6 of R185 and the issue, where the instruction that ends the open region has its stores performed first (R175). -/
def Chip.startMem (c : Chip) (q : Squad) (m : MemOp) (ordered : Bool) (g : LaneMask) : Res :=
  let xs := (lanesOf g).map fun l => (l, c.lane q m l)
  match xs.find? fun x => match x.2 with
      | .fault _ => true
      | _ => false with
  | some (l, .fault r) => .trap (accessFault r (if m.space = .stack then m.ea q.exe l else c.laneVa q m l))
  | _ =>
    if xs.any fun x => match x.2 with
        | .absent page => c.walkHeld q.exe.ctx page
        | _ => false then .stall c
    else if m.ends q (xs.any fun x => x.2.isPeer) || c.committing q.uid then c.endRegion q fun c => c.goMem { q with region := none } m ordered g xs
    else c.goMem q m ordered g xs

/-- A memory instruction (R185): checks, the waits before it issues (R12, R47), the room check of a `.try` form (R167), then
translation, lane checks and issue. -/
def MemOp.run (m : MemOp) (c : Chip) (q : Squad) : Res :=
  match m.check q.exe with
  | .error t => .trap t
  | .ok _ =>
    let g := q.exe.acting m.g
    if g = 0 then .done c
    else if c.acquiring q g || q.pennantFull (q.exe.pennant m.ps) then .stall c
    else if m.tryFlag.isSome && !c.escortRoom q 1 m.escortSet.length then .done (c.setSquad (m.setTry q g false))
    else c.startMem q m false g

/-- A memory instruction as a meaning. -/
def memInstr (m : MemOp) (s : State) : Host.Outcome State Fault Refusal := onSquad s [0] (fun _ => m.uses) m.run

/-! ### Loads and stores (R187 to R189) -/

/-- `ld`. -/
def execLd (f : FormM) (t : IntTy) := memInstr (opM f .glob .load t)
/-- `ld.try`. -/
def execLdTry (f : FormT) (t : IntTy) := memInstr (opT f .glob .load t)
/-- `st`. -/
def execSt (f : FormM) (t : IntTy) := memInstr (opM f .glob .store t)
/-- `st.try`. -/
def execStTry (f : FormT) (t : IntTy) := memInstr (opT f .glob .store t)
/-- `lds`. -/
def execLds (f : FormM) (t : IntTy) := memInstr (opM f .scr .load t)
/-- `lds.try`. -/
def execLdsTry (f : FormT) (t : IntTy) := memInstr (opT f .scr .load t)
/-- `sts`. -/
def execSts (f : FormM) (t : IntTy) := memInstr (opM f .scr .store t)
/-- `sts.try`. -/
def execStsTry (f : FormT) (t : IntTy) := memInstr (opT f .scr .store t)
/-- `ldk` (R189). -/
def execLdk (f : FormM) (t : IntTy) := memInstr (opM f .stack .load t)
/-- `stk` (R189). -/
def execStk (f : FormM) (t : IntTy) := memInstr (opM f .stack .store t)

/-! ### pref (R190) -/

/-- `pref`: an access of one byte, so that its offset counts bytes. -/
def prefOp (f : FormM) : MemOp := opM f .glob .load .z8

/-- Checks of `pref`: a misaligned address is no error (R190). -/
def chkPref (f : FormM) (e : Exe) : Except Trap Unit := do
  e.chkSrc 1 (.gen true) f.addr
  if f.scope ≠ 1 ∧ f.scope ≠ 2 then throw (e.operand 6)
  if f.order ≠ 0 then throw (e.operand 6)
  if f.mask ≠ 0 then throw (e.operand 7)
  if (lanesOf (e.acting f.g)).any fun l => decide (2 ^ 57 ≤ (prefOp f).ea e l) then throw (e.operand 1)

/-- The lines of scope 1 reach L1, but for window addresses and what does not translate (R190). (DEDUCED, log 47.) -/
def squadPref (f : FormM) (c : Chip) (q : Squad) : Res :=
  match chkPref f q.exe with
  | .error t => .trap t
  | .ok _ =>
    if f.scope = 2 then .done c
    else .done ((lanesOf (q.exe.acting f.g)).foldl (fun c l =>
      let va := (prefOp f).ea q.exe l
      if ((c.ctx? q.exe.ctx).bind fun x => x.view? va).isSome then c
      else match c.xlByte q.place.core q.exe.ctx { r := true } va with
        | .ok _ => c.fillL1 q.place.core q.exe.ctx va
        | .error _ => c) c)

/-- `pref`. -/
def execPref (f : FormM) := fun (s : State) => onSquad s [0] (fun _ => codeRegs true f.addr) (squadPref f)

/-! ### Atomics (R191, R192) -/

/-- The type that sizes an atomic's operand. -/
def atomTy : AtomOp → IntTy
  | .add64 | .minZ64 | .maxZ64 | .and64 | .or64 | .xor64 | .swap64 => .z64
  | .minS64 | .maxS64 => .s64
  | .minS32 | .maxS32 => .s32
  | _ => .z32

/-- The type that sizes `cas`. -/
def casTy (w64 : Bool) : IntTy := if w64 then .z64 else .z32

/-- `cas`. -/
def execCas (f : FormM) (w64 : Bool) := memInstr (opM f .glob (.cas w64) (casTy w64))
/-- `cas.scr`. -/
def execCasScr (f : FormM) (w64 : Bool) := memInstr (opM f .scr (.cas w64) (casTy w64))
/-- `cas.try` and `cas.scr.try`. -/
def execCasTry (f : FormT) (scr w64 : Bool) := memInstr (opT f (if scr then .scr else .glob) (.cas w64) (casTy w64))
/-- `atom`. -/
def execAtom (f : FormM) (k : AtomOp) := memInstr (opM f .glob (.atom k true) (atomTy k))
/-- `red`. -/
def execRed (f : FormM) (k : AtomOp) := memInstr (opM f .glob (.atom k false) (atomTy k))
/-- `atom.scr`. -/
def execAtomScr (f : FormM) (k : AtomOp) := memInstr (opM f .scr (.atom k true) (atomTy k))
/-- `red.scr`. -/
def execRedScr (f : FormM) (k : AtomOp) := memInstr (opM f .scr (.atom k false) (atomTy k))

end Sys2Proof.Machine
end

