-- ==== Sys2Proof/Machine/Requests.lean ====
section
/-! DEFINITION. Requests after their issue: performing at the home (R47, R180, R181, R191, R192), landing in blocks, in the
landing buffer, in a block area or in a save image (R161 to R164, R357), completion (R13) and the failures reported later
(R179, R316). -/

namespace Sys2Proof.Machine

/-! ### Atomic operations (R191) -/

/-- Smaller or larger of two patterns of w bits, signed or unsigned. -/
def pickW (isMax sgn : Bool) (w a b : Nat) : Nat :=
  let v := fun x => if sgn then signed w x else ((x % 2 ^ w : Nat) : Int)
  if (if isMax then decide (v a < v b) else decide (v b < v a)) then b else a

/-- OP_k of R191 on patterns. -/
def atomApply (op : AtomOp) (old v : Nat) : Nat :=
  match op with
  | .add32 => (old + v) % 2 ^ 32
  | .add64 => (old + v) % 2 ^ 64
  | .minS32 => pickW false true 32 old v
  | .minZ32 => pickW false false 32 old v
  | .minS64 => pickW false true 64 old v
  | .minZ64 => pickW false false 64 old v
  | .maxS32 => pickW true true 32 old v
  | .maxZ32 => pickW true false 32 old v
  | .maxS64 => pickW true true 64 old v
  | .maxZ64 => pickW true false 64 old v
  | .and32 | .and64 => old &&& v
  | .or32 | .or64 => old ||| v
  | .xor32 | .xor64 => old ^^^ v
  | .swap32 | .swap64 => v
  | .fadd => add32 old v
  | .fmin => fMinMax false old v
  | .fmax => fMinMax true old v

/-- Lock of an unsupported-atomic service (R181). (DEDUCED, log 36.) -/
def lockOf (pa : Nat) : Nat := ((pa / 8) ^^^ (pa / 2 ^ 15)) % 4096

/-! ### Performing (R47) -/

/-- Change one lane's access of a request. -/
def Chip.modAccess (c : Chip) (id lane : Nat) (f : Access → Access) : Chip :=
  c.modRequest id fun r => { r with accs := r.accs.map fun a => if a.lane = lane then f a else a }

/-- Whether a lane of a mask has a non-relaxed access or an arrival, which is a release, still to be performed that the agent issued below a number
(R49, R195). -/
def Chip.earlierOrdered (c : Chip) (a : Agent) (below : Nat) (m : LaneMask) : Bool :=
  (c.requests.any fun r => r.agent == a && decide (r.id < below) && r.order != 0 && r.accs.any fun x => x.open_ && r.by x m) ||
    c.arriving a below m

/-- Whether the order of a request holds a lane's access back (R49): a release waits for everything earlier of the lane, an access that is not
relaxed for every earlier one that is not. -/
def Chip.orderHeld (c : Chip) (r : Request) (lane : Nat) : Bool :=
  let m := maskOf fun l => l == lane
  (bit r.order 1 && c.earlier r.agent r.id m) || (r.order != 0 && c.earlierOrdered r.agent r.id m)

/-- Whether an earlier store of the same ending region still has to be performed in a lane (R56). -/
def Chip.earlierCommit (c : Chip) (r : Request) (lane : Nat) : Bool :=
  r.commit && c.requests.any fun x => x.agent == r.agent && x.commit && decide (x.id < r.id) && x.accs.any fun a => a.open_ && a.lane == lane

/-- Whether a lower lane of the request still has to be performed at one of these locations (R186). -/
def Request.lowerAt (r : Request) (a : Access) : Bool :=
  r.kind != .load && r.accs.any fun x => decide (x.lane < a.lane) && x.open_ && x.locs.any a.locs.contains

/-- Whether every scratch line of the locations is present (R170). -/
def Chip.present (c : Chip) (ls : List Loc) : Bool :=
  ls.all fun l => match l with
    | .scr n b => !Sparse.get false (c.core n).absent (b / 128)
    | _ => true

/-- Whether a lane's access may be performed now; one to a row that is being copied waits (R381). The reads and writes of a quarry thread are unordered (R55). -/
def Chip.canPerform (c : Chip) (r : Request) (a : Access) : Bool :=
  a.status == .waiting && !a.locs.isEmpty && !a.unsup && !r.lowerAt a && !c.inCopy a.locs &&
    (match r.agent with
      | .squad _ => !c.orderHeld r a.lane && !c.earlierAt r.agent r.id a.lane a.locs && !c.earlierCommit r a.lane
      | .thread _ _ => true) &&
    (r.kind != .load || c.present a.locs) &&
    (match r.kind, a.locs with
      | .atom _ _, .host pa :: _ => !c.locks.contains (lockOf pa)
      | .cas _, .host pa :: _ => !c.locks.contains (lockOf pa)
      | _, _ => true)

/-- Bytes that L1 holds for a load, if it holds the line (R48). (DEDUCED, log 11.) -/
def Chip.l1Read (c : Chip) (r : Request) (a : Access) : Option (List Byte) :=
  if 1 < r.scope then none
  else match (c.core r.core).l1.find? fun x => x.ctx == r.ctx && x.va == a.va / 128 * 128 with
    | none => none
    | some x => a.locs.mapM fun l => match l with
        | .dev pa => ((x.pas.zip x.bytes).find? fun e => e.1 == pa).map (·.2)
        | _ => none

/-- Whether any location is device memory with an uncorrectable error (R383). -/
def Chip.anyBad (c : Chip) (ls : List Loc) : Bool := ls.any fun l => match l with
  | .dev pa => Sparse.get false c.bad pa
  | _ => false

/-- Replace the bytes that the squad's region buffer holds (R173). -/
def overlay (onTop : List (Option Byte)) (bs : List Byte) : List Byte := bs.mapIdx fun i b => ((onTop[i]?).join).getD b

/-- Whether the locations are in host memory. -/
def onHost (ls : List Loc) : Bool := match ls with
  | .host _ :: _ => true
  | _ => false

/-- Perform one access of a lane whole at its home (R47, R191, R192): an acquire at die scope or wider then invalidates L1, and a load from device
memory refills its line (R48). -/
def Chip.performWhole (c : Chip) (r : Request) (a : Access) (fromL1 : Bool) : Chip :=
  let c := if r.scratch then c else c.touch r.launch a.va a.locs.length
  let set := fun (c : Chip) (st : AccStatus) => c.modAccess r.id a.lane fun a => { a with status := st }
  let old := ofLe (c.readLocs a.locs)
  let c1 := if bit r.order 0 && (decide (2 ≤ r.scope) || onHost a.locs) then c.dropL1 r.core else c
  match r.kind with
  | .load =>
    match (if fromL1 then c.l1Read r a else none) with
    | some bs => set c (.done (overlay a.onTop bs))
    | none =>
      if c.anyBad a.locs then set c (.failed 4)
      else set (if r.scratch || onHost a.locs then c1 else c1.fillL1 r.core r.ctx a.va) (.done (overlay a.onTop (c.readLocs a.locs)))
  | .store => set (c.storeAt r.core r.ctx a.va a.locs a.data) (.done [])
  | .atom op _ =>
    if c.anyBad a.locs then set c (.failed 4)
    else set (c1.writeAt r.core r.ctx a.va a.locs (leBytes r.size (atomApply op old (ofLe a.data)))) (.done (leBytes r.size old))
  | .cas _ =>
    if c.anyBad a.locs then set c (.failed 4)
    else set (if old = ofLe a.cmp then c1.writeAt r.core r.ctx a.va a.locs a.data else c1.l1Sync r.core r.ctx a.va a.locs) (.done (leBytes r.size old))

/-- Perform one element of an access that a view window splits (R45); the access is over when the last of its elements is. Which element goes next is
open: a free value. -/
def Chip.performPart (c : Chip) (r : Request) (a : Access) (fromL1 : Bool) : Chip :=
  let left := (List.range (r.size / a.elem)).filter fun i => !a.parts.any fun p => p.1 == i
  let v := c.free
  let i := left.getD (v.1.toNat % left.length) 0
  let cut := fun {α : Type} (xs : List α) => (xs.drop (i * a.elem)).take a.elem
  let d := v.2.performWhole r { a with va := a.va + i * a.elem, locs := cut a.locs, data := cut a.data, onTop := cut a.onTop } fromL1
  match (((d.request? r.id).bind fun r => r.accs.find? fun x => x.lane == a.lane).getD a).status with
  | .done bs =>
    let parts := (i, bs) :: a.parts
    let all := (List.range (r.size / a.elem)).flatMap fun i => ((parts.find? fun p => p.1 == i).map (·.2)).getD []
    d.modAccess r.id a.lane fun x => { x with parts, status := if left.length ≤ 1 then .done (if r.kind = .load then all else []) else .waiting }
  | _ => d

/-- Perform one lane's access, or the next element of it. -/
def Chip.performLane (c : Chip) (r : Request) (a : Access) (fromL1 : Bool) : Chip :=
  if a.elem = 0 then c.performWhole r a fromL1 else c.performPart r a fromL1

/-- Perform the lanes of a list that may be performed, in ascending order. (DEDUCED, log 87.) -/
def Chip.performLanes (c : Chip) (id : Nat) (fromL1 : Bool) : List Nat → Chip
  | [] => c
  | l :: ls =>
    let c := match c.request? id with
      | none => c
      | some r => match r.accs.find? fun (a : Access) => a.lane == l with
        | none => c
        | some a => if c.canPerform r a then c.performLane r a fromL1 else c
    c.performLanes id fromL1 ls

/-- Whether a router may merge two accesses (R180). -/
def mergeable (r s : Request) (a b : Access) : Bool :=
  r.kind == s.kind && r.size == s.size && r.order == 0 && s.order == 0 && r.scope == s.scope && !r.escorted && !s.escorted &&
    a.locs == b.locs && !onHost a.locs && !r.scratch && !a.locs.isEmpty && (r.id != s.id || a.lane != b.lane) &&
    match r.kind with
    | .atom .swap32 _ => false
    | .atom .swap64 _ => false
    | .atom _ ret => !ret
    | _ => false

/-- Perform two merged atomics as one access (R180): both operands combined, then applied. Each request completes with it, or fails with it; the second
is one that could be performed right after the first. Both cores' L1 follow (R52). -/
def Chip.performMerged (c : Chip) (id lane id2 lane2 : Nat) : Chip :=
  match c.request? id, c.request? id2 with
  | some r, some s => match r.accs.find? (fun (a : Access) => a.lane == lane), s.accs.find? (fun (a : Access) => a.lane == lane2), r.kind with
    | some a, some b, .atom op _ =>
      let after := c.modAccess id lane fun a => { a with status := .done [] }
      if mergeable r s a b && c.canPerform r a && ((after.request? id2).any fun s => after.canPerform s b) then
        let d := { a with data := leBytes r.size (atomApply op (ofLe a.data) (ofLe b.data)) }
        let c := (c.performWhole r d false).touch s.launch b.va s.size
        let st := (((c.request? id).bind fun r => r.accs.find? fun (x : Access) => x.lane == lane).map (·.status)).getD .waiting
        (c.modAccess id2 lane2 fun b => { b with status := st }).l1Sync s.core s.ctx b.va b.locs
      else c
    | _, _, _ => c
  | _, _ => c

/-! ### Landing (R161 to R164) -/

/-- Register writes of the lanes that returned a value: register, lane, word (R99, R187, R191, R192); 32 registers of
a matrix load (R255). -/
def Request.results (r : Request) : List (Nat × Nat × Word) :=
  match r.dst with
  | none => []
  | some code =>
    if 0xF0 ≤ code.toNat then []
    else r.accs.flatMap fun a => match a.status with
      | .done bs =>
        let v := PUT r.ty (VAL r.ty (ofLe bs))
        if r.size = 128 then (List.range 32).map fun k => (code.toNat + k, a.lane, BitVec.ofNat 32 (ofLe ((bs.drop (4 * k)).take 4)))
        else if r.size = 8 then [(code.toNat, a.lane, BitVec.ofNat 32 v), (code.toNat + 1, a.lane, BitVec.ofNat 32 (v / 2 ^ 32))]
        else [(code.toNat, a.lane, BitVec.ofNat 32 v)]
      | _ => []

/-- The escort as it comes back: unchanged but for the results (R161). -/
def Request.returned (r : Request) : RegFile :=
  r.escort.map fun e => (e.1, e.2.mapIdx fun l v => ((r.results.find? fun x => x.1 == e.1 && x.2.1 == l).map (·.2.2)).getD v)

/-- Registers as they come back to a squad: the words of exited lanes are discarded (R141). -/
def Squad.keepLive (q : Squad) (rf : RegFile) : RegFile := rf.map fun e => (e.1, e.2.mapIdx fun l v => if q.live l then v else q.exe.reg e.1 l)

/-- All words that landing writes: the whole escort, or the results. -/
def Request.words (r : Request) : List (Nat × Nat × Word) :=
  if r.escorted then r.returned.flatMap fun e => e.2.mapIdx fun l v => (e.1, l, v) else r.results

/-- Write registers into a squad's block area (R163, R164); none where the area does not translate now or lies in a row that is
being copied (R381). -/
def Chip.blockAreaWrite (c : Chip) (q : Squad) (ws : List (Nat × Nat × Word)) : Option Chip :=
  ws.foldl (fun (c : Option Chip) w => c.bind fun c =>
    match c.xl q.place.core q.exe.ctx { w := true } (c.stackArea q + 128 * w.1 + 4 * w.2.1) 4 with
    | .ok ls => if c.inCopy ls then none else some (c.writeLocs ls (leBytes 4 w.2.2.toNat))
    | .error _ => none) (some c)

/-- Base of a save image (R356). -/
def Chip.image (c : Chip) (ctx slot : Nat) : Nat := ((c.ctx? ctx).map (·.imgBase)).getD 0 + 32768 * slot

/-- Muster slots of a saved squad, as its image holds them (R30, R356). -/
def Chip.savedSlots (c : Chip) (x : Nat) (s : SavedSquad) : List (Option Nat) :=
  (List.range 4).map fun k => let w := c.dev.le (c.image x s.slot + 0x10 + 4 * k) 4; if bit w 31 then some (bits w 7 0) else none

/-- How many registers below n a register map names. -/
def mapRank (map n : Nat) : Nat := ((List.range n).filter fun i => bit map i).length

/-- Write registers into a save image; those the map leaves out are discarded (R357). -/
def Chip.imageWrite (c : Chip) (base : Nat) (ws : List (Nat × Nat × Word)) : Chip :=
  let map := c.dev.le (base + 0x700) 32
  ws.foldl (fun c w => if bit map w.1 then c.devPut (base + 0x800 + 128 * mapRank map w.1 + 4 * w.2.1) 4 w.2.2.toNat else c) c

/-- A reply for a saved squad: the registers of its lanes that have not exited (R141), its pennant, the abroad count (R357). -/
def Chip.imageLand (c : Chip) (base : Nat) (s : SavedSquad) (r : Request) : Chip :=
  let c := c.imageWrite base (r.words.filter fun w => s.st.getD w.2.1 .exited != .exited)
  let c := match r.pennant with
    | some k => c.devPut (base + 0x60 + k) 1 (c.dev.le (base + 0x60 + k) 1 - 1)
    | none => c
  c.devPut base 4 (c.dev.le base 4 - 1)

/-- Registers in a bench's landing buffer (R162). -/
def Bench.buffered (b : Bench) : Nat := (b.landing.map fun l => l.regs.length).sum

/-- Land an escort for a squad on its bench (R162): in blocks, else in the landing buffer; none where there is no room. -/
def Chip.landEscort (c : Chip) (q : Squad) (rf : RegFile) : Option Chip :=
  let need := (blocksOf (rf.map (·.1))).filter fun k => !q.resident.contains k
  if need.length ≤ c.pool q.place.core q.place.bench then
    some (c.modSquad q.uid fun q => { q with exe := q.exe.putRegs (q.keepLive rf), resident := q.resident ++ need })
  else if (c.bench q.place.core q.place.bench).buffered + rf.length ≤ 512 then
    some (c.modBench q.place.core q.place.bench fun b => { b with landing := b.landing ++ [{ uid := q.uid, regs := rf }] })
  else none

/-- Land the registers of a completed request for a squad that is on its bench or evicted (R162, R163); what returns for an exited lane is discarded
(R141). -/
def Chip.landRegs (c : Chip) (q : Squad) (r : Request) : Option Chip :=
  if q.evicted.isSome then c.blockAreaWrite q (r.words.filter fun w => q.live w.2.1)
  else if r.escorted then c.landEscort q r.returned
  else some (c.modSquad q.uid fun q => { q with exe := (r.results.filter fun w => q.live w.2.1).foldl (fun e w => e.setReg w.1 w.2.1 w.2.2.toNat) q.exe })

/-- Lanes of a request whose access ended with a reason, and the lowest of them. -/
def Request.failedLanes (r : Request) : List (Nat × Nat × Nat) := r.accs.filterMap fun a => match a.status with
  | .failed k => some (a.lane, a.va, k)
  | _ => none

/-- Lanes whose peer refused, with address and cause (R316). -/
def Request.refusedLanes (r : Request) : List (Nat × Nat × Nat) := r.accs.filterMap fun a => match a.status with
  | .refused k => some (a.lane, a.va, k)
  | _ => none

/-- The mask of the lanes of a list. -/
def maskList (xs : List (Nat × Nat × Nat)) : LaneMask := maskOf fun l => xs.any fun x => x.1 == l

/-- The access-fault trap that a request puts off to its squad's next clause start, where no earlier one waits (R179, R383). (DEDUCED, log 22.) -/
def Request.defer (r : Request) (d : Option Deferred) : Option Deferred :=
  match d, r.failedLanes with
  | some d, _ => some d
  | none, [] => none
  | none, x :: xs => some { addr := r.instrAt, mask := maskList (x :: xs), va := x.2.1, reason := x.2.2, atStart := true }

/-- Put off the trap of a request's failed lanes (R179). -/
def Squad.defer (q : Squad) (r : Request) : Squad := { q with deferred := r.defer q.deferred }

/-- The poisoned-remote-load trap (R316). -/
def Request.poison (r : Request) : Option Trap := r.refusedLanes.head?.map fun x =>
  { cause := 0x0B, det := fld 56 x.2.2 + x.2.1 % 2 ^ 56, lanes := some (maskList r.refusedLanes) }

/-- A squad's request is complete: the pennant falls, failures are put off, and an instruction that awaited it ends (R13,
R181, R316). A refused access without return only leaves its record (R317). -/
def Chip.finishReq (c : Chip) (q : Squad) (r : Request) : Chip :=
  let c := (c.dropRequest r.id).modSquad q.uid fun q => (q.lower r.pennant).defer r
  if q.awaiting = some r.id then
    let c := c.modSquad q.uid fun q => { q with awaiting := none }
    match r.poison with
    | some t => c.takeTrap q.uid t
    | none => let t := c.turn
              { (c.advance q.uid) with turn := t }
  else c

/-- Whether every access of a request is over. -/
def Request.isOver (r : Request) : Bool := !r.accs.any Access.open_

/-- Whether a completed request has anything to bring back to its squad: a result or an escort (R161). -/
def Request.returns (r : Request) : Bool := r.dst.isSome || r.escorted

/-- A store or an atomic without return completes when it is performed (R13). -/
def Chip.settleReq (c : Chip) (id : Nat) : Chip :=
  match c.request? id with
  | none => c
  | some r => if r.isOver && !r.returns then match r.agent with
      | .squad uid => match c.squad? uid with
        | some q => c.finishReq q r
        | none => c.dropRequest id
      | .thread _ _ => c
    else c

/-- The saved squad of a name, with its context. -/
def Chip.saved? (c : Chip) (uid : Nat) : Option (Nat × SavedSquad) :=
  c.coreSets.findSome? fun s => (s.squads.find? fun q => q.uid == uid).map fun q => (s.ctx, q)

/-- Change a saved squad. -/
def Chip.modSaved (c : Chip) (uid : Nat) (f : SavedSquad → SavedSquad) : Chip :=
  { c with coreSets := c.coreSets.map fun s => { s with squads := s.squads.map fun q => if q.uid = uid then f q else q } }

/-- Move whole escorts from the landing buffer into blocks, oldest first, as far as blocks allow (R162). -/
def Chip.moveLanded (c : Chip) (n b : Nat) : Nat → Chip
  | 0 => c
  | k + 1 => match (c.bench n b).landing with
    | [] => c
    | l :: _ => match c.squad? l.uid with
      | none => (c.modBench n b fun x => { x with landing := x.landing.drop 1 }).moveLanded n b k
      | some q =>
        let need := (blocksOf (l.regs.map (·.1))).filter fun j => !q.resident.contains j
        if need.length ≤ c.pool n b then
          ((c.modSquad q.uid fun q => { q with exe := q.exe.putRegs (q.keepLive l.regs), resident := q.resident ++ need }).modBench n b
            fun x => { x with landing := x.landing.drop 1 }).moveLanded n b k
        else c

/-- Land a completed request; nothing changes where it cannot land now (R162, R163, R357). What the landing buffer can move goes before an escort (R162). -/
def Chip.landReq (c : Chip) (id : Nat) : Chip :=
  match c.request? id with
  | none => c
  | some r =>
    if !r.isOver || !r.returns then c
    else match r.agent with
      | .thread _ _ => c
      | .squad uid => match c.squad? uid with
        | some q =>
          let c := if r.escorted && c.moveDue q.place.core q.place.bench then
              c.moveLanded q.place.core q.place.bench (c.bench q.place.core q.place.bench).landing.length
            else c
          let q := (c.squad? uid).getD q
          match c.landRegs q r with
          | some c => c.finishReq q r
          | none => c
        | none => match c.saved? uid with
          | some (x, s) => ((c.imageLand (c.image x s.slot) s r).modSaved uid fun s => { s with deferred := r.defer s.deferred }).dropRequest id
          | none => c.dropRequest id

/-! ### Eviction, rehousing (R163, R164) -/

/-- Whether a squad is executing a clause: one that stalls for a register (R159) or awaits an access (R316) is not (R163). -/
def Squad.executing (q : Squad) : Bool := q.exe.inClause && q.awaiting.isNone && match q.stall with
  | some (.registers _) => false
  | _ => true

/-- A completed request of a squad of this bench that cannot land (R163): the squad it belongs to. -/
def Chip.stuckReply (c : Chip) (n b : Nat) : Option Nat :=
  c.requests.findSome? fun r => match r.agent with
    | .squad uid => match c.squad? uid with
      | some q => if q.place.core = n ∧ q.place.bench = b ∧ r.isOver ∧ r.returns ∧ r.escorted ∧ q.evicted.isNone ∧ !c.moveDue n b ∧ (c.landEscort q r.returned).isNone then some uid else none
      | none => none
    | .thread _ _ => none

/-- The best squad of a list by a measure, the smallest first. -/
def leastBy (f : Squad → Nat) : List Squad → Option Squad
  | [] => none
  | q :: qs => match leastBy f qs with
    | none => some q
    | some p => if f p < f q then some p else some q

/-- The squad to evict for a reply of squad `own` (R163). -/
def Chip.victim (c : Chip) (n b own : Nat) : Option Squad :=
  let on := (c.onBench n b).filter fun q => !q.executing && q.evicted.isNone && !q.dead
  let landed := (c.bench n b).landing.map (·.uid)
  match leastBy (·.dispatched) (on.filter fun q => q.uid != own && !(c.abroad q.uid).isEmpty && !landed.contains q.uid) with
  | some q => some q
  | none => leastBy (·.lastIssue) on

/-- What eviction writes to the block area (R164): registers of resident blocks and of the landing buffer, the latch, and the
clause position: header address in bytes 0 to 7, word position in byte 8, bit 0 of byte 9 set inside a clause. (DESIGN CHOICE, log 48.) -/
def Chip.evictBytes (c : Chip) (q : Squad) : List (Nat × Nat × Word) :=
  let d := q.exe.declared
  let here := (q.resident.flatMap fun k => (List.range 8).map (8 * k + ·)).filter fun n => !(c.abroad q.uid).contains n
  let regs := here.flatMap fun n => (List.range 32).map fun l => (n, l, q.exe.reg n l)
  let landed := ((c.bench q.place.core q.place.bench).landing.filter fun l => l.uid == q.uid).flatMap fun l =>
    (q.keepLive l.regs).flatMap fun e => e.2.mapIdx fun i v => (e.1, i, v)
  let latch := (List.range 3).flatMap fun k => (List.range 32).flatMap fun l =>
    let v := (q.exe.latchVal k l).toNat
    [(d + 2 * k, 2 * l, BitVec.ofNat 32 v), (d + 2 * k, 2 * l + 1, BitVec.ofNat 32 (v / 2 ^ 32))]
  let tail := [(d + 6, 0, BitVec.ofNat 32 q.exe.hdrAt), (d + 6, 1, BitVec.ofNat 32 (q.exe.hdrAt / 2 ^ 32)),
    (d + 6, 2, BitVec.ofNat 32 (q.exe.pos + 256 * b01 q.exe.inClause))] ++ (List.range 61).map fun i => (d + 6, 3 + i, 0)
  regs ++ landed ++ latch ++ tail

/-- Open a fault for an engine's access to a page that is not present, and register who waits (R179); a walk that a copy holds up only waits (R381). -/
def Chip.engineFault (c : Chip) (ctx page core id : Nat) (need : Need) : Chip :=
  if c.walkHeld ctx page then c
  else
  let r := c.openFault ctx page core true need
  r.2.modCtx ctx fun x => { x with faults := x.faults.map fun f => if f.num = r.1 ∧ !f.waiters.contains id then { f with waiters := f.waiters ++ [id] } else f }

/-- Wait for the pages of a squad's block area (R163, R178). -/
def Chip.blockAreaFault (c : Chip) (q : Squad) (need : Need) : Chip :=
  match c.xl q.place.core q.exe.ctx need (c.stackArea q) q.blockBytes with
  | .error (.absent page) => c.engineFault q.exe.ctx page q.place.core q.uid need
  | _ => c

/-- Evict a squad (R163). -/
def Chip.evict (c : Chip) (q : Squad) : Chip :=
  match c.blockAreaWrite q (c.evictBytes q) with
  | none => c.blockAreaFault q { w := true }
  | some c =>
    let c := c.modBench q.place.core q.place.bench fun b => { b with landing := b.landing.filter fun l => l.uid != q.uid }
    { c.modSquad q.uid (fun q => { q with resident := [], evicted := some c.order, exe := { q.exe with regs := [] } }) with order := c.order + 1 }

/-- A number read from a squad's block area; none where it does not translate or lies in a row that is being copied (R381). -/
def Chip.blockAreaRead (c : Chip) (q : Squad) (off n : Nat) : Option Nat :=
  match c.xl q.place.core q.exe.ctx {} (c.stackArea q + off) n with
  | .ok ls => if c.inCopy ls then none else (c.readVirtual q.place.core q.exe.ctx (c.stackArea q + off) n).toOption
  | .error _ => none

/-- The evicted squad of a bench whose turn it is to be rehoused (R164). -/
def Chip.firstEvicted (c : Chip) (n b : Nat) : Option Squad :=
  leastBy (fun q => q.evicted.getD 0) ((c.onBench n b).filter fun q => q.evicted.isSome && !q.dead)

/-- Rehouse a squad: a block for every logical block with a register that is not abroad; registers and latch come back from
the block area (R164). -/
def Chip.rehouse (c : Chip) (q : Squad) : Chip :=
  let d := q.exe.declared
  let here := (List.range d).filter fun n => !(c.abroad q.uid).contains n
  let need := blocksOf here
  if c.moveDue q.place.core q.place.bench || decide (c.pool q.place.core q.place.bench < need.length) then c
  else
    let rf := here.mapM fun n => ((List.range 32).mapM fun l => (c.blockAreaRead q (128 * n + 4 * l) 4).map (BitVec.ofNat 32)).map fun vs => (n, vs)
    let lt := (List.range 96).mapM fun i => (c.blockAreaRead q (128 * d + 8 * i) 8).map (BitVec.ofNat 64)
    match rf, lt with
    | some rf, some lt => c.modSquad q.uid fun q =>
        { q with
          resident := need, evicted := none
          exe := { (q.exe.putRegs rf) with latch := (lt.mapIdx fun i v => (i, v)).foldl (fun m e => m.set 0 e.1 e.2) ([] : Sparse DWord) } }
    | _, _ => c.blockAreaFault q { r := true }

end Sys2Proof.Machine
end

