-- ==== Sys2Proof/Machine/Sync.lean ====
section
/-! DEFINITION. The synchronisation instructions, opcodes 0x1D0 to 0x1D6 (R183, R193 to R201): fences, arrivals, waits. -/

namespace Sys2Proof.Machine

/-- A squad instruction that meets a page which is not present waits at it until the fault is resolved (R178, R179). -/
def Chip.waitPage (c : Chip) (q : Squad) (page : Nat) (need : Need) : Res :=
  if c.walkHeld q.exe.ctx page then .stall c
  else
    let r := c.openFault q.exe.ctx page q.place.core false need
    .stall (r.2.modSquad q.uid fun q => { q with parked := some r.1, parkedVa := page })

/-- Whether the squad has an entry in its core's write-combining buffer (R312). -/
def Chip.hasWc (c : Chip) (q : Squad) : Bool := (c.core q.place.core).wc.any fun w => w.squads.contains q.uid

/-- The acquire of a wait, a fence or a load: at die scope or wider it invalidates L1 (R48). -/
def Chip.acquireL1 (c : Chip) (q : Squad) (scope : Nat) : Chip := if 2 ≤ scope then c.dropL1 q.place.core else c

/-! ### fence (R193) -/

/-- Whether a fence of lanes still waits: a release for every earlier access, an acquire for the earlier loads and atomics, and either for every
earlier access that is not relaxed and every earlier arrival (R49, R195). (DEDUCED, log 35.) -/
def Chip.fenceWaits (c : Chip) (q : Squad) (g : LaneMask) (order : Nat) : Bool :=
  (c.requests.any fun r => r.agent == .squad q.uid && (bit order 1 || r.kind != .store || r.order != 0) &&
    r.accs.any fun x => x.open_ && r.by x g) || c.arriving (.squad q.uid) c.nextId g

/-- `fence`. -/
def squadFence (f : FormM) (c : Chip) (q : Squad) : Res :=
  if 4 < f.scope.toNat ∨ f.order = 0 then .trap (q.exe.operand 6)
  else if q.exe.acting f.g = 0 then .done c
  else c.endRegion q fun c =>
    let o := f.order.toNat
    let g := q.exe.acting f.g
    let c := if f.scope = 4 then c.drainWc q.uid else c
    if c.acquiring q g || c.fenceWaits q g o then .stall c
    else .done (if bit o 0 then c.acquireL1 q f.scope.toNat else c)

/-- `fence`. -/
def execFence (f : FormM) := fun (s : State) => onSquad s [0] (fun _ => []) (squadFence f)

/-! ### Barrier objects named by an instruction (R194) -/

/-- Step 1 of R185 for an instruction that names an object: the code of Q and the muster slot of a scratch address, the code of S, and in the modifiers
the scope and the muster slot (R30, R84, R87). -/
def Chip.chkObjCodes (q : Squad) (f : FormX) (o : ObjMod) (s : Except Trap Unit) : Except Trap Unit := do
  let e := q.exe
  e.chkUni 1 false f.q
  if !o.form && o.scr && (e.chkPair 1 f.q).toBool && (e.mslots.getD (bits (e.uniVal true f.q) 31 30) none).isNone then throw (e.operand 1)
  s
  if 4 < o.scope.toNat then throw (e.operand 6)
  if o.form && (e.mslots.getD o.slot.toNat none).isNone then throw (e.operand 6)

/-- Step 2 of R185 for it: an even pair, or a muster with an object, no scratch space and no Q (R183, R194). -/
def Chip.chkObj (c : Chip) (q : Squad) (f : FormX) (o : ObjMod) : Except Trap Unit := do
  let e := q.exe
  if o.form then
    match (e.mslots.getD o.slot.toNat none).bind fun i => c.muster? q.launch i with
    | none => throw (e.operand 6)
    | some m => if m.barrier = 0 ∨ o.scr then throw (e.operand 6)
    if f.q ≠ 0xF3 then throw (e.operand 1)
  else e.chkPair 1 f.q

/-- Address of the object: the muster's, or the value of Q, of which scratch uses the low word (R194). -/
def Chip.objAddr (c : Chip) (q : Squad) (f : FormX) (o : ObjMod) : Nat :=
  if o.form then (((q.exe.mslots.getD o.slot.toNat none).bind fun i => c.muster? q.launch i).map (·.barrier)).getD 0
  else if o.scr then q.exe.uniVal true f.q % 2 ^ 32 else q.exe.uniVal true f.q

/-- Where the object lies: its 16 locations; a page that is not present; or the trap (R185, R194). An object has a device home, so that one in host
memory is an access fault. (DEDUCED, log 49.) -/
def Chip.objAt (c : Chip) (q : Squad) (f : FormX) (o : ObjMod) : Except (Trap ⊕ Nat) (List Loc) :=
  let a := c.objAddr q f o
  let e := q.exe
  if o.scr then
    if (e.mslots.getD (bits a 31 30) none).isNone then .error (.inl (e.operand 1))
    else if a % 16 ≠ 0 then .error (.inl (accessFault 1 a))
    else match c.scratchAt q.place.core q.launch e.mslots a 16 with
      | none => .error (.inl (accessFault 2 a))
      | some (_, b) => .ok ((List.range 16).map fun i => .scr q.place.core (b + i))
  else if !o.form && decide (2 ^ 56 ≤ a) then .error (.inl (e.operand 1))
  else if a % 16 ≠ 0 then .error (.inl (accessFault 1 a))
  else match c.xl q.place.core e.ctx { w := true } a 16 with
    | .ok ls => if onHost ls then .error (.inl (accessFault 0 a)) else .ok ls
    | .error (.absent p) => .error (.inr p)
    | .error (.access r) => .error (.inl (accessFault r a))

/-- Scope that decides the scope condition: core for an object in scratch (R194). -/
def ObjMod.at (o : ObjMod) : Nat := if o.scr then 1 else o.scope.toNat

/-! ### bar.arr and barx (R195) -/

/-- Send an update to the object's home (R17, R195): an arrival, bytes, a token to come, the release before it. -/
def Chip.sendArrival (c : Chip) (q : Squad) (f : FormX) (o : ObjMod) (arrive : Bool) (add : Int) (ls : List Loc) : Chip :=
  let pn := q.exe.pennant f.ps
  let u : BarUpdate :=
    { id := c.nextId, ctx := q.exe.ctx, va := c.objAddr q f o, locs := ls, arrive, add, uid := some q.uid
      token := if f.p = 0xF3 then none else some f.p, pennant := pn, after := c.nextId, lanes := q.exe.acting f.g }
  let c := if ObjMod.at o = 4 then c.drainWc q.uid else c
  { c.modSquad q.uid (fun q => q.raise pn) with updates := c.updates ++ [{ u with id := c.nextId, after := c.nextId }], nextId := c.nextId + 1 }

/-- `bar.arr` and `barx` for the squad. -/
def squadArrive (f : FormX) (o : ObjMod) (arrive : Bool) (bytes : Option Code) (c : Chip) (q : Squad) : Res :=
  match (do
    q.exe.chkUniDst 0 false f.p
    Chip.chkObjCodes q f o (match bytes with
      | some b => q.exe.chkUni 2 false b
      | none => .ok ())
    c.chkObj q f o : Except Trap Unit) with
  | .error t => .trap t
  | .ok _ =>
    if q.exe.acting f.g = 0 then .done c
    else match c.objAt q f o with
      | .error (.inl t) => .trap t
      | .error (.inr page) => c.endRegion q fun c => c.waitPage q page { w := true }
      | .ok ls =>
        if c.acquiring q (q.exe.acting f.g) || q.pennantFull (q.exe.pennant f.ps) then .stall c
        else c.endRegion q fun c =>
          let c := if o.scr then c else c.fillTlb q.place.core q.exe.ctx (c.objAddr q f o)
          .done (c.sendArrival q f o arrive ((bytes.map fun b => signed 32 (q.exe.uniVal false b)).getD 0) ls)

/-- Uniform registers that `bar.arr` and `barx` name. -/
def regsObj (f : FormX) (o : ObjMod) (s : Bool) : List Nat :=
  uniRegs false f.p ++ (if o.form then [] else uniRegs true f.q) ++ if s then uniRegs false f.s else []

/-- `bar.arr`. -/
def execBarArr (f : FormX) (o : ObjMod) := fun (s : State) => onSquad s [0] (fun _ => regsObj f o false) (squadArrive f o true none)

/-- `barx`. -/
def execBarx (f : FormX) (o : ObjMod) (noArr : Bool) := fun (s : State) =>
  onSquad s [0] (fun _ => regsObj f o true) (squadArrive f o (!noArr) (some f.s))

/-! ### Waiting instructions (R196) -/

/-- What a test of a waiting instruction gives: no lane asks; an earlier access holds the test back; the condition holds, with the scope of the
acquire that follows; it does not hold, in an external or a local wait; a page is not present; it traps. -/
inductive WaitTest where
  | idle
  | held
  | met (scope : Nat)
  | unmet (ext : Bool)
  | page (p : Nat)
  | trap (t : Trap)
  deriving DecidableEq, Repr

/-- Checks shared by the waiting instructions: codes, the flag constant, the instruction's own limits, then position 0 (R183, R185, R196). No rule places
position 0 among the checks; it stands behind every limit on codes and before those on the value of an address. (DESIGN CHOICE, log 96.) -/
def Exe.chkWait (e : Exe) (f : FormX) (codes own : Except Trap Unit) : Except Trap Unit := do
  codes
  if 7 < f.p.toNat then throw (e.operand 0)
  own
  if e.pos ≠ 0 then throw e.illegalClause

/-- Checks of `bar.wait`. -/
def Chip.chkBarWait (c : Chip) (q : Squad) (f : FormX) (o : ObjMod) : Except Trap Unit :=
  q.exe.chkWait f (Chip.chkObjCodes q f o (q.exe.chkUni 2 false f.s)) (c.chkObj q f o)

/-- Whether a lane of a mask has an access or an arrival that is not performed at one of these locations (R51, R52). -/
def Chip.openAt (c : Chip) (q : Squad) (m : LaneMask) (ls : List Loc) : Bool := (lanesOf m).any fun l => c.earlierAt (.squad q.uid) c.nextId l ls

/-- Whether an earlier access of a lane that takes part holds back a test that reads some locations: an acquire that has not completed (R47), or an
access to one of the locations that is not performed (R52). -/
def Chip.openFor (c : Chip) (q : Squad) (g : Guard) (ls : List Loc) : Bool :=
  c.acquiring q (q.exe.acting g) || c.openAt q (q.exe.acting g) ls

/-- Scope of the acquire of a `bar.wait` that returns for a phase: its own, or device scope where a byte countdown or a signal was counted in the phase
(R50, R197). -/
def Chip.barScope (c : Chip) (o : ObjMod) (ls : List Loc) (phase : Nat) : Nat :=
  if c.counted.contains (ls.headD (.host 0), phase) then max 3 (ObjMod.at o) else ObjMod.at o

/-- The test of `bar.wait` (R197, R201), an acquire after every earlier access of its lanes that is not relaxed (R49); it waits in a row that is being copied
(R381). -/
def Chip.testBarWait (c : Chip) (q : Squad) (f : FormX) (o : ObjMod) : WaitTest :=
  match c.chkBarWait q f o with
  | .error t => .trap t
  | .ok _ =>
    if q.exe.acting f.g = 0 then .idle
    else match c.objAt q f o with
      | .error (.inl t) => .trap t
      | .error (.inr p) => .page p
      | .ok ls =>
        let b := c.barObj ls
        if c.openFor q f.g ls || c.earlierOrdered (.squad q.uid) c.nextId (q.exe.acting f.g) || c.inCopy ls then .held
        else if b.phase ≠ q.exe.uniVal false f.s then .met (c.barScope o ls (q.exe.uniVal false f.s)) else .unmet b.remote

/-- Checks of `twait` (R15, R198). -/
def Chip.chkTwait (c : Chip) (q : Squad) (f : FormX) : Except Trap Unit :=
  q.exe.chkWait f (do
    q.exe.chkUni 1 false f.q
    if !c.slotHeld q f.handle.toNat then throw (q.exe.operand 5)) (q.exe.chkPair 1 f.q)

/-- The test of `twait` (R198, R201): a device-scope acquire. -/
def Chip.testTwait (c : Chip) (q : Squad) (f : FormX) (ext : Bool) : WaitTest :=
  match c.chkTwait q f with
  | .error t => .trap t
  | .ok _ =>
    if q.exe.acting f.g = 0 then .idle
    else if q.exe.uniVal true f.q ≤ ((c.core q.place.core).slots.getD f.handle.toNat {}).done then .met 3
    else .unmet ext

/-- Checks of `wext` (R200). -/
def Chip.chkWext (q : Squad) (f : FormX) (scope : BitVec 3) : Except Trap Unit :=
  q.exe.chkWait f (do
    q.exe.chkUni 1 false f.q
    q.exe.chkUni 2 false f.s
    if 4 < scope.toNat then throw (q.exe.operand 6)) (q.exe.chkPair 1 f.q)

/-- The test of `wext`: an acquire load of the word (R200), at system scope where the word lies in host memory (R46), after every earlier access of its
lanes that is not relaxed (R49). -/
def Chip.testWext (c : Chip) (q : Squad) (f : FormX) (scope : BitVec 3) (cond : Cond) : WaitTest :=
  match Chip.chkWext q f scope with
  | .error t => .trap t
  | .ok _ =>
    let a := q.exe.uniVal true f.q
    if q.exe.acting f.g = 0 then .idle
    else if 2 ^ 56 ≤ a then .trap (q.exe.operand 1)
    else if a % 4 ≠ 0 then .trap (accessFault 1 a)
    else match c.xl q.place.core q.exe.ctx { r := true } a 4 with
      | .error (.absent p) => .page p
      | .error (.access r) => .trap (accessFault r a)
      | .ok ls =>
        if c.openFor q f.g ls || c.earlierOrdered (.squad q.uid) c.nextId (q.exe.acting f.g) || c.inCopy ls then .held
        else if c.anyBad ls then .trap (accessFault 4 a)
        else if intCond cond (signed 32 (ofLe (c.readLocs ls))) (signed 32 (q.exe.uniVal false f.s)) then .met (if onHost ls then 4 else scope.toNat)
        else .unmet true

/-- The test of the instruction at position 0; idle where it is no waiting instruction. -/
def Chip.testWait (c : Chip) (q : Squad) : Instr → WaitTest
  | .barWait f o => c.testBarWait q f o
  | .twait f ext => c.testTwait q f ext
  | .wext f scope cond => c.testWext q f scope cond
  | _ => .idle

/-- The checks of a waiting instruction that read no memory. -/
def Chip.checkWait (c : Chip) (q : Squad) : Instr → Except Trap Unit
  | .barWait f o => c.chkBarWait q f o
  | .twait f _ => c.chkTwait q f
  | .wext f scope _ => Chip.chkWext q f scope
  | _ => .ok ()

/-- The global address that a waiting instruction reads; none in scratch. -/
def Chip.waitVa (c : Chip) (q : Squad) : Instr → Option Nat
  | .barWait f o => if o.scr then none else some (c.objAddr q f o)
  | .wext f _ _ => some (q.exe.uniVal true f.q)
  | _ => none

/-- The translation of what a waiting instruction reads stays cached (R177). -/
def Chip.waitFill (c : Chip) (q : Squad) (i : Instr) : Chip :=
  match c.waitVa q i with
  | some va => c.fillTlb q.place.core q.exe.ctx va
  | none => c

/-- The read of a waiting instruction that has held leaves no older copy of its bytes in L1 (R52). -/
def Chip.waitSync (c : Chip) (q : Squad) (i : Instr) : Chip :=
  match c.waitVa q i with
  | some va => match c.xl q.place.core q.exe.ctx {} va 16 with
    | .ok ls => c.l1Sync q.place.core q.exe.ctx va ls
    | .error _ => c
  | none => c

/-- A waiting instruction issues (R196), the squad's region committed (R175): flag 1 and the acquire where its condition held, flag 0 where its
bound expired; it waits otherwise. -/
def squadWait (i : Instr) (f : FormX) (c : Chip) (q : Squad) : Res :=
  let end_ := fun (c : Chip) (v : Bool) => c.modSquad q.uid fun q =>
    { q with exe := q.exe.setFlagIn f.p.toNat (q.exe.acting f.g) v, waitTested := false, waitExpired := false, waitMet := none }
  let hold := fun (c : Chip) (scope : Nat) => Res.done (end_ ((c.acquireL1 q scope).waitSync q i) true)
  match c.checkWait q i with
  | .error t => .trap t
  | .ok _ =>
    if q.exe.acting f.g = 0 then .done c
    else c.endRegion q fun c =>
      let c := c.waitFill q i
      match c.testWait q i, q.waitMet with
      | .trap t, _ => .trapIn c t
      | .idle, _ => .done c
      | .met scope, _ => hold c scope
      | .held, _ => .stall c
      | .page _, some scope => hold c scope
      | .page p, none => c.waitPage q p { r := true }
      | .unmet _, some scope => hold c scope
      | .unmet ext, none =>
        if ext && q.waitExpired then .done (end_ c false)
        else .stall (c.modSquad q.uid fun q => { q with waitTested := true })

/-- `bar.wait`. -/
def execBarWait (f : FormX) (o : ObjMod) := fun (s : State) =>
  onSquad s [0] (fun _ => (if o.form then [] else uniRegs true f.q) ++ uniRegs false f.s) (squadWait (.barWait f o) f)

/-- `twait`. -/
def execTwait (f : FormX) (ext : Bool) := fun (s : State) => onSquad s [0] (fun _ => uniRegs true f.q) (squadWait (.twait f ext) f)

/-- `wext`. -/
def execWext (f : FormX) (scope : BitVec 3) (cond : Cond) := fun (s : State) =>
  onSquad s [0] (fun _ => uniRegs true f.q ++ uniRegs false f.s) (squadWait (.wext f scope cond) f)

/-! ### tget (R199) -/

/-- `tget`. (DEDUCED, log 56.) -/
def squadTget (f : FormX) (mode : BitVec 2) (c : Chip) (q : Squad) : Res :=
  let wide := decide (mode.toNat < 2)
  match (do
    if wide then q.exe.chkPair 0 f.p else q.exe.chkUniDst 0 false f.p
    if !c.slotHeld q f.handle.toNat then throw (q.exe.operand 5) : Except Trap Unit) with
  | .error t => .trap t
  | .ok _ =>
    if q.exe.acting f.g = 0 then .done c
    else c.endRegion q fun c =>
      let t := (c.core q.place.core).slots.getD f.handle.toNat {}
      let v := match mode.toNat with
        | 0 => t.issue
        | 1 => t.done
        | _ => b01 t.fault
      let c := c.modSquad q.uid fun q => { q with exe := q.exe.putUni wide f.p v }
      .done (if mode = 3 then c.modCore q.place.core fun k => { k with slots := modAt k.slots f.handle.toNat fun s => { s with fault := false } } else c)

/-- `tget`. -/
def execTget (f : FormX) (mode : BitVec 2) := fun (s : State) =>
  onSquad s [0] (fun _ => uniRegs (decide (mode.toNat < 2)) f.p) (squadTget f mode)

end Sys2Proof.Machine
end

