-- ==== Sys2Proof/Machine/Quarry.lean ====
section
/-! DEFINITION. The access processor, opcodes 0x300 to 0x312 (R209 to R227): address programs of quarry threads and the
queues between threads and squads. -/

namespace Sys2Proof.Machine

/-- An instruction of quarry threads only: for a squad it is in the wrong clause class (R82). -/
def onThread (s : State) (fn : Nat → Nat → Chip → QThread → Res) : Host.Outcome State Fault Refusal :=
  onAgent s (fun c q => c.takeTrap q.uid q.exe.illegalClause) (fun c n t th => c.runThread n t th (fn n t))

/-- Set the register side of a thread. -/
def Chip.setThreadExe (c : Chip) (n t : Nat) (e : Exe) : Chip := c.modThread n t fun th => { th with exe := e }

/-! ### Address generation (R214, R215) -/

/-- `alp` (R214): the burgee field only traps for codes 12 to 14 (R213). -/
def threadAlp (f : FormB) (n t : Nat) (c : Chip) (th : QThread) : Res :=
  let e := th.exe
  match (do
    e.chkSrc 0 (.gen false) f.reg
    e.chkDst (.gen false) f.reg
    if 12 ≤ f.burg.toNat ∧ f.burg.toNat ≤ 14 then throw (e.operand 6) : Except Trap Unit) with
  | .error tr => .trap tr
  | .ok _ =>
    if e.guard f.g 0 then
      let v := (e.src false f.reg 0 + 2 ^ 32 - 1) % 2 ^ 32
      let c := c.setThreadExe n t (e.put false f.reg 0 v)
      .done (if v = 0 then c else c.modThread n t fun th => th.transfer (target e.hdrAt f.off))
    else .done c

/-- `alp`. -/
def execAlp (f : FormB) := fun (s : State) => onThread s (threadAlp f)

/-- Operand use of `agen`. -/
def useAgen : RUse := { dst := .gen true, a := .gen true, b := .gen false, c := .gen false }

/-- The result of `agen` (R214). -/
def agenVal (uns : Bool) (sh a b c : Nat) : Nat :=
  let p : Int := if uns then ((b * c : Nat) : Int) else signed 32 b * signed 32 c
  pattern 64 ((a : Int) + p * 2 ^ sh)

/-- `agen`. -/
def execAgen (f : FormR) (uns : Bool) (sh : BitVec 3) := fun (s : State) =>
  onThread s fun n t => exeResThread (Exe.runR f useAgen (agenVal uns sh.toNat)) n t

/-- HASH of R215. -/
def HASH (k n : Nat) : Nat := if n = 0 then 0 else ((k * 0x9E3779B1) % 2 ^ 32) >>> (32 - n)

/-- Operand use of `aidx`; table mode reads no parameter (R229). -/
def useAidx (mode : AidxMode) : RUse := { dst := .gen false, a := .gen false, b := if mode = .table then .unused else .gen false }

/-- Access-fault trap of a thread with the address its record holds (R212). -/
def threadFault (reason va : Nat) : Trap := accessFault reason va

/-- The word of the remap table at an index: a quarry fault, before any wait (R171, R216); none while its line is absent. -/
def Chip.tableWord (c : Chip) (n : Nat) (th : QThread) (i : Nat) : Except Trap (Option Nat) :=
  match th.table with
  | none => .error (th.exe.operand 6)
  | some a => match c.scratchAt n th.launch th.exe.mslots a 16384 with
    | none => .error (threadFault 2 a)
    | some (w, b) =>
      let k := c.core n
      let p := b + 4 * i
      if w.check = 2 ∧ !Sparse.get false k.written (p / 128) then .error (threadFault 6 (a + 4 * i))
      else if Sparse.get false k.absent (p / 128) then .ok none
      else .ok (some (ofLe ((List.range 4).map fun j => k.scratch.byte (p + j))))

/-- `aidx` (R215). -/
def threadAidx (f : FormR) (mode : AidxMode) (n t : Nat) (c : Chip) (th : QThread) : Res :=
  let e := th.exe
  let u := useAidx mode
  match e.chkR f u with
  | .error tr => .trap tr
  | .ok _ =>
    if !e.guard f.g 0 then .done (c.setThreadExe n t (e.capture f u e))
    else
      let a := e.src false f.a 0
      let b := e.src false f.b 0
      let put := fun v => Res.done (c.setThreadExe n t (e.capture f u (e.put false f.dst 0 v)))
      match mode with
      | .modulo => put (if b = 0 then a else a % b)
      | .hash => if 32 < b then .trap (e.operand 2) else put (HASH a b)
      | .table => match c.tableWord n th (a % 4096) with
        | .error tr => .trap tr
        | .ok none => .stall c
        | .ok (some v) => put v

/-- `aidx`. -/
def execAidx (f : FormR) (mode : AidxMode) := fun (s : State) => onThread s (threadAidx f mode)

/-! ### aload and ascat (R218, R219) -/

/-- Bytes of a size code (R213). -/
def qBytes : QSize → Nat
  | .one => 1
  | .two => 2
  | .four => 4
  | .eight => 8
  | .line => 128

/-- Where a thread's access goes: locations, or a page that is not present; every other failure is a quarry fault (R219). A thread takes no part in
the race check, which R59 makes for lanes of squads, by their slot. (DEDUCED, log 93.) -/
def Chip.threadAt (c : Chip) (n : Nat) (th : QThread) (scr store : Bool) (a z : Nat) : Except Trap (List Loc ⊕ Nat) :=
  let e := th.exe
  if scr then
    let a := a % 2 ^ 32
    if (e.mslots.getD (bits a 31 30) none).isNone then .error { e.operand 0 with va := a }
    else if a % z ≠ 0 then .error (threadFault 1 a)
    else match c.scratchAt n th.launch e.mslots a z with
      | none => .error (threadFault 2 a)
      | some (w, b) =>
        let k := c.core n
        if store && Sparse.get false k.absent (b / 128) then .error (threadFault 6 a)
        else if !store && w.check == 2 && !Sparse.get false k.written (b / 128) then .error (threadFault 6 a)
        else .ok (.inl ((List.range z).map fun i => .scr n (b + i)))
  else if 2 ^ 56 ≤ a then .error { e.operand 0 with va := a }
  else if a % z ≠ 0 then .error (threadFault 1 a)
  else match c.xl n e.ctx (if store then { w := true } else { r := true }) a z with
    | .ok ls => .ok (.inl ls)
    | .error (.absent p) => .ok (.inr p)
    | .error (.access r) => .error (threadFault r a)

/-- The entry that an `aload` of z bytes uses: the queue with it in place, its number, the position in it; none where 64
entries exist and a new one is needed (R218). -/
def Queue.place (q : Queue) (line : Bool) (z : Nat) : Option (Queue × Nat × Nat) :=
  let shut := q.entries.map fun (x : QEntry) => { x with shut := true }
  let new : QEntry := { num := q.next, fill := z, shut := decide (z = 128), out := [(0, z)] }
  let fresh := fun (_ : Unit) =>
    if q.entries.length < 64 then some ({ q with entries := shut ++ [new], next := q.next + 1 }, q.next, 0) else none
  match q.entries.getLast? with
  | none => fresh ()
  | some x =>
    let p := roundUp x.fill z
    if x.shut || line || decide (128 < p + z) then fresh ()
    else
      let y := { x with fill := p + z, shut := decide (p + z = 128), out := x.out ++ [(p, z)] }
      some ({ q with entries := q.entries.dropLast ++ [y] }, x.num, p)

/-- Issue a thread's access: a read that fills an entry, or a store (R219). -/
def Chip.threadIssue (c : Chip) (n t : Nat) (th : QThread) (kind : AccKind) (a z : Nat) (x : List Loc ⊕ Nat) (data : List Byte) (queue entry fill : Nat) : Chip :=
  let r : Access × Chip := match x with
    | .inl ls =>
      let scr := ls.any fun l => l matches .scr _ _
      ({ lane := 0, va := a, locs := ls, data, elem := if scr then 0 else c.elemOf th.exe.ctx a z }, if scr then c else c.fillTlb n th.exe.ctx a)
    | .inr page =>
      let r := c.openFault th.exe.ctx page n true kind.need
      ({ lane := 0, va := a, data, status := .faulted r.1 }, r.2)
  let c := r.2
  let q : Request :=
    { id := c.nextId, agent := .thread n t, ctx := th.exe.ctx, core := n, launch := th.launch, kind, size := z, accs := [r.1], scope := 1, order := 0
      scratch := match x with
        | .inl (.scr _ _ :: _) => true
        | _ => false
      instrAt := th.exe.wordAt, hdrAt := th.exe.hdrAt, cmd := th.id, queue, entry, fill }
  { c with requests := c.requests ++ [q], nextId := c.nextId + 1 }

/-- Reads of a core's quarry that have not landed: at most 256 (R211). -/
def Chip.quarryReads (c : Chip) (n : Nat) : Nat := (c.requests.filter fun r => match r.agent with
  | .thread m _ => m == n && r.kind == .load
  | .squad _ => false).length

/-- `aload`. -/
def threadAload (f : FormX) (scr : Bool) (size : QSize) (n t : Nat) (c : Chip) (th : QThread) : Res :=
  let e := th.exe
  match (do
    e.chkSrc 0 (.gen true) f.p
    if 15 < f.q.toNat then throw (e.operand 1) : Except Trap Unit) with
  | .error tr => .trap tr
  | .ok _ =>
    if !e.guard f.g 0 then .done c
    else
      let i := f.q.toNat
      let q := c.queue n i
      let z := qBytes size
      let a := e.src true f.p 0
      if !(q.state == .loadOpen && q.thread == t && !q.ended) then .trap (e.operand 1)
      else match c.threadAt n th scr false a z with
        | .error tr => .trap tr
        | .ok x => match q.place (size == .line) z with
          | none => .wait c
          | some (q', num, p) =>
            if 256 ≤ c.quarryReads n then .stall c
            else .done ((c.modQueue n i fun _ => q').threadIssue n t th .load (if scr then a % 2 ^ 32 else a) z x [] i num p)

/-- `aload`. -/
def execAload (f : FormX) (scr : Bool) (size : QSize) := fun (s : State) => onThread s (threadAload f scr size)

/-- A scatter queue at the place where an `ascat` of z bytes reads: a partly read head too short for it, or in the way of a
line read, is released (R218). -/
def Queue.atHead (q : Queue) (line : Bool) (z : Nat) : Queue :=
  if (line && q.readPos != 0) || decide (128 < roundUp q.readPos z + z) then { q with entries := q.entries.drop 1, readPos := 0 } else q

/-- A scatter queue after z bytes are read at its read position (R218). -/
def Queue.took (q : Queue) (z : Nat) : Queue :=
  let p := roundUp q.readPos z + z
  if 128 ≤ p then { q with entries := q.entries.drop 1, readPos := 0 } else { q with readPos := p }

/-- `ascat`. -/
def threadAscat (f : FormX) (scr : Bool) (size : QSize) (n t : Nat) (c : Chip) (th : QThread) : Res :=
  let e := th.exe
  match (do
    e.chkSrc 0 (.gen true) f.p
    if 15 < f.q.toNat then throw (e.operand 1)
    if 7 < f.s.toNat then throw (e.operand 2) : Except Trap Unit) with
  | .error tr => .trap tr
  | .ok _ =>
    if !e.guard f.g 0 then .done c
    else
      let i := f.q.toNat
      let q := c.queue n i
      let z := qBytes size
      let a := e.src true f.p 0
      if !((q.state == .scatterOpen || q.state == .draining || q.state == .closed) && q.thread == t && !q.ended) then .trap (e.operand 1)
      else match c.threadAt n th scr true a z with
        | .error tr => .trap tr
        | .ok x =>
          let q := q.atHead (size == .line) z
          match q.entries with
          | [] =>
            if q.state == .scatterOpen then .wait (c.modQueue n i fun _ => q)
            else .done ((c.modQueue n i fun _ => q).setThreadExe n t (e.setFlag f.s.toNat 0 false))
          | h :: _ =>
            let p := roundUp q.readPos z
            let data := (h.bytes.drop p).take z
            let c := (c.modQueue n i fun _ => q.took z).setThreadExe n t (e.setFlag f.s.toNat 0 true)
            .done (c.threadIssue n t th .store (if scr then a % 2 ^ 32 else a) z x data i 0 0)

/-- `ascat`. -/
def execAscat (f : FormX) (scr : Bool) (size : QSize) := fun (s : State) => onThread s (threadAscat f scr size)

/-! ### Squad side (R223 to R225) -/

/-- Load and scatter states (R217). -/
def QState.isLoad : QState → Bool
  | .loadOpen => true
  | .loadClosed => true
  | .faulted => true
  | _ => false
def QState.isScatter : QState → Bool
  | .scatterOpen => true
  | .draining => true
  | .closed => true
  | _ => false

/-- Whether a queue is bound to a muster of the squad in the direction asked for (R225). -/
def Chip.queueFor (c : Chip) (q : Squad) (i : Nat) (load : Bool) : Bool :=
  let x := c.queue q.place.core i
  (if load then x.state.isLoad else x.state.isScatter) && x.launch == q.launch && q.exe.mslots.contains (some x.muster)

/-- Checks of `qpop` and `qpeek`. -/
def Chip.chkPop (c : Chip) (q : Squad) (f : FormX) : Except Trap Unit := do
  q.exe.chkDst (.gen false) f.p
  if 15 < f.q.toNat then throw (q.exe.operand 1)
  if 7 < f.s.toNat then throw (q.exe.operand 2)
  if !c.queueFor q f.q.toNat true then throw (q.exe.operand 1)

/-- Checks of a data `qpush`. -/
def Chip.chkPush (c : Chip) (q : Squad) (f : FormX) : Except Trap Unit := do
  q.exe.chkSrc 0 (.gen false) f.p
  if 15 < f.q.toNat then throw (q.exe.operand 1)
  if 7 < f.s.toNat then throw (q.exe.operand 2)
  if !c.queueFor q f.q.toNat false then throw (q.exe.operand 1)

/-- Word l of an entry. -/
def QEntry.word (x : QEntry) (l : Nat) : Nat := ofLe ((x.bytes.drop (4 * l)).take 4)

/-- The oldest entry that no squad has reserved (R224). -/
def Queue.oldest (q : Queue) : Option QEntry := q.entries.find? fun x => !x.reserved

/-- Write a word and a flag in the lanes of a mask. -/
def Exe.putWords (e : Exe) (m : LaneMask) (dst : Code) (k : Nat) (w : Nat → Nat) (v : Bool) : Exe :=
  e.each m fun e l => (e.put false dst l (w l)).setFlag k l v

/-- What the readiness of a `qpop` finds (R223): an entry to reserve, that there is none and none will come, or neither. -/
inductive PopTest where
  | entry (num : Nat)
  | none_
  | wait
  deriving DecidableEq, Repr

/-- The test of `qpop`. -/
def Queue.popTest (q : Queue) : PopTest :=
  match q.oldest.filter QEntry.complete with
  | some x => .entry x.num
  | none => if q.state == .loadClosed || q.state == .faulted then .none_ else .wait

/-- Whether a `qpush` finds a free slot that no squad has reserved (R223). -/
def Queue.hasSlot (q : Queue) : Bool := q.state == .scatterOpen && decide (q.entries.length + q.held < 64)

/-- Whether a `qpush` finds its queue Draining or Closed (R223). -/
def Queue.pushShut (q : Queue) : Bool := q.state == .draining || q.state == .closed

/-- Position 0 is asked for (R223). -/
def Exe.first (e : Exe) : Except Trap Unit := if e.pos = 0 then .ok () else .error e.illegalClause

/-- Remove an entry. -/
def Queue.remove (q : Queue) (num : Nat) : Queue := Queue.settle { q with entries := q.entries.filter fun x => x.num != num }

/-- `qpop` (R223). -/
def squadQpop (f : FormX) (c : Chip) (q : Squad) : Res :=
  match (do c.chkPop q f; q.exe.first : Except Trap Unit) with
  | .error t => .trap t
  | .ok _ =>
    let g := q.exe.acting f.g
    let n := q.place.core
    let i := f.q.toNat
    if g = 0 then .done c
    else
      let x := c.queue n i
      let put := fun (c : Chip) (w : Nat → Nat) (v : Bool) =>
        Res.done (c.modSquad q.uid fun q => { q with exe := q.exe.putWords g f.p f.s.toNat w v, qHold := none })
      match (match q.qHold with
          | some k => PopTest.entry k
          | none => x.popTest) with
      | .entry k => match x.entries.find? fun e => e.num == k with
        | some e => put (c.modQueue n i fun x => x.remove k) e.word true
        | none => put c (fun _ => 0) false
      | .none_ => put c (fun _ => 0) false
      | .wait => .stall c

/-- `qpop`. -/
def execQpop (f : FormX) := fun (s : State) => onSquad s [0] (fun _ => codeRegs false f.p) (squadQpop f)

/-- The entry that a `qpush` appends: word l of every lane that takes part, zero elsewhere (R223). -/
def Exe.pushEntry (e : Exe) (g : LaneMask) (src : Code) (num : Nat) : QEntry :=
  { num, bytes := (List.range 32).flatMap fun l => leBytes 4 (if g.getLsbD l then e.src false src l else 0), fill := 128, shut := true }

/-- `qpush` (R223). -/
def squadQpush (f : FormX) (c : Chip) (q : Squad) : Res :=
  match (do c.chkPush q f; q.exe.first : Except Trap Unit) with
  | .error t => .trap t
  | .ok _ =>
    let g := q.exe.acting f.g
    let n := q.place.core
    let i := f.q.toNat
    if g = 0 then .done c
    else
      let x := c.queue n i
      let flag := fun (c : Chip) (v : Bool) => c.modSquad q.uid fun q => { q with exe := q.exe.setFlagIn f.s.toNat g v, qHold := none }
      let free := fun (x : Queue) => if q.qHold.isSome then { x with held := x.held - 1 } else x
      if x.pushShut then .done (flag (c.modQueue n i free) false)
      else if q.qHold.isSome || x.hasSlot then
        .done (flag (c.modQueue n i fun x => { (free x) with entries := x.entries ++ [q.exe.pushEntry g f.p x.next], next := x.next + 1 }) true)
      else .stall c

/-- `qpush`. -/
def execQpush (f : FormX) := fun (s : State) => onSquad s [0] (fun _ => codeRegs false f.p) (squadQpush f)

/-- `qpush.close` (R223): its source and its flag are not used. -/
def squadQpushClose (f : FormX) (c : Chip) (q : Squad) : Res :=
  if 15 < f.q.toNat ∨ !c.queueFor q f.q.toNat false then .trap (q.exe.operand 1)
  else if q.exe.acting f.g = 0 then .done c
  else .done (c.modQueue q.place.core f.q.toNat fun x => if x.state == .scatterOpen then { x with state := .draining } else x)

/-- `qpush.close`. -/
def execQpushClose (f : FormX) := fun (s : State) => onSquad s [0] (fun _ => []) (squadQpushClose f)

/-- `qpeek` (R224). -/
def squadQpeek (f : FormX) (c : Chip) (q : Squad) : Res :=
  match c.chkPop q f with
  | .error t => .trap t
  | .ok _ =>
    let g := q.exe.acting f.g
    let put := fun (w : Nat → Nat) (v : Bool) => Res.done (c.modSquad q.uid fun q => { q with exe := q.exe.putWords g f.p f.s.toNat w v })
    match (c.queue q.place.core f.q.toNat).oldest.filter QEntry.complete with
    | some x => put x.word true
    | none => put (fun _ => 0) false

/-- `qpeek`. -/
def execQpeek (f : FormX) := fun (s : State) => onSquad s [0] (fun _ => codeRegs false f.p) (squadQpeek f)

/-! ### Starting a thread (R220) -/

/-- An engine command of lanes g of a squad: it waits for an acquire or a full pennant, ends the region, and waits for the lanes' earlier accesses,
of which its issue is a release (R12, R47, R55, R175, R234). -/
def Chip.engineCmd (c : Chip) (q : Squad) (g : LaneMask) (ps : Bool) (fn : Chip → Res) : Res :=
  if c.acquiring q g || q.pennantFull (q.exe.pennant ps) then .stall c
  else c.endRegion q fun c => if c.earlier (.squad q.uid) c.nextId g then .stall c else fn c

/-- Operand codes of `qpush.start`, its muster slot and its timeline slot; then the muster's placement (R93, R220). -/
def Chip.chkStart (c : Chip) (q : Squad) (f : FormX) (ms : BitVec 2) : Except Trap Unit := do
  let e := q.exe
  e.chkPair 0 f.p
  if 0x38 < f.q.toNat then throw (e.operand 1)
  e.chkUni 2 false f.s
  e.chkUni 3 false f.t
  if (e.mslots.getD ms.toNat none).isNone then throw (e.operand 6)
  if !c.slotHeld q f.handle.toNat then throw (e.operand 5)
  match (e.mslots.getD ms.toNat none).bind fun i => c.muster? q.launch i with
  | none => throw (e.operand 6)
  | some m => if m.place ≠ 2 then throw (e.operand 6)

/-- Operand values of `qpush.start`. -/
def Exe.chkStartVals (e : Exe) (f : FormX) : Except Trap Unit := do
  if f.t ≠ 0xF3 ∧ (e.mslots.getD (bits (e.uniVal false f.t) 31 30) none).isNone then throw (e.operand 3)
  let entry := e.uniVal true f.p
  if entry % 8 ≠ 0 ∨ 2 ^ 57 ≤ entry then throw (e.operand 0)
  let b := e.uniVal false f.s
  if bits b 15 0 &&& bits b 31 16 ≠ 0 then throw (e.operand 2)

/-- `qpush.start`. -/
def squadQpushStart (f : FormX) (ms : BitVec 2) (c : Chip) (q : Squad) : Res :=
  match c.chkStart q f ms with
  | .error t => .trap t
  | .ok _ =>
    let e := q.exe
    if e.acting f.g = 0 then .done c
    else match e.chkStartVals f with
      | .error t => .trap t
      | .ok _ => c.engineCmd q (e.acting f.g) f.ps fun c =>
          let n := q.place.core
          let r := c.number n f.handle.toNat
          let b := e.uniVal false f.s
          let st : QStart :=
            { ctx := e.ctx, launch := q.launch, muster := (e.mslots.getD ms.toNat none).getD 0, slot := f.handle.toNat, num := r.1
              entry := e.uniVal true f.p, args := (List.range 8).map fun k => e.uniReg (f.q.toNat + k)
              loads := (List.range 16).filter fun k => bit b k, scatters := (List.range 16).filter fun k => bit b (16 + k)
              table := if f.t = 0xF3 then none else some (e.uniVal false f.t), mslots := e.mslots, hdrAt := e.hdrAt }
          .done (r.2.modCore n fun k => { k with starts := k.starts ++ [st] })

/-- `qpush.start`. -/
def execQpushStart (f : FormX) (ms : BitVec 2) := fun (s : State) =>
  onSquad s [0] (fun _ => uniRegs true f.p ++ blockRegs (256 + f.q.toNat) 8 ++ uniRegs false f.s ++ uniRegs false f.t) (squadQpushStart f ms)

/-! ### What the quarry does on its own (R211, R221, R222) -/

/-- Whether a start command may bind a queue (R217, R221). -/
def Queue.bindable (q : Queue) (launch muster : Nat) : Bool :=
  match q.state with
  | .free => true
  | .loadClosed | .faulted | .closed => q.launch == launch && q.muster == muster && q.entries.isEmpty
  | _ => false

/-- A queue bound by a start command of a name. -/
def Queue.bound (st : QStart) (t id : Nat) (load : Bool) : Queue :=
  { state := if load then .loadOpen else .scatterOpen, launch := st.launch, muster := st.muster, ctx := st.ctx, thread := t, cmd := id }

/-- Whether a start command is refused (R221). (DESIGN CHOICE, log 54.) -/
def Chip.startRefused (c : Chip) (n : Nat) (st : QStart) : Bool :=
  (st.loads ++ st.scatters).any (fun i => !(c.queue n i).bindable st.launch st.muster) ||
    match st.table with
    | some a => (c.scratchAt n st.launch st.mslots a 16384).isNone
    | none => false

/-- The thread that a start command makes (R209). -/
def QStart.thread (st : QStart) (id n t : Nat) : QThread :=
  { id, launch := st.launch, muster := st.muster, slot := st.slot, num := st.num, table := st.table
    exe := { ctx := st.ctx, core := n, declared := 64, mslots := st.mslots, hdrAt := st.entry, thread := some t
             uni := (st.args.mapIdx fun k w => (k, w)).foldl (fun m e => m.set 0 e.1 e.2) ([] : Sparse Word) } }

/-- The quarry takes its oldest start command where a thread is free (R221). The cause and the thread in the record of a refused
start are free values. -/
def Chip.takeStart (c : Chip) (n : Nat) : Chip :=
  match (c.core n).starts, (List.range 16).find? fun t => (c.thread? n t).isNone with
  | st :: rest, some t =>
    let d := c.modCore n fun k => { k with starts := rest }
    if c.startRefused n st then
      let r := d.free
      (r.2.finish n st.slot st.num true).errAppend st.ctx (record212 0x22 (bits r.1.toNat 7 0) st.slot (bits r.1.toNat 11 8) n st.num st.hdrAt 0)
    else
      let d := st.loads.foldl (fun c i => c.modQueue n i fun _ => Queue.bound st t c.nextId true) d
      let d := st.scatters.foldl (fun c i => c.modQueue n i fun _ => Queue.bound st t c.nextId false) d
      { d.modCore n (fun k => { k with threads := k.threads.set t (some (st.thread d.nextId n t)) }) with nextId := d.nextId + 1 }
  | _, _ => c

/-- Whether a request of a quarry thread is a read whose entry has been discarded (R212, R222). -/
def Chip.orphan (c : Chip) (n : Nat) (r : Request) : Bool :=
  let q := c.queue n r.queue
  r.kind == .load && !(q.cmd == r.cmd && q.entries.any fun x => x.num == r.entry)

/-- A start command whose thread has ended completes once its reads, but those of discarded entries, and its stores are over (R222). -/
def Chip.completeStart (c : Chip) (n id : Nat) : Chip :=
  match (c.core n).ends.find? fun d => d.id == id with
  | none => c
  | some d =>
    if c.requests.any fun r => r.cmd == id && r.core == n && !c.orphan n r && (match r.agent with
      | .thread _ _ => true
      | .squad _ => false) then c
    else (c.modCore n fun k => { k with ends := k.ends.filter fun d => d.id != id }).finish n d.slot d.num false

/-- Put the bytes of a landed read into its entry (R218). -/
def Queue.land (q : Queue) (entry fill : Nat) (bs : List Byte) : Queue :=
  Queue.settle { q with entries := q.entries.map fun x =>
    if x.num = entry then
      { x with out := x.out.erase (fill, bs.length), bytes := x.bytes.mapIdx fun i b => if fill ≤ i ∧ i < fill + bs.length then bs.getD (i - fill) 0 else b }
    else x }

/-- A thread's access that failed takes its fault path (R212, R383): the thread faults where it still runs; otherwise the queue
is Faulted and the record appended all the same. The entry of a failed read can never be Complete and is discarded with the fault, a closed one too.
Nothing is left to fault for a read whose entry has been discarded. (DEDUCED, log 100.) -/
def Chip.threadFailed (c : Chip) (r : Request) (n t reason : Nat) (a : Access) : Chip :=
  let lose := fun (c : Chip) => if r.kind = .load ∧ !c.orphan n r then c.modQueue n r.queue fun q => q.remove r.entry else c
  if ((c.thread? n t).map (·.id)) = some r.cmd then (lose c).quarryFaultAt n t (threadFault reason a.va) r.hdrAt
  else match (c.core n).ends.find? fun d => d.id == r.cmd with
    | none => c
    | some d =>
      if c.orphan n r then c
      else
        let c := if r.kind = .load then (lose c).modQueue n r.queue Queue.feederFaults else c
        let c := c.modCore n fun k => { k with slots := modAt k.slots d.slot fun s => { s with fault := true } }
        c.errAppend r.ctx (record212 0x21 5 d.slot t n d.num r.hdrAt a.va)

/-- A performed access of a thread is over: a read lands in its entry (R218). -/
def Chip.landThread (c : Chip) (id : Nat) : Chip :=
  match c.request? id with
  | none => c
  | some r => match r.agent, r.accs with
    | .thread n t, [a] => match a.status with
      | .done bs =>
        let c := c.dropRequest id
        if r.kind = .load ∧ !c.orphan n r then c.modQueue n r.queue fun q => q.land r.entry r.fill bs else c
      | .failed reason => (c.dropRequest id).threadFailed r n t reason a
      | _ => c
    | _, _ => c

end Sys2Proof.Machine
end

