-- ==== Sys2Proof/Machine/Hoist.lean ====
section
/-! DEFINITION. The hoist and the cluster ring (R231 to R243): issue of `hoist` and `rrot`, opcodes 0x340 and 0x341, and what
the copy engine and the ring agent do on their own. -/

namespace Sys2Proof.Machine

/-! ### The shape record (R231, R232) -/

/-- Op, dimensions used, element bytes, and the two addresses of a record. -/
def shapeOp (r : Nat) : Nat := bits r 215 213
def shapeDims (r : Nat) : Nat := bits r 212 210
def shapeEs (r : Nat) : Nat := 2 ^ bits r 209 208
def shapeSrc (r : Nat) : Nat := bits r 63 0
def shapeDst (r : Nat) : Nat := bits r 127 64

/-- Barrier address, 0 for none; whether it is in scratch. -/
def shapeBar (r : Nat) : Nat := bits r 191 132 * 16
def shapeBarScr (r : Nat) : Bool := bit r 128

/-- The word of dimension k, from 1 to 4. -/
def shapeDim (r k : Nat) : Nat := bits r (255 + 64 * k) (192 + 64 * k)

/-- Count and strides of dimension k; dimension 0 is the innermost run. -/
def shapeCount (r k : Nat) : Nat := if k = 0 then bits r 207 192 + 1 else bits (shapeDim r k) 15 0 + 1
def shapeSs (r k : Nat) : Int := if k = 0 then shapeEs r else signed 24 (bits (shapeDim r k) 39 16)
def shapeDs (r k : Nat) : Int := if k = 0 then shapeEs r else signed 24 (bits (shapeDim r k) 63 40)

/-- Move size T (R232). -/
def shapeT (r : Nat) : Nat := shapeEs r * ((List.range 5).map (shapeCount r)).foldl (· * ·) 1

/-- Source and destination offset of every element, dimension 0 innermost (R232). -/
def shapeOffs (r : Nat) : List (Int × Int) :=
  (List.range 5).foldl (fun xs k => (List.range (shapeCount r k)).flatMap fun (i : Nat) =>
    xs.map fun x => (x.1 + (i : Int) * shapeSs r k, x.2 + (i : Int) * shapeDs r k)) [(0, 0)]

/-- Lowest offset that strides reach, and the highest byte reached plus one. -/
def shapeReach (r : Nat) (stride : Nat → Int) : Int × Int :=
  (List.range 5).foldl (fun m k =>
    let d := ((shapeCount r k : Int) - 1) * stride k
    (m.1 + min 0 d, m.2 + max 0 d)) (0, (shapeEs r : Int))

/-- Whether the source, and the destination, is in scratch. Ops 3 and 4 read no source. -/
def shapeSrcScr (r : Nat) : Bool := shapeOp r == 1 || shapeOp r == 2
def shapeDstScr (r : Nat) : Bool := shapeOp r != 1

/-- Whether a command moves bytes. -/
def shapeMoves (r : Nat) : Bool := decide (shapeOp r ≤ 2)

/-! ### Checks of the record (R235) -/

/-- Whether a scratch address, through the squad's slots, holds every byte that a pattern reaches. -/
def Chip.scratchHolds (c : Chip) (q : Squad) (addr : Nat) (reach : Int × Int) : Bool :=
  match c.scratchWindow q.place.core q.launch q.exe.mslots addr with
  | none => false
  | some w => decide (0 ≤ (bits addr 20 0 : Int) + reach.1) && decide ((bits addr 20 0 : Int) + reach.2 ≤ (w.2 : Int))

/-- Whether one side of a command is well formed: aligned, in the window or in global memory. -/
def Chip.sideOk (c : Chip) (q : Squad) (r addr : Nat) (scr : Bool) (stride : Nat → Int) : Bool :=
  decide (addr % shapeEs r = 0) && if scr then c.scratchHolds q addr (shapeReach r stride) else decide (addr < 2 ^ 56)

/-- The content checks of R235. -/
def Chip.shapeOk (c : Chip) (q : Squad) (r : Nat) : Bool :=
  bits r 255 216 == 0 && bits r 131 129 == 0 && decide (shapeOp r ≤ 4) && decide (1 ≤ shapeDims r) && decide (shapeDims r ≤ 5) &&
    (List.range 5).all (fun k => decide (k = 0) || decide (k < shapeDims r) || shapeDim r k == 0) &&
    decide (shapeT r ≤ 2 ^ 30) &&
    (List.range 5).all (fun k => decide (shapeSs r k % shapeEs r = 0) && decide (shapeDs r k % shapeEs r = 0)) &&
    (!shapeMoves r || c.sideOk q r (shapeSrc r) (shapeSrcScr r) (shapeSs r)) &&
    c.sideOk q r (shapeDst r) (shapeDstScr r) (shapeDs r) &&
    (shapeBar r == 0 || (shapeMoves r && if shapeBarScr r then c.scratchHolds q (shapeBar r) (0, 16) else true))

/-! ### hoist (R234) -/

/-- Scratch byte of window offset 0 of an address. -/
def Chip.windowBase (c : Chip) (q : Squad) (addr : Nat) : Nat := ((c.scratchWindow q.place.core q.launch q.exe.mslots addr).map (·.1)).getD 0

/-- Set the presence of scratch lines of a core. -/
def Chip.setAbsent (c : Chip) (n : Nat) (lines : List Nat) (v : Bool) : Chip :=
  c.modCore n fun k => { k with absent := lines.foldl (fun m l => m.set false l v) k.absent }

/-- Where offset do of a command's destination lies: a scratch byte of the core, or a global address. -/
def HoistCmd.dstAt (h : HoistCmd) (d : Int) : Nat :=
  if shapeDstScr h.record then (((h.dstBase + bits (shapeDst h.record) 20 0 : Nat) : Int) + d).toNat else pattern 64 ((shapeDst h.record : Int) + d)

/-- Where offset so of a command's source lies. -/
def HoistCmd.srcAt (h : HoistCmd) (d : Int) : Nat :=
  if shapeSrcScr h.record then (((h.srcBase + bits (shapeSrc h.record) 20 0 : Nat) : Int) + d).toNat else pattern 64 ((shapeSrc h.record : Int) + d)

/-- Every byte that a command moves, as source and destination, in the order of R232. -/
def HoistCmd.moves (h : HoistCmd) : List (Nat × Nat) :=
  (shapeOffs h.record).flatMap fun x => (List.range (shapeEs h.record)).map fun (b : Nat) => (h.srcAt (x.1 + b), h.dstAt (x.2 + b))

/-- The destination lines of a command. -/
def HoistCmd.lines (h : HoistCmd) : List Nat := ((shapeOffs h.record).map fun x => h.dstAt x.2 / 128).eraseDups

/-- Perform the scratch loads that wait on a line which has just become present, in the order they were issued (R170). -/
def Chip.performWaiting (c : Chip) (n line : Nat) : Chip :=
  (c.requests.filter fun r => r.scratch && r.core == n && r.kind == .load).foldl (fun c r =>
    c.performLanes r.id false ((r.accs.filter fun a => a.locs.any fun l => match l with
      | .scr _ b => b / 128 == line
      | _ => false).map (·.lane))) c

/-- Set the presence of scratch lines of a core, and perform the loads that wait on them (R170). -/
def Chip.setPresent (c : Chip) (n : Nat) (lines : List Nat) : Chip := lines.foldl (fun c l => (c.setAbsent n [l] false).performWaiting n l) c

/-- `hoist` once its release has been performed: record address, record, content, numbering (R234, steps 2 to 5; R236). -/
def squadHoistAt (f : FormX) (q : Squad) (c : Chip) : Res :=
  let e := q.exe
  let a := e.uniVal false f.p
  let n := q.place.core
  if (e.mslots.getD (bits a 31 30) none).isNone then .trapIn c (e.operand 0)
  else if a % 64 ≠ 0 then .trapIn c (accessFault 1 a)
  else match c.scratchAt n q.launch e.mslots a 64 with
    | none => .trapIn c (accessFault 2 a)
    | some (_, b) =>
      if Sparse.get false (c.core n).absent (b / 128) then .wait c
      else
        let r := ofLe ((List.range 64).map fun i => (c.core n).scratch.byte (b + i))
        if !c.shapeOk q r then .trapIn c (e.operand 0)
        else
          let k := c.number n f.handle.toNat
          let h : HoistCmd :=
            { id := c.nextId, core := n, ctx := e.ctx, launch := q.launch, slot := f.handle.toNat, num := k.1, hdrAt := e.hdrAt, record := r
              srcBase := c.windowBase q (shapeSrc r), dstBase := c.windowBase q (shapeDst r), barBase := c.windowBase q (shapeBar r) }
          let c := { k.2.modCore n (fun k => { k with hoists := k.hoists ++ [h] }) with nextId := c.nextId + 1 }
          .done (if !shapeDstScr r then c else if shapeOp r = 4 then c.setPresent n h.lines else c.setAbsent n h.lines true)

/-- `hoist`. -/
def squadHoist (f : FormX) (c : Chip) (q : Squad) : Res :=
  match (do
    q.exe.chkUni 0 false f.p
    if !c.slotHeld q f.handle.toNat then throw (q.exe.operand 5) : Except Trap Unit) with
  | .error t => .trap t
  | .ok _ => if q.exe.acting f.g = 0 then .done c else c.engineCmd q (q.exe.acting f.g) f.ps (squadHoistAt f q)

/-- `hoist`. -/
def execHoist (f : FormX) := fun (s : State) => onSquad s [4] (fun _ => uniRegs false f.p) (squadHoist f)

/-! ### The copy (R236 to R239) -/

/-- A hoist command of the chip. -/
def Chip.hoist? (c : Chip) (id : Nat) : Option HoistCmd := c.cores.findSome? fun k => k.hoists.find? fun h => h.id == id

/-- Whether the hoist works on a command: it is among the first 16 of its core (R238). -/
def Chip.hoistWorks (c : Chip) (h : HoistCmd) : Bool := ((c.core h.core).hoists.take 16).any fun x => x.id == h.id

/-- How a translation of the copy fails: the failure, the address, and what was needed there. -/
abbrev HoistErr := XErr × Nat × Need

/-- A location of one side of a command, or the failure. -/
def Chip.hoistLoc (c : Chip) (h : HoistCmd) (scr : Bool) (need : Need) (a : Nat) : Except HoistErr Loc :=
  if scr then .ok (.scr h.core a)
  else match (if c.failedIn h.id a 1 then .error (.access 3) else c.xlByte h.core h.ctx need a) with
    | .ok l => .ok l
    | .error e => .error (e, a, need)

/-- Locations of the barrier object of a command: none without one (R238). It has a device home (R194). (DEDUCED, log 49.) -/
def Chip.hoistBar (c : Chip) (h : HoistCmd) : Except HoistErr (List Loc) :=
  let a := shapeBar h.record
  if a = 0 then .ok []
  else if shapeBarScr h.record then .ok ((List.range 16).map fun i => .scr h.core (h.barBase + bits a 20 0 + i))
  else match c.xlFor h.id h.core h.ctx { w := true } a 16 with
    | .ok ls => if onHost ls then .error (.access 0, a, { w := true }) else .ok ls
    | .error e => .error (e, a, { w := true })

/-- The moves of one destination line, as locations with the destination address; or the first failure. -/
def Chip.hoistLine (c : Chip) (h : HoistCmd) (line : Nat) : Except HoistErr (List (Loc × Nat × Loc)) :=
  (h.moves.filter fun m => m.2 / 128 == line).mapM fun m => do
    let s ← c.hoistLoc h (shapeSrcScr h.record) { r := true } m.1
    let d ← c.hoistLoc h (shapeDstScr h.record) { w := true } m.2
    return (s, m.2, d)

/-- One of the values that a pattern writes to a byte: a free choice where it writes several (R232). (DESIGN CHOICE, log 52.) -/
def Chip.pickByte (c : Chip) (vs : List Byte) : Byte × Chip :=
  match vs with
  | [] => (0, c)
  | [v] => (v, c)
  | v :: _ => let r := c.free; (vs.getD (r.1.toNat % vs.length) v, r.2)

/-- Mark a scratch line as landed by an engine: present, written, with no writer (R236). -/
def Core.landLine (k : Core) (line : Nat) : Core :=
  { k with
    absent := k.absent.set false line false
    written := k.written.set false line true
    race := k.race.set 0xFF00 line (BitVec.ofNat 16 (0xFF00 + (Sparse.get (0xFF00 : BitVec 16) k.race line).toNat % 256)) }

/-- Send the countdown of an engine command to a barrier object at an address of its context (R238). -/
def Chip.sendCount (c : Chip) (ls : List Loc) (ctx va n cmd : Nat) : Chip :=
  if ls.isEmpty then c
  else { c with updates := c.updates ++ [{ id := c.nextId, ctx, va, locs := ls, arrive := false, add := -(n : Int), cmd := some cmd }], nextId := c.nextId + 1 }

/-- Note the bytes of global memory that the sides of a command reach as accesses of its launch (R370). -/
def Chip.hoistTouch (c : Chip) (h : HoistCmd) : Chip :=
  let side := fun (c : Chip) (scr : Bool) (addr : Nat) (stride : Nat → Int) =>
    if scr then c else let r := shapeReach h.record stride; c.touch h.launch ((addr : Int) + r.1).toNat (r.2 - r.1).toNat
  side (side c (shapeSrcScr h.record) (shapeSrc h.record) (shapeSs h.record)) (shapeDstScr h.record) (shapeDst h.record) (shapeDs h.record)

/-- Keep the translations that the moves of a line use (R177). -/
def Chip.hoistFill (c : Chip) (h : HoistCmd) (line : Nat) : Chip :=
  let ms := h.moves.filter fun m => m.2 / 128 == line
  let pages := fun (xs : List Nat) => (xs.map (· / 65536 * 65536)).eraseDups
  let fill := fun (c : Chip) (scr : Bool) (xs : List Nat) => if scr then c else (pages xs).foldl (fun c a => c.fillTlb h.core h.ctx a) c
  fill (fill c (shapeSrcScr h.record) (ms.map (·.1))) (shapeDstScr h.record) (ms.map (·.2))

/-- Bytes that a command moves into a line: one that the pattern writes twice counts twice. (DESIGN CHOICE, log 98.) -/
def HoistCmd.lineBytes (h : HoistCmd) (line : Nat) : Nat := (h.moves.filter fun m => m.2 / 128 == line).length

/-- One destination line lands: every source byte is read before any byte of the line is written (R232, R236 to R238). (DEDUCED, log 51.) -/
def Chip.landHoist (c : Chip) (h : HoistCmd) (line : Nat) (ms : List (Loc × Nat × Loc)) (bar : List Loc) : Chip :=
  let vals := ms.map fun m => (m.2.1, m.2.2, c.byteAt m.1)
  let dsts := (vals.map fun v => (v.1, v.2.1)).eraseDups
  let c := dsts.foldl (fun c d =>
    let r := c.pickByte ((vals.filter fun v => v.1 == d.1).map (·.2.2))
    r.2.putByte d.2 r.1) c
  let pas := dsts.filterMap fun d => d.2.devPa?
  let c := c.modCore h.core fun k =>
    { k with
      l1 := if pas.isEmpty then k.l1 else k.l1.filter fun x => !(x.pas.any pas.contains)
      hoists := k.hoists.map fun x => if x.id = h.id then { x with landed := x.landed ++ [line] } else x }
  let c := if shapeDstScr h.record then (c.modCore h.core fun k => k.landLine line).performWaiting h.core line else c
  c.sendCount bar h.ctx (shapeBar h.record) (h.lineBytes line) h.id

/-- HOIST_LINE_LANDING: a line of a command that the hoist works on lands, or waits on a page, be it the barrier object's (R178, R239). (DESIGN CHOICE,
log 98.) -/
def Chip.hoistLanding (c : Chip) (id line : Nat) : Chip :=
  match c.hoist? id with
  | none => c
  | some h =>
    if h.faulted || !shapeMoves h.record || !c.hoistWorks h || h.landed.contains line || !h.lines.contains line then c
    else match c.hoistLine h line, c.hoistBar h with
      | .ok ms, .ok bar => if c.inCopy (ms.map (·.1) ++ ms.map (·.2.2)) then c else ((c.hoistTouch h).hoistFill h line).landHoist h line ms bar
      | .error (.absent p, _, need), _ => c.engineFault h.ctx p h.core id need
      | _, .error (.absent p, _, need) => c.engineFault h.ctx p h.core id need
      | _, _ => c

/-- Whether every line of a command has landed. -/
def HoistCmd.all (h : HoistCmd) : Bool := !shapeMoves h.record || h.lines.all h.landed.contains

/-- HOIST_COMPLETION: everything has landed and every countdown is applied, or the command has faulted (R238, R239). -/
def Chip.hoistComplete (c : Chip) (id : Nat) : Chip :=
  match c.hoist? id with
  | none => c
  | some h =>
    if !c.hoistWorks h || !(h.faulted || h.all) || h.owed != 0 || c.updates.any fun u => u.cmd == some id then c
    else (c.modCore h.core fun k => { k with hoists := k.hoists.filter fun x => x.id != id }).finish h.core h.slot h.num h.faulted

/-- The address at which the copy of a command meets an access fault, a page that was reported unresolvable among them; a fault at the barrier object's own
page counts as one of the command, with the object's address. (DESIGN CHOICE, log 98.) -/
def Chip.hoistError (c : Chip) (h : HoistCmd) : Option Nat :=
  let bad := fun (e : HoistErr) => match e.1 with
    | .access _ => some e.2.1
    | .absent _ => none
  match (h.lines.filter fun l => !h.landed.contains l).findSome? fun l => match c.hoistLine h l with
      | .error e => bad e
      | .ok _ => none with
  | some a => some a
  | none => match c.hoistBar h with
    | .error e => bad e
    | .ok _ => none

/-- The countdown of the bytes that a faulted command will not place (R239, step 3): it is sent once the page of the barrier object is there, and is
lost with an object that cannot be reached. -/
def Chip.hoistOwed (c : Chip) (h : HoistCmd) : Chip :=
  let paid := fun (c : Chip) => c.modCore h.core fun k => { k with hoists := k.hoists.map fun x => if x.id = h.id then { x with owed := 0 } else x }
  if h.owed = 0 then c
  else match c.hoistBar h with
    | .ok bar => (paid c).sendCount bar h.ctx (shapeBar h.record) h.owed h.id
    | .error (.absent p, _, need) => c.engineFault h.ctx p h.core h.id need
    | .error (.access _, _, _) => paid c

/-- HOIST_FAULT: the copy stops, presence is restored, the rest is counted down, the record is appended (R239). -/
def Chip.hoistFault (c : Chip) (id : Nat) : Chip :=
  match c.hoist? id with
  | none => c
  | some h =>
    if h.faulted then c.hoistOwed h
    else if !shapeMoves h.record || !c.hoistWorks h then c
    else match c.hoistError h with
      | none => c
      | some a =>
        let rest := h.lines.filter fun l => !h.landed.contains l
        let h' := { h with faulted := true, owed := if shapeBar h.record = 0 then 0 else (rest.map h.lineBytes).sum }
        let c := c.modCore h.core fun k => { k with hoists := k.hoists.map fun x => if x.id = id then h' else x }
        let c := if shapeDstScr h.record then c.setPresent h.core rest else c
        (c.hoistOwed h').errAppend h.ctx (record212 0x23 5 h.slot 0 h.core h.num h.hdrAt a)

/-- HOIST_LINE_LANDING. -/
def execHoistLineLanding (id line : Nat) := fun (s : State) => onChip s (s.chip.hoistLanding id line)
/-- HOIST_COMPLETION. -/
def execHoistCompletion (id : Nat) := fun (s : State) => onChip s (s.chip.hoistComplete id)
/-- HOIST_FAULT. -/
def execHoistFault (id : Nat) := fun (s : State) => onChip s (s.chip.hoistFault id)

/-! ### The cluster ring (R240 to R243) -/

/-- Cores of a cluster with their ring positions (R10). -/
def Chip.clusterCores (c : Chip) (cl : Nat) : List (Nat × Nat) :=
  (List.range c.cores.length).filterMap fun n => match (c.clusters[n]?).join with
    | some x => if x.1 = cl ∧ (c.core n).enabled then some (n, x.2) else none
    | none => none

/-- Cluster and ring position of a core. -/
def Chip.clusterOf (c : Chip) (n : Nat) : Option (Nat × Nat) := (c.clusters[n]?).join

/-- Round of the last request that a core made of a ring muster, or that failed without it. -/
def Chip.ringLast (c : Chip) (launch muster n : Nat) : Nat :=
  ((c.ringRounds.find? fun r => r.1 == launch && r.2.1 == muster && r.2.2.1 == n).map (·.2.2.2)).getD 0

/-- Set it. -/
def Chip.ringSet (c : Chip) (launch muster n k : Nat) : Chip :=
  { c with ringRounds := (launch, muster, n, k) :: c.ringRounds.filter fun r => !(r.1 == launch && r.2.1 == muster && r.2.2.1 == n) }

/-- Checks of `rrot` that come before its guard: operands, muster slots and the timeline slot, then the placement that the ring needs (R93, R240). -/
def Chip.chkRrot (c : Chip) (q : Squad) (f : FormX) (ms : BitVec 2) : Except Trap Unit := do
  q.exe.chkUni 0 false f.p
  q.exe.chkUni 1 false f.q
  let m := (q.exe.mslots.getD ms.toNat none).bind fun i => c.muster? q.launch i
  if m.isNone then throw (q.exe.operand 6)
  if (q.exe.mslots.getD (bits (q.exe.uniVal false f.p) 31 30) none).isNone then throw (q.exe.operand 0)
  if !c.slotHeld q f.handle.toNat then throw (q.exe.operand 5)
  if m.any fun m => m.place ≠ 1 then throw (q.exe.operand 6)

/-- The scratch lines of a tile. -/
def RingReq.lines (r : RingReq) : List Nat := (List.range (r.len / 128)).map (r.pos / 128 + ·)

/-- `rrot` once its release has been performed (R241). -/
def squadRrotAt (f : FormX) (ms : BitVec 2) (q : Squad) (c : Chip) : Res :=
  let e := q.exe
  let n := q.place.core
  let a := e.uniVal false f.p
  let len := e.uniVal false f.q
  if len % 128 ≠ 0 ∨ len < 128 ∨ 65536 < len then .trapIn c (e.operand 1)
  else if a % 128 ≠ 0 then .trapIn c (accessFault 1 a)
  else match c.scratchAt n q.launch e.mslots a len with
    | none => .trapIn c (accessFault 2 a)
    | some (_, b) =>
      let k := c.number n f.handle.toNat
      let mu := (e.mslots.getD ms.toNat none).getD 0
      let round := c.ringLast q.launch mu n + 1
      let r : RingReq :=
        { id := c.nextId, core := n, ctx := e.ctx, launch := q.launch, muster := mu, round, slot := f.handle.toNat, num := k.1
          hdrAt := e.hdrAt, tile := a, pos := b, len }
      let c := { (k.2.setAbsent n r.lines true) with rings := c.rings ++ [r], nextId := c.nextId + 1 }
      .done (c.ringSet q.launch mu n round)

/-- `rrot`. -/
def squadRrot (f : FormX) (ms : BitVec 2) (c : Chip) (q : Squad) : Res :=
  match c.chkRrot q f ms with
  | .error t => .trap t
  | .ok _ => if q.exe.acting f.g = 0 then .done c else c.engineCmd q (q.exe.acting f.g) f.ps (squadRrotAt f ms q)

/-- `rrot`. -/
def execRrot (f : FormX) (ms : BitVec 2) := fun (s : State) => onSquad s [4] (fun _ => uniRegs false f.p ++ uniRegs false f.q) (squadRrot f ms)

/-- Requests of a ring muster whose round has not started, of the lowest such round. -/
def Chip.ringWaiting (c : Chip) (launch muster : Nat) : List RingReq :=
  let rs := c.rings.filter fun r => r.launch == launch && r.muster == muster && !r.started
  match (rs.map (·.round)).min? with
  | none => []
  | some k => rs.filter fun r => r.round == k

/-- A round fails: no byte moves, presence returns, each request completes with the sticky fault bit and a record; the cores
that made no request will ask for the next round (R243). The cause in the record is a free value. -/
def Chip.ringFail (c : Chip) (rs : List RingReq) : Chip :=
  let c := rs.foldl (fun c r =>
    let v := c.free
    let c := v.2.setPresent r.core r.lines
    (c.finish r.core r.slot r.num true).errAppend r.ctx (record212 0x24 (bits v.1.toNat 7 0) r.slot 0 r.core r.num r.hdrAt r.tile)) c
  match rs with
  | [] => c
  | r :: _ =>
    let c := { c with rings := c.rings.filter fun x => !rs.any fun y => y.id == x.id }
    match c.clusterOf r.core with
    | none => c
    | some p => (c.clusterCores p.1).foldl (fun c n => if c.ringLast r.launch r.muster n.1 < r.round then c.ringSet r.launch r.muster n.1 r.round else c) c

/-- Fail every round that has not started and of which some request satisfies p (R243). -/
def Chip.failRounds (c : Chip) (p : RingReq → Bool) : Chip :=
  c.rings.foldl (fun c r =>
    let round := c.rings.filter fun x => !x.started && x.launch == r.launch && x.muster == r.muster && x.round == r.round
    if p r && round.any fun x => x.id == r.id then c.ringFail round else c) c

/-- Whether a core is one of the cluster of a request. -/
def Chip.ringCore (c : Chip) (n : Nat) (r : RingReq) : Bool := (c.clusterOf r.core).any fun p => (c.clusterCores p.1).any fun m => m.1 == n

/-- RING_ROUND_START: with a request of every core of the cluster, from none of which the context is being pre-empted, the tiles are read; requests that
differ in length or window offset fail (R240, R242, R243). -/
def Chip.ringStart (c : Chip) (launch muster : Nat) : Chip :=
  match c.ringWaiting launch muster with
  | [] => c
  | r :: rs =>
    match c.clusterOf r.core with
    | none => c
    | some p =>
      let all := r :: rs
      let cores := c.clusterCores p.1
      if !(cores.all fun n => all.any fun x => x.core == n.1) || cores.any fun n => (c.core n.1).preempt == some r.ctx then c
      else if all.any fun x => x.len != r.len || bits x.tile 20 0 != bits r.tile 20 0 then c.ringFail all
      else
        let from_ := fun (x : RingReq) =>
          let me := ((c.clusterOf x.core).map (·.2)).getD 0
          match (cores.find? fun n => n.2 == (me + 3) % 4).bind fun n => all.find? fun y => y.core == n.1 with
          | some y => (c.core y.core).scratch.bytes y.pos y.len
          | none => []
        { c with rings := c.rings.map fun x => if all.any fun y => y.id == x.id then { x with started := true, incoming := from_ x } else x }

/-- Whether a core holds a squad of a muster that has not retired, on a bench or saved from it. -/
def Chip.memberOn (c : Chip) (launch muster n : Nat) : Bool :=
  (c.squads.any fun q => q.place.core == n && q.launch == launch && q.exe.mslots.contains (some muster)) ||
    c.coreSets.any fun s => s.core == n && s.squads.any fun q => q.launch == launch && (c.savedSlots s.ctx q).contains (some muster)

/-- Whether every member squad of a muster has been dispatched, those that spawns have formed or still form among them (R243). -/
def Chip.membersOut (c : Chip) (launch muster : Nat) : Bool :=
  (match c.launch? launch, c.muster? launch muster with
    | some l, some m => (List.range l.squads).all fun i => !m.has i || l.dispatched.contains i
    | _, _ => true) &&
    !(c.formed.any fun f => f.launch == launch && f.muster == some muster) &&
    !c.cores.any fun k => k.bins.any fun b => b.launch == launch && b.muster == some muster

/-- Whether a request was numbered on a slot of the group that a move moves off its core. -/
def Chip.ringMoves (c : Chip) (m : Move) (r : RingReq) : Bool :=
  r.core == m.core && ((c.core r.core).slots.getD r.slot {}).owners.any fun o => c.inGroup m o.1 [some o.2]

/-- RING_ROUND_FAILURE: some core can never make its request, or the context leaves a core of the cluster, by a pre-emption or by a move of the group
whose squads are all saved (R243, R358, R361). (DEDUCED, log 53.) -/
def Chip.ringFailure (c : Chip) (launch muster : Nat) : Chip :=
  match c.ringWaiting launch muster with
  | [] => c
  | r :: rs =>
    match c.clusterOf r.core with
    | none => c
    | some p =>
      let cores := c.clusterCores p.1
      let missing := c.membersOut launch muster && cores.any fun n => !((r :: rs).any fun x => x.core == n.1) && !c.memberOn launch muster n.1
      let moved := c.moves.any fun m => (r :: rs).any (c.ringMoves m) && c.leftCore m
      if missing || moved || cores.any fun n => (c.core n.1).preempt == some r.ctx then c.ringFail (r :: rs) else c

/-- RING_TILE_LANDING: line i of the incoming tile lands; with the last the request completes (R242). -/
def Chip.ringLanding (c : Chip) (id line : Nat) : Chip :=
  match c.rings.find? fun r => r.id == id with
  | none => c
  | some r =>
    if !r.started || r.landed.contains line || decide (r.len / 128 ≤ line) then c
    else
      let at_ := r.pos / 128 + line
      let c := c.modCore r.core fun k => { k.landLine at_ with scratch := k.scratch.setBytes (r.pos + 128 * line) ((r.incoming.drop (128 * line)).take 128) }
      let c := c.performWaiting r.core at_
      let done := r.landed ++ [line]
      if done.length < r.len / 128 then { c with rings := c.rings.map fun x => if x.id = id then { x with landed := done } else x }
      else ({ c with rings := c.rings.filter fun x => x.id != id }).finish r.core r.slot r.num false

/-- RING_ROUND_START. -/
def execRingRoundStart (launch muster : Nat) := fun (s : State) => onChip s (s.chip.ringStart launch muster)
/-- RING_ROUND_FAILURE. -/
def execRingRoundFailure (launch muster : Nat) := fun (s : State) => onChip s (s.chip.ringFailure launch muster)
/-- RING_TILE_LANDING. -/
def execRingTileLanding (id line : Nat) := fun (s : State) => onChip s (s.chip.ringLanding id line)

end Sys2Proof.Machine
end

