-- ==== Sys2Proof/Machine/Matrix.lean ====
section
/-! DEFINITION. The matrix engine, opcodes 0x280 to 0x28D (R245 to R268): banks and handles, the accumulator owner, the
arithmetic of R71 to R74, operands from registers and scratch, and OWNERSHIP_SERVICE. -/

namespace Sys2Proof.Machine

/-! ### Banks (R245, R264) -/

/-- Whether every bank of a bench is free. -/
def Bench.allFree (b : Bench) : Bool := b.modes.all fun m => m == .free

/-- Free some banks: no later owner reads their contents; the owner word becomes invalid with the last (R250, R264). -/
def Bench.freeBanks (b : Bench) (ks : List Nat) : Bench :=
  let b := ks.foldl (fun b k =>
    { b with
      modes := b.modes.set k .free
      vals := b.vals.clearRange (1024 * k) (1024 * k + 1024)
      keys := b.keys.clearRange (1024 * k) (1024 * k + 1024) }) b
  if b.allFree then { b with accValid := false, accCtx := 0 } else b

/-- Give banks a mode with every value +0 and every key word empty. (DESIGN CHOICE, log 31.) -/
def Bench.clearBanks (b : Bench) (ks : List Nat) (m : BankMode) : Bench :=
  ks.foldl (fun b k =>
    { b with
      modes := b.modes.set k m
      vals := b.vals.clearRange (1024 * k) (1024 * k + 1024)
      keys := b.keys.clearRange (1024 * k) (1024 * k + 1024) }) b

/-- Value word w of a bank. -/
def Bench.val (b : Bench) (bank w : Nat) : Nat := (Sparse.get (0 : Word) b.vals (1024 * bank + w)).toNat

/-- Set a value word. -/
def Bench.setVal (b : Bench) (bank w v : Nat) : Bench := { b with vals := b.vals.set 0 (1024 * bank + w) (BitVec.ofNat 32 v) }

/-- Key word w of a bank (R270). -/
def Bench.key (b : Bench) (bank w : Nat) : Nat := (Sparse.get (0xFFFFFFFF : Word) b.keys (1024 * bank + w)).toNat

/-- Set a key word. -/
def Bench.setKey (b : Bench) (bank w v : Nat) : Bench := { b with keys := b.keys.set 0xFFFFFFFF (1024 * bank + w) (BitVec.ofNat 32 v) }

/-- Bank of a squad's handle, if it is mapped (R246). -/
def Squad.bank (q : Squad) (h : Nat) : Option Nat := (q.handles[h]?).join

/-- Handles h to h + n − 1 with their banks; none where one is out of range or unmapped. -/
def Squad.banks (q : Squad) (h n : Nat) : Option (List Nat) := (List.range n).mapM fun i => q.bank (h + i)

/-- Bench of a squad. -/
def Chip.benchOf (c : Chip) (q : Squad) : Bench := c.bench q.place.core q.place.bench

/-- Change the bench of a squad. -/
def Chip.modBenchOf (c : Chip) (q : Squad) (f : Bench → Bench) : Chip := c.modBench q.place.core q.place.bench f

/-! ### Saving and reloading banks (R266, R267, R288, R289) -/

/-- SAVE(c, n, k) of R267. -/
def Chip.saveArea (c : Chip) (x n k : Nat) : Nat := ((c.ctx? x).map (·.accBase)).getD 0 + (6 * n + k) * 0x21000

/-- The descriptor of a table (R289). -/
def Table.desc (t : Table) : Nat :=
  fld 448 t.base + fld 416 t.capacity + fld 384 t.count + fld 352 t.drained + fld 320 t.occupied + fld 31 1 + fld 30 (b01 t.block) +
    fld 27 t.n + fld 26 (b01 t.stopped) + fld 22 t.queueA + fld 18 t.queueB + fld 14 t.offA + fld 10 t.offB

/-- The table that a descriptor of bank b holds, if it is valid. -/
def Table.ofDesc (b d : Nat) : Option Table :=
  if bit d 31 then
    some { first := b, base := bits d 511 448, capacity := bits d 447 416, count := bits d 415 384, drained := bits d 383 352
           occupied := bits d 351 320, block := bit d 30, n := bits d 29 27, stopped := bit d 26, queueA := bits d 25 22
           queueB := bits d 21 18, offA := bits d 17 14, offB := bits d 13 10 }
  else none

/-- The mask of the banks that satisfy p. -/
def bankMask (p : Nat → Bool) : Nat := (((List.range 16).filter p).map fun b => 2 ^ b).sum

/-- Bytes of 1,024 words. -/
def wordBytes (f : Nat → Nat) : List Byte := (List.range 1024).flatMap fun w => leBytes 4 (f w)

/-- Spill the banks of a bench to its owner's save area and free them (R266, R288). -/
def Chip.spillBench (c : Chip) (n k : Nat) : Chip :=
  let b := c.bench n k
  let base := c.saveArea b.accCtx n k
  let on := fun i => b.modes.getD i .free != .free
  let hash := fun i => b.modes.getD i .free == .hash
  let c := ((List.range 16).filter on).foldl (fun c i =>
    let c := c.devWrite (base + 8192 * i) (wordBytes (b.val i))
    if hash i then c.devWrite (base + 8192 * i + 4096) (wordBytes (b.key i)) else c) c
  let c := c.devPut (base + 0x20000) 64 (fld 48 1 + fld 16 (bankMask hash) + bankMask on)
  let c := (List.range 16).foldl (fun c i =>
    c.devPut (base + 0x20040 + 64 * i) 64 (((b.tables.find? fun t => t.first == i).map Table.desc).getD 0)) c
  c.modBench n k fun b => { (b.freeBanks (List.range 16)) with tables := [] }

/-- Whether a context's record for a bench says that banks are saved (R267). -/
def Chip.hasSaved (c : Chip) (x n k : Nat) : Bool := (c.ctx? x).isSome && bit (c.dev.le (c.saveArea x n k + 0x20000) 8) 48

/-- Reload a context's saved banks of a bench, if it has any (R266, R288). -/
def Chip.reloadBench (c : Chip) (x n k : Nat) : Chip :=
  if !c.hasSaved x n k then c
  else
    let base := c.saveArea x n k
    let w := c.dev.le (base + 0x20000) 8
    let bench := ((List.range 16).filter fun i => bit w i).foldl (fun (b : Bench) i =>
      let hash := bit w (16 + i)
      let b := b.clearBanks [i] (if hash then .hash else .dense)
      let b := (List.range 1024).foldl (fun (b : Bench) j => b.setVal i j (c.dev.le (base + 8192 * i + 4 * j) 4)) b
      let b := if hash then (List.range 1024).foldl (fun (b : Bench) j => b.setKey i j (c.dev.le (base + 8192 * i + 4096 + 4 * j) 4)) b else b
      match (if hash then Table.ofDesc i (c.dev.le (base + 0x20040 + 64 * i) 64) else none) with
      | some t => { b with tables := b.tables ++ [t] }
      | none => b) (c.bench n k)
    (c.modBench n k fun _ => bench).devPut (base + 0x20000) 8 (w - 2 ^ 48)

/-- Retirement of a squad's banks (R246): freed while its context owns them, else taken out of the bench record. -/
def Chip.retireBanks (c : Chip) (q : Squad) : Chip :=
  let ks := q.handles.filterMap id
  let n := q.place.core
  let k := q.place.bench
  let b := c.bench n k
  if ks.isEmpty then c
  else if b.accValid && b.accCtx == q.exe.ctx then
    c.modBench n k fun b => { (b.freeBanks ks) with tables := b.tables.filter fun t => !ks.contains t.first }
  else
    let at_ := c.saveArea q.exe.ctx n k + 0x20000
    let w := c.dev.le at_ 8
    let alloc := bankMask fun i => bit w i && !ks.contains i
    let hash := bankMask fun i => bit w (16 + i) && !ks.contains i
    c.devPut at_ 8 (fld 48 (if alloc = 0 then 0 else bits w 48 48) + fld 16 hash + alloc)

/-! ### The accumulator owner (R265, R266, R268) -/

/-- The owner test of an accumulator-touching instruction: it may proceed, or the context engine serves the bench first. -/
def Chip.ownerTest (c : Chip) (q : Squad) : Bool × Chip :=
  let b := c.benchOf q
  let x := q.exe.ctx
  if b.service.isSome then (false, c)
  else if b.accValid && b.accCtx == x then (true, c)
  else if !b.accValid && !c.hasSaved x q.place.core q.place.bench then (true, c.modBenchOf q fun b => { b with accValid := true, accCtx := x })
  else (false, c.modBenchOf q fun b => { b with service := some q.uid })

/-- Run an accumulator-touching instruction after its owner test (R265, R268). (DEDUCED, log 28.) -/
def Chip.owned (c : Chip) (q : Squad) (fn : Chip → Res) : Res :=
  match c.ownerTest q with
  | (true, c) => fn c
  | (false, c) => .wait c

/-- OWNERSHIP_SERVICE of a bench: with no drain and no `jrun` in progress, the owner's banks are spilled, the new context's reloaded, and the
word names it (R266). -/
def Chip.ownership (c : Chip) (n k : Nat) : Chip :=
  match (c.bench n k).service with
  | none => c
  | some uid => match c.squad? uid with
    | none => c.modBench n k fun b => { b with service := none }
    | some q =>
      if !(c.bench n k).drains.isEmpty || (c.bench n k).tables.any (·.running.isSome) then c
      else
        let c := if (c.bench n k).accValid then c.spillBench n k else c
        (c.reloadBench q.exe.ctx n k).modBench n k fun b => { b with service := none, accValid := true, accCtx := q.exe.ctx }

/-- OWNERSHIP_SERVICE. -/
def execOwnershipService (core bench : Nat) := fun (s : State) => onChip s (s.chip.ownership core bench)

/-! ### Arithmetic (R69 to R74) -/

/-- Element format of a code of the format word (R69). -/
def matFmt (code : Nat) : Fmt :=
  match code with
  | 0 => .e4m3
  | 1 => .e5m2
  | 2 => .f16
  | 3 => .bf16
  | _ => .f32

/-- Whether a format word is legal (R69). -/
def fmtWordOk (f : Nat) (sparse : Bool) : Bool :=
  let a := bits f 3 0
  let b := bits f 7 4
  let fp8 := decide (a ≤ 1) && decide (b ≤ 1)
  bits f 31 14 == 0 && !bit f 8 && decide (bits f 10 9 ≤ 1) && decide (a ≤ 4) && decide (b ≤ 4) && bit f 11 == sparse &&
    (fp8 || (decide (2 ≤ a) && a == b && bits f 10 9 == 0 && !sparse))

/-- Whether a format word selects scale mode 01. -/
def fmtScaled (f : Nat) : Bool := bits f 10 9 == 1

/-- Cut bytes into little-endian elements of n bytes, at most `k` of them. -/
def elementsOf : Nat → Nat → List Byte → List Nat
  | 0, _, _ => []
  | k + 1, n, bs => match bs with
    | [] => []
    | _ :: _ => ofLe (bs.take n) :: elementsOf k n (bs.drop n)

/-- Elements of an operand vector in a format (R252). -/
def vecElems (f : Fmt) (bs : List Byte) : List Nat := elementsOf bs.length f.bytes bs

/-- The exact products of two vectors. -/
def products (fa fb : Fmt) (a b : List Nat) : List FVal := (a.zip b).map fun e => fMul (unpack fa e.1) (unpack fb e.2)

/-- Block sum of R71 with the cases of R72; an exact zero is +0. -/
def psum (ps : List FVal) : FVal := ps.foldl (fun s p => fAdd s p .rn) (.fin false 0 0 false)

/-- FP8 accumulation over blocks of 128 with their scales (R71, R72). -/
def accFp8 (fa fb : Fmt) : Nat → List (Nat × Nat) → List Nat → List Nat → Nat → Nat
  | 0, _, _, _, acc => acc
  | k + 1, scales, a, b, acc =>
    let t := RN32 (psum (products fa fb (a.take 128) (b.take 128)))
    let s := scales.headD (0x3F800000, 0x3F800000)
    let v := mul32 (mul32 t s.1) s.2
    accFp8 fa fb k (scales.drop 1) (a.drop 128) (b.drop 128) (add32 acc v)

/-- RN32 of the sum of two exact values. -/
def addEx (a b : FVal) : Nat := RN32 (fAdd a b .rn)

/-- The tree over one group of eight products (R73). -/
def group8 (p : List FVal) : Nat :=
  let g := fun i => p.getD i (.fin false 0 0 false)
  add32 (add32 (addEx (g 0) (g 1)) (addEx (g 2) (g 3))) (add32 (addEx (g 4) (g 5)) (addEx (g 6) (g 7)))

/-- FP16 and BF16 accumulation in groups of eight (R73). -/
def acc16 : Nat → List FVal → Nat → Nat
  | 0, _, acc => acc
  | k + 1, ps, acc => acc16 k (ps.drop 8) (add32 acc (group8 (ps.take 8)))

/-- FP32 accumulation, one fused step a product (R74). -/
def acc32 (a b : List Nat) (acc : Nat) : Nat := (a.zip b).foldl (fun s e => RN32 (fFma (val32 e.1) (val32 e.2) (val32 s) .rn)) acc

/-- One element of the product added to its accumulator (R259). -/
def matElem (f : Nat) (scales : List (Nat × Nat)) (a b : List Nat) (acc : Nat) : Nat :=
  let fa := matFmt (bits f 3 0)
  let fb := matFmt (bits f 7 4)
  if fa.bytes = 1 then accFp8 fa fb (a.length / 128) scales a b acc
  else if fa.bytes = 2 then acc16 (a.length / 8) (products fa fb a b) acc
  else acc32 a b acc

/-! ### Operands (R252 to R254) -/

/-- Bytes of a lane's block of n registers (R252). -/
def Exe.vecRegs (e : Exe) (base n l : Nat) : List Byte := (List.range n).flatMap fun i => leBytes 4 (e.reg (base + i) l).toNat

/-- OFF(v) of R253. -/
def vecOff (word pitch v : Nat) : Nat :=
  bits word 20 0 + v % 8 * bits pitch 15 0 + v / 8 * bits pitch 31 16 + 128 * (v * bits word 23 21 % 32)

/-- The n vectors of a scratch operand, each 128 locations (R253, R254): reserved bits and the slot, then the window, then
lines never written in a checked-uninitialised window. -/
def Chip.vectors (c : Chip) (q : Squad) (word pitch n field : Nat) : Except Trap (List (List Loc)) :=
  let e := q.exe
  if bits word 29 24 ≠ 0 ∨ bits word 6 0 ≠ 0 ∨ bits pitch 6 0 ≠ 0 ∨ bits pitch 22 16 ≠ 0 then .error (e.operand field)
  else match e.mslots.getD (bits word 31 30) none with
    | none => .error (e.operand field)
    | some m =>
      let w := ((c.core q.place.core).window? q.launch m).getD { launch := 0, muster := 0, base := 0, lines := 0, check := 0 }
      let va := fun v => fld 30 (bits word 31 30) + vecOff word pitch v % 2 ^ 21
      match (List.range n).find? fun v => decide (w.lines * 128 < vecOff word pitch v + 128) with
      | some v => .error (accessFault 2 (va v))
      | none => match (List.range n).find? fun v =>
            w.check == 2 && !Sparse.get false (c.core q.place.core).written (w.base + vecOff word pitch v / 128) with
        | some v => .error (accessFault 6 (va v))
        | none => .ok ((List.range n).map fun v => (List.range 128).map fun i => .scr q.place.core (w.base * 128 + vecOff word pitch v + i))

/-- Whether the reads of a scratch operand must wait for a line (R170), and the race trap they meet, with its mask (R254). -/
def Chip.vecRace (c : Chip) (q : Squad) (word : Nat) (vs : List (List Loc)) (mask : LaneMask) : Option Trap :=
  (c.raceTrap q (vs.map fun v => (0, word, v))).map fun t => { t with det := t.det / 2 ^ 32 * 2 ^ 32 + mask.toNat }

/-! ### mma and mmas (R256 to R261) -/

/-- Low and high word of a uniform pair. -/
def Exe.uniWords (e : Exe) (code : Code) : Nat × Nat := ((e.uniReg code.toNat).toNat, (e.uniReg (code.toNat + 1)).toNat)

/-- Operand codes of `mma` and `mmas` (R248). -/
def Exe.chkMma (e : Exe) (f : FormX) (m : MmaMod) (sparse : Bool) : Except Trap Unit := do
  if m.aScr then e.chkPair 0 f.p else if 0xF0 ≤ f.p.toNat then throw (e.operand 0)
  if m.bScr then e.chkPair 1 f.q else if 0xF0 ≤ f.q.toNat then throw (e.operand 1)
  if 0xF0 ≤ f.s.toNat then throw (e.operand 2)
  if sparse ∧ 0xF0 ≤ f.t.toNat then throw (e.operand 3)

/-- Registers of B: 32, or 64 in `mmas` (R252). -/
def bRegs (sparse : Bool) : Nat := if sparse then 64 else 32

/-- Register limits of R252 and of x_S. -/
def Exe.chkMmaRegs (e : Exe) (f : FormX) (m : MmaMod) (sparse : Bool) : Except Trap Unit := do
  if !m.aScr ∧ e.declared < f.p.toNat + 32 then throw (e.operand 0)
  if !m.bScr ∧ e.declared < f.q.toNat + bRegs sparse then throw (e.operand 1)
  if sparse ∧ e.declared < f.t.toNat + 12 then throw (e.operand 3)
  if e.declared ≤ f.s.toNat then throw (e.operand 2)

/-- The lanes of S whose word differs from that of its lowest lane, and that word (R70). -/
def Exe.diverge (e : Exe) (s : LaneMask) (reg : Nat) : Nat × LaneMask :=
  let ref := e.reg reg ((lowestLane s).getD 0)
  (ref.toNat, maskOf fun l => s.getLsbD l && e.reg reg l != ref)

/-- Format word of S and the checks on it and on the scales (R69, R70, R260): the common word. -/
def Exe.chkFormat (e : Exe) (f : FormX) (s : LaneMask) (sparse : Bool) : Except Trap Nat := do
  let d := e.diverge s f.s.toNat
  if d.2 ≠ 0 then throw { cause := 6, det := fld 32 d.2.toNat + d.1 }
  if !fmtWordOk d.1 sparse then throw (e.operand 8)
  let blocks := if sparse then 2 else 1
  if fmtScaled d.1 then
    if e.declared ≤ f.s.toNat + 2 * blocks then throw (e.operand 2)
    match ((List.range blocks).map fun k => e.diverge s (f.s.toNat + 2 + 2 * k)).find? fun x => x.2 != 0 with
    | some x => throw { cause := 7, det := fld 32 x.2.toNat + x.1 }
    | none => pure ()
  return d.1

/-- CODE(i, e) of R261. -/
def Exe.posCode (e : Exe) (base i k : Nat) : Nat :=
  bits (ofLe (e.vecRegs base 12 i)) (3 * k + 2) (3 * k)

/-- Lanes of S with a group of codes that is not strictly ascending (R261). -/
def Exe.badCodes (e : Exe) (base : Nat) (s : LaneMask) : LaneMask :=
  maskOf fun l => s.getLsbD l && !(List.range 32).all fun g =>
    (List.range 3).all fun t => decide (e.posCode base l (4 * g + t) < e.posCode base l (4 * g + t + 1))

/-- Row i of A with the kept elements at their positions (R261). -/
def Exe.spread (e : Exe) (base i : Nat) (kept : List Nat) : List Nat :=
  (List.range 256).map fun k =>
    match (List.range 4).find? fun t => 8 * (k / 8) + e.posCode base i (4 * (k / 8) + t) == k with
    | some t => kept.getD (4 * (k / 8) + t) 0
    | none => 0

/-- Scales of row i by block (R260). -/
def Exe.scalesOf (e : Exe) (f : FormX) (fw : Nat) (sparse : Bool) (i : Nat) : List (Nat × Nat) :=
  if fmtScaled fw then (List.range (if sparse then 2 else 1)).map fun k =>
    ((e.reg (f.s.toNat + 1 + 2 * k) i).toNat, (e.reg (f.s.toNat + 2 + 2 * k) i).toNat)
  else []

/-- A collective instruction that names an ensign issues: its members become Eligible and active, and it clears (R149). -/
def Squad.issueEnsign (q : Squad) (k : Nat) : Squad :=
  let set := (q.ensigns.getD k {}).set
  let q := q.clearEnsign k
  { q with
    exe := { q.exe with active := q.exe.active ||| set }
    contEns := if q.contEns = some k then none else q.contEns
    contLeft := if q.contLeft = some k then none else q.contLeft }

/-- The product added to a bank over the rows R and the columns C (R257, R259). -/
def Bench.accumulate (b : Bench) (bank : Nat) (rows cols : List Nat) (elem : Nat → Nat → Nat → Nat) : Bench :=
  rows.foldl (fun b i => cols.foldl (fun (b : Bench) j => b.setVal bank (32 * i + j) (elem i j (b.val bank (32 * i + j)))) b) b

/-- Bytes at locations as a squad sees them, its buffered stores included (R56). -/
def Chip.readOver (c : Chip) (r : Option Region) (ls : List Loc) : List Byte := overlay ((r.map fun r => r.read ls).getD []) (c.readLocs ls)

/-- The operands of a collective instruction: row i of A and column j of B, from registers or from vectors. -/
def Exe.rowA (e : Exe) (c : Chip) (g : Option Region) (f : FormX) (fw : Nat) (sparse : Bool) (vs : Option (List (List Loc))) (i : Nat) : List Nat :=
  let bs := match vs with
    | some vs => c.readOver g (vs.getD i [])
    | none => e.vecRegs f.p.toNat 32 i
  let k := vecElems (matFmt (bits fw 3 0)) bs
  if sparse then e.spread f.t.toNat i k else k
def Exe.colB (e : Exe) (c : Chip) (g : Option Region) (f : FormX) (fw : Nat) (sparse : Bool) (vs : Option (List (List Loc))) (j : Nat) : List Nat :=
  let bs := match vs with
    | some vs => c.readOver g (vs.getD j []) ++ if sparse then c.readOver g (vs.getD (32 + j) []) else []
    | none => e.vecRegs f.q.toNat (bRegs sparse) j
  vecElems (matFmt (bits fw 7 4)) bs

/-- The scratch operands of a collective instruction, where it has any (R258, step 7). -/
def Chip.mmaVectors (c : Chip) (q : Squad) (f : FormX) (m : MmaMod) (sparse : Bool) :
    Except Trap (Option (List (List Loc)) × Option (List (List Loc))) := do
  let a ← if m.aScr then (let w := q.exe.uniWords f.p; (c.vectors q w.1 w.2 32 0).map some) else pure none
  let b ← if m.bScr then (let w := q.exe.uniWords f.q; (c.vectors q w.1 w.2 (bRegs sparse) 1).map some) else pure none
  return (a, b)

/-- The set S of a collective instruction (R256). -/
def Squad.collective (q : Squad) (m : MmaMod) : Except Trap LaneMask :=
  if m.ensMode then
    let e := q.ensigns.getD m.ens.toNat {}
    if e.armed then .ok e.set else .error (q.exe.operand 6)
  else .ok q.exe.active

/-- Lanes of a set whose guard is true. -/
def Exe.guardIn (e : Exe) (g : Guard) (s : LaneMask) : LaneMask := maskOf fun l => s.getLsbD l && e.guard g l

/-- Handle of a dense bank (R246). -/
def Chip.denseBank (c : Chip) (q : Squad) (h : BitVec 6) : Except Trap Nat :=
  match q.bank h.toNat with
  | none => .error (q.exe.operand 5)
  | some b => if (c.benchOf q).modes.getD b .free = .dense then .ok b else .error (q.exe.operand 5)

/-- Steps 3 to 8 of R258: bank, format word, scratch operands. -/
def Chip.mmaChecks (c : Chip) (q : Squad) (f : FormX) (m : MmaMod) (sparse : Bool) (s : LaneMask) :
    Except Trap (Nat × Nat × Option (List (List Loc)) × Option (List (List Loc))) := do
  let b ← c.denseBank q f.handle
  q.exe.chkMmaRegs f m sparse
  let fw ← q.exe.chkFormat f s sparse
  let v ← c.mmaVectors q f m sparse
  if sparse then
    let bad := q.exe.badCodes f.t.toNat s
    if bad ≠ 0 then throw (q.exe.operand 3 bad.toNat)
  return (b, fw, v.1, v.2)

/-- Registers that hold the block scales of lanes whose format word, one and the same, selects scale mode 01 (R260). -/
def Exe.scaleRegs (e : Exe) (f : FormX) (sparse : Bool) (s : LaneMask) : List Nat :=
  let d := e.diverge s f.s.toNat
  if d.2 = 0 ∧ fmtScaled d.1 then blockRegs (f.s.toNat + 1) (if sparse then 4 else 2) else []

/-- `mma` and `mmas` after the owner test (R256 to R259). -/
def squadMmaOwned (f : FormX) (m : MmaMod) (sparse : Bool) (q : Squad) (c : Chip) : Res :=
  let e := q.exe
  match q.collective m with
  | .error t => .trapIn c t
  | .ok s =>
    let g := e.guardIn f.g s
    let issue := fun (c : Chip) => if m.ensMode then c.modSquad q.uid fun q => q.issueEnsign m.ens.toNat else c
    if g = 0 then .done (issue c)
    else if g ≠ s then .trapIn c (e.operand 9)
    else if c.blocked q.uid (e.scaleRegs f sparse s) then .pend c (e.scaleRegs f sparse s)
    else match c.mmaChecks q f m sparse s with
      | .error t => .trapIn c t
      | .ok (b, fw, va, vb) =>
        let locs := ((va.getD []) ++ (vb.getD [])).flatten
        if q.pennantFull (e.pennant f.ps) || (!locs.isEmpty && c.acquiring q s) || c.openAt q s locs then .stall c
        else if !c.present locs then .wait c
        else match (match c.vecRace q (e.uniWords f.p).1 (va.getD []) s with
            | some t => some t
            | none => c.vecRace q (e.uniWords f.q).1 (vb.getD []) s) with
          | some t => .trapIn c t
          | none =>
            let all := List.range 32
            let rows := if !m.aScr || fmtScaled fw || sparse then lanesOf s else all
            let cols := if !m.bScr then lanesOf s else all
            let elem := fun i j acc => matElem fw (e.scalesOf f fw sparse i) (e.rowA c q.region f fw sparse va i) (e.colB c q.region f fw sparse vb j) acc
            .done ((issue c).modBenchOf q fun x => x.accumulate b rows cols elem)

/-- `mma` and `mmas`. (DEDUCED, log 30.) -/
def squadMma (f : FormX) (m : MmaMod) (sparse : Bool) (c : Chip) (q : Squad) : Res :=
  match q.exe.chkMma f m sparse with
  | .error t => .trap t
  | .ok _ => c.owned q (squadMmaOwned f m sparse q)

/-- Registers that `mma` and `mmas` name. -/
def regsMma (f : FormX) (m : MmaMod) (sparse : Bool) : List Nat :=
  (if m.aScr then uniRegs true f.p else blockRegs f.p.toNat 32) ++ (if m.bScr then uniRegs true f.q else blockRegs f.q.toNat (bRegs sparse)) ++
    [f.s.toNat] ++ if sparse then blockRegs f.t.toNat 12 else []

/-- `mma`. -/
def execMma (f : FormX) (m : MmaMod) := fun (s : State) => onSquad s [1] (fun _ => regsMma f m false) (squadMma f m false)
/-- `mmas`. -/
def execMmas (f : FormX) (m : MmaMod) := fun (s : State) => onSquad s [1] (fun _ => regsMma f m true) (squadMma f m true)

/-! ### mldt (R255) -/

/-- The rows of a lane's column as locations; none where the lane is switched off (R171, R255). A row address does not wrap, so that a
row beyond the window is out of it. (DESIGN CHOICE, log 96.) -/
def Chip.mldtLane (c : Chip) (q : Squad) (a p es l : Nat) : Option (List (Nat × List Loc)) :=
  (List.range (128 / es)).mapM fun r =>
    let va := a + r * p + l * es
    match q.exe.mslots.getD (bits a 31 30) none with
    | none => none
    | some m => match (c.core q.place.core).window? q.launch m with
      | none => none
      | some w =>
        let off := bits a 20 0 + r * p + l * es
        if w.lines * 128 < off + es then none
        else if w.check = 2 ∧ !Sparse.get false (c.core q.place.core).written (w.base + off / 128) then none
        else some (va, (List.range es).map fun i => .scr q.place.core (w.base * 128 + off + i))

/-- `mldt`: a load of 32 registers a lane. -/
def squadMldt (f : FormX) (es : BitVec 2) (c : Chip) (q : Squad) : Res :=
  let e := q.exe
  let z := 2 ^ es.toNat
  let a := e.uniVal false f.p
  let p := e.uniVal false f.q
  match (do
    e.chkUni 0 false f.p
    e.chkUni 1 false f.q
    if 0xF0 ≤ f.s.toNat ∨ e.declared ≤ f.s.toNat then throw (e.operand 2)
    if (e.mslots.getD (bits a 31 30) none).isNone then throw (e.operand 0)
    if a % z ≠ 0 ∨ p % z ≠ 0 then throw (accessFault 1 a)
    if e.declared < f.s.toNat + 32 then throw (e.operand 2) : Except Trap Unit) with
  | .error t => .trap t
  | .ok _ =>
    let g := lanesOf (e.acting f.g)
    if g.isEmpty then .done c
    else if c.acquiring q (e.acting f.g) || q.pennantFull (e.pennant f.ps) then .stall c
    else
      let xs := g.map fun l => (l, c.mldtLane q a p z l)
      let off := maskOf fun l => xs.any fun x => x.1 == l && x.2.isNone
      let q' := if off = 0 then q else q.switchOff off
      let c := c.setSquad q'
      let live := xs.filterMap fun x => x.2.map fun rs => (x.1, rs)
      match c.raceTrap q (live.flatMap fun x => x.2.map fun r => (x.1, r.1, r.2)) with
      | some t => .trapIn c t
      | none =>
        if live.isEmpty then .done c
        else
          let pn := e.pennant f.ps
          let acc := fun (x : Nat × List (Nat × List Loc)) =>
            let ls := x.2.flatMap (·.2)
            ({ lane := x.1, va := a + x.1 * z, locs := ls, onTop := (q.region.map fun r => r.read ls).getD [] } : Access)
          let r : Request :=
            { id := c.nextId, agent := .squad q.uid, ctx := e.ctx, core := q.place.core, launch := q.launch, musters := e.mslots.filterMap id, kind := .load, size := 128
              accs := live.map acc
              scope := 1, order := 0, scratch := true, dst := some f.s, dstRegs := blockRegs f.s.toNat 32, pennant := pn
              instrAt := e.wordAt, hdrAt := e.hdrAt, inRegion := q.region.isSome }
          .done { (c.modSquad q.uid fun q => q.raise pn) with requests := c.requests ++ [r], nextId := c.nextId + 1 }

/-- `mldt`. -/
def execMldt (f : FormX) (es : BitVec 2) := fun (s : State) =>
  onSquad s [1] (fun _ => uniRegs false f.p ++ uniRegs false f.q ++ blockRegs f.s.toNat 32) (squadMldt f es)

/-! ### acqb, relb, azero (R249 to R251) -/

/-- What the test of `acqb` finds (R249): no lane asks, it may issue, it waits, or it traps. -/
inductive AcqTest where
  | idle
  | ready (c : Chip)
  | wait (c : Chip)
  | trap (c : Chip) (t : Trap)

/-- Number of free banks of a bench. -/
def Bench.freeCount (b : Bench) : Nat := (b.modes.filter fun m => m == .free).length

/-- Whether a squad's turn at `acqb` has come: none of its bench failed its first test earlier (R249). -/
def Chip.acqTurn (c : Chip) (q : Squad) : Bool :=
  (c.onBench q.place.core q.place.bench).all fun p => p.uid == q.uid || match p.acqbAt with
    | none => true
    | some t => match q.acqbAt with
      | none => false
      | some u => decide (u < t)

/-- The test of `acqb` (R249, R265). -/
def Chip.testAcqb (c : Chip) (q : Squad) (f : FormX) (n1 : BitVec 5) : AcqTest :=
  let n := n1.toNat + 1
  let h := f.handle.toNat
  if q.exe.acting f.g = 0 then .idle
  else if q.exe.pos ≠ 0 then .trap c q.exe.illegalClause
  else match c.ownerTest q with
    | (false, c) => .wait c
    | (true, c) =>
      if 16 < h + n ∨ (List.range n).any (fun i => (q.bank (h + i)).isSome) then .trap c (q.exe.operand 5)
      else if n ≤ (c.benchOf q).freeCount ∧ c.acqTurn q then .ready c
      else .wait (match q.acqbAt with
        | some _ => c
        | none => { c.modSquad q.uid (fun q => { q with acqbAt := some c.order }) with order := c.order + 1 })

/-- `acqb`: the lowest free banks, zeroed and dense, go to the handles in ascending order (R249). -/
def squadAcqb (f : FormX) (n1 : BitVec 5) (c : Chip) (q : Squad) : Res :=
  match c.testAcqb q f n1 with
  | .idle => if q.exe.pos ≠ 0 then .trap q.exe.illegalClause else .done c
  | .trap c t => .trapIn c t
  | .wait c => .wait c
  | .ready c =>
    let ks := ((List.range 16).filter fun b => (c.benchOf q).modes.getD b .free == .free).take (n1.toNat + 1)
    let c := c.modBenchOf q fun b => b.clearBanks ks .dense
    .done (c.modSquad q.uid fun q =>
      { q with acqbAt := none, handles := q.handles.mapIdx fun i b => if f.handle.toNat ≤ i ∧ i < f.handle.toNat + ks.length then ks[i - f.handle.toNat]? else b })

/-- `acqb`. -/
def execAcqb (f : FormX) (n1 : BitVec 5) := fun (s : State) => onSquad s [1] (fun _ => []) (squadAcqb f n1)

/-- The table of a squad that lies over one of its handles: its first handle, and the table (R270). -/
def Chip.tableOver (c : Chip) (q : Squad) (h : Nat) : Option (Nat × Table) :=
  (List.range (h + 1)).findSome? fun i => (q.bank i).bind fun b =>
    ((c.benchOf q).tables.find? fun t => t.first == b && decide (h < i + 2 ^ t.n)).map fun t => (i, t)

/-- `relb`: the handles are unmapped, their banks freed, the tables over them discarded; a drain is waited for (R250, R274). -/
def squadRelb (f : FormX) (n1 : BitVec 5) (c : Chip) (q : Squad) : Res :=
  let n := n1.toNat + 1
  let h := f.handle.toNat
  if q.exe.acting f.g = 0 then .done c
  else c.owned q fun c =>
    match (if 16 < h + n then none else q.banks h n) with
    | none => .trapIn c (q.exe.operand 5)
    | some ks =>
      let ts := (List.range n).filterMap fun i => (c.tableOver q (h + i)).map (·.2)
      if ts.any (·.draining) then .stall c
      else
        let c := c.modBenchOf q fun b => { (b.freeBanks ks) with tables := b.tables.filter fun t => !ts.contains t }
        .done (c.modSquad q.uid fun q => { q with handles := q.handles.mapIdx fun i b => if h ≤ i ∧ i < h + n then none else b })

/-- `relb`. -/
def execRelb (f : FormX) (n1 : BitVec 5) := fun (s : State) => onSquad s [1] (fun _ => []) (squadRelb f n1)

/-- `azero` (R251). -/
def squadAzero (f : FormX) (n1 : BitVec 5) (c : Chip) (q : Squad) : Res :=
  let n := n1.toNat + 1
  let h := f.handle.toNat
  if q.exe.acting f.g = 0 then .done c
  else c.owned q fun c =>
    match (if 16 < h + n then none else q.banks h n) with
    | none => .trapIn c (q.exe.operand 5)
    | some ks =>
      if ks.all fun k => (c.benchOf q).modes.getD k .free == .dense then .done (c.modBenchOf q fun b => b.clearBanks ks .dense)
      else .trapIn c (q.exe.operand 5)

/-- `azero`. -/
def execAzero (f : FormX) (n1 : BitVec 5) := fun (s : State) => onSquad s [1] (fun _ => []) (squadAzero f n1)

/-! ### ard and awr (R262) -/

/-- Checks of `ard` and `awr` after the owner test: the bank. -/
def Chip.chkRows (c : Chip) (q : Squad) (f : FormX) (n1 col : BitVec 5) : Except Trap Nat := do
  let b ← c.denseBank q f.handle
  if 32 < col.toNat + n1.toNat + 1 then throw (q.exe.operand 6)
  if q.exe.declared < f.p.toNat + n1.toNat + 1 then throw (q.exe.operand 0)
  return b

/-- Code of the base register of `ard` and `awr` (R86, R248). -/
def Exe.chkBase (e : Exe) (f : FormX) : Except Trap Unit :=
  if f.p.toNat < 0xF0 ∧ f.p.toNat < e.declared then .ok () else .error (e.operand 0)

/-- Registers base to base + n − 1 of a lane take n raw words. -/
def Exe.setBlock (e : Exe) (base n l : Nat) (v : Nat → Nat) : Exe := (List.range n).foldl (fun e m => e.setReg (base + m) l (v m)) e

/-- Row l of a bank takes n words from a column on. -/
def Bench.setRow (b : Bench) (bank l col n : Nat) (v : Nat → Nat) : Bench :=
  (List.range n).foldl (fun b m => b.setVal bank (32 * l + col + m) (v m)) b

/-- `ard`: bank row l to the registers of lane l, raw bits. -/
def squadArd (f : FormX) (n1 col : BitVec 5) (c : Chip) (q : Squad) : Res :=
  match q.exe.chkBase f with
  | .error t => .trap t
  | .ok _ => c.owned q fun c => match c.chkRows q f n1 col with
    | .error t => .trapIn c t
    | .ok b =>
      let x := c.benchOf q
      let e := q.exe.each (q.exe.acting f.g) fun e l => e.setBlock f.p.toNat (n1.toNat + 1) l fun m => x.val b (32 * l + col.toNat + m)
      .done (c.modSquad q.uid fun q => { q with exe := e })

/-- `ard`. -/
def execArd (f : FormX) (n1 col : BitVec 5) := fun (s : State) => onSquad s [1] (fun _ => blockRegs f.p.toNat (n1.toNat + 1)) (squadArd f n1 col)

/-- `awr`: the registers of lane l to bank row l. -/
def squadAwr (f : FormX) (n1 col : BitVec 5) (c : Chip) (q : Squad) : Res :=
  match q.exe.chkBase f with
  | .error t => .trap t
  | .ok _ => c.owned q fun c => match c.chkRows q f n1 col with
    | .error t => .trapIn c t
    | .ok b =>
      .done (c.modBenchOf q fun x => (lanesOf (q.exe.acting f.g)).foldl (fun x l =>
        x.setRow b l col.toNat (n1.toNat + 1) fun m => (q.exe.reg (f.p.toNat + m) l).toNat) x)

/-- `awr`. -/
def execAwr (f : FormX) (n1 col : BitVec 5) := fun (s : State) => onSquad s [1] (fun _ => blockRegs f.p.toNat (n1.toNat + 1)) (squadAwr f n1 col)

/-! ### accst (R263) -/

/-- Output format of `accst`. -/
def accFmt (code : BitVec 3) : Fmt :=
  match code.toNat with
  | 0 => .f32
  | 1 => .f16
  | 2 => .bf16
  | 3 => .e4m3
  | _ => .e5m2

/-- Rounding mode of a code (R69). -/
def rndOf (k : Nat) : Rnd :=
  match k with
  | 0 => .rn
  | 1 => .rz
  | 2 => .rm
  | _ => .rp

/-- Operand conditions of `accst` (R248, R263). (DEDUCED, log 29.) -/
def Exe.chkAccst (e : Exe) (f : FormX) (scr : Bool) (fmt scope : BitVec 3) (order : BitVec 2) : Except Trap Unit := do
  if scr then e.chkUni 0 false f.p else e.chkPair 0 f.p
  e.chkUni 1 false f.q
  e.chkUni 2 false f.s
  if 4 < fmt.toNat ∨ 4 < scope.toNat ∨ order.toNat % 2 = 1 then throw (e.operand 6)
  if scr ∧ (e.mslots.getD (bits (e.uniVal false f.p) 31 30) none).isNone then throw (e.operand 0)

/-- One element of `accst`: its byte address and its bytes. -/
def accBytes (x : Bench) (b : Nat) (fmt : Fmt) (rnd : Rnd) (i j : Nat) : List Byte :=
  let v := x.val b (32 * i + j)
  leBytes fmt.bytes (if fmt = .f32 then v else ROUND (val32 v) fmt rnd)

/-- Where the 32 rows of `accst` go (R263): a location for each byte, a page that is not present, or the trap. The trap names the base address for an
absent scratch line, and else the first byte of the row that fails; a row that reaches the aperture from a base below it is an access fault. (DESIGN
CHOICE, log 96.) -/
def Chip.accRows (c : Chip) (q : Squad) (scr : Bool) (a p w : Nat) : Except (Trap ⊕ Nat) (List (List Loc)) :=
  if scr then
    match (c.core q.place.core).window? q.launch ((q.exe.mslots.getD (bits a 31 30) none).getD 0) with
    | none => .error (.inl (accessFault 2 a))
    | some x =>
      match (List.range 32).find? fun i => decide (x.lines * 128 < bits a 20 0 + i * p + 32 * w) with
      | some i => .error (.inl (accessFault 2 (fld 30 (bits a 31 30) + (bits a 20 0 + i * p) % 2 ^ 21)))
      | none =>
        let ls := (List.range 32).map fun i => (List.range (32 * w)).map fun k => Loc.scr q.place.core (x.base * 128 + bits a 20 0 + i * p + k)
        if c.present ls.flatten then .ok ls else .error (.inl (accessFault 6 a))
  else
    let rs := (List.range 32).map fun i => (a + i * p, c.xl q.place.core q.exe.ctx { w := true } (pattern 64 ((a + i * p : Nat) : Int)) (32 * w))
    match rs.findSome? fun r => match r.2 with
        | .error (.access k) => some (accessFault k r.1)
        | _ => none with
    | some t => .error (.inl t)
    | none => rs.mapM fun r => match r.2 with
      | .ok ls => .ok ls
      | .error (.absent pg) => .error (.inr pg)
      | .error (.access k) => .error (.inl (accessFault k r.1))

/-- The request of an `accst`: 32 accesses of the whole squad, one for each row, each made element by element (R263, R45). -/
def Chip.accReq (c : Chip) (q : Squad) (f : FormX) (scr : Bool) (w scope order : Nat) (rows : List (List Loc)) (data : Nat → List Byte) : Request :=
  let e := q.exe
  let a := e.uniVal (!scr) f.p
  { id := c.nextId, agent := .squad q.uid, ctx := e.ctx, core := q.place.core, launch := q.launch, musters := e.mslots.filterMap id, kind := .store
    size := 32 * w, scope := if scr then min scope 1 else scope, order, scratch := scr, pennant := e.pennant f.ps, instrAt := e.wordAt, hdrAt := e.hdrAt
    squadWide := true
    accs := rows.mapIdx fun i ls => { lane := i, va := a + i * e.uniVal false f.q, locs := ls, data := data i, elem := w } }

/-- The stores of an `accst` leave: its lines take the squad as their writer, its translations stay cached (R59, R177). -/
def Chip.sendAccst (c : Chip) (q : Squad) (r : Request) (w : Nat) : Chip :=
  let c := r.accs.foldl (fun c x =>
    if r.scratch then (List.range 32).foldl (fun c j => c.raceMark q.place ((x.locs.drop (j * w)).take w)) c
    else (c.fillTlb q.place.core q.exe.ctx x.va).fillTlb q.place.core q.exe.ctx (x.va + 32 * w - 1)) c
  { (c.modSquad q.uid fun q => q.raise r.pennant) with requests := c.requests ++ [r], nextId := c.nextId + 1 }

/-- `accst` after its operand checks and the owner test. A memory-model exception of it names the active lanes whose guard is true. (DESIGN CHOICE,
log 96.) -/
def squadAccstOwned (f : FormX) (scr : Bool) (fmt scope : BitVec 3) (order : BitVec 2) (q : Squad) (c : Chip) : Res :=
  let e := q.exe
  let w := (accFmt fmt).bytes
  let a := e.uniVal (!scr) f.p
  let p := e.uniVal false f.q
  match c.denseBank q f.handle with
  | .error t => .trapIn c t
  | .ok b =>
    if a % w ≠ 0 ∨ p % w ≠ 0 then .trapIn c (accessFault 1 a)
    else if !scr ∧ 2 ^ 56 ≤ a then .trapIn c (e.operand 0)
    else match c.accRows q scr a p w with
      | .error (.inl t) => .trapIn c t
      | .error (.inr page) => c.endRegion q fun c => c.waitPage q page { w := true }
      | .ok rows =>
        let race := if scr then (c.raceTrap q (rows.flatMap fun ls => (List.range 32).map fun j => (0, a, (ls.drop (j * w)).take w))).map fun t =>
            { t with det := t.det / 2 ^ 32 * 2 ^ 32 + (e.acting f.g).toNat } else none
        match race with
        | some t => .trapIn c t
        | none =>
          if c.acquiring q (BitVec.allOnes 32) || q.pennantFull (e.pennant f.ps) then .stall c
          else c.endRegion q fun c =>
            if c.openAt q (BitVec.allOnes 32) rows.flatten || (bit order.toNat 1 && c.earlier (.squad q.uid) c.nextId (BitVec.allOnes 32)) then .stall c
            else
              let x := c.benchOf q
              let rnd := rndOf (bits (e.uniVal false f.s) 13 12)
              .done (c.sendAccst q (c.accReq q f scr w scope.toNat order.toNat rows fun i =>
                (List.range 32).flatMap (accBytes x b (accFmt fmt) rnd i)) w)

/-- `accst`. -/
def squadAccst (f : FormX) (scr : Bool) (fmt scope : BitVec 3) (order : BitVec 2) (c : Chip) (q : Squad) : Res :=
  match q.exe.chkAccst f scr fmt scope order with
  | .error t => .trap t
  | .ok _ => if q.exe.acting f.g = 0 then .done c else c.owned q (squadAccstOwned f scr fmt scope order q)

/-- `accst`. -/
def execAccst (f : FormX) (scr : Bool) (fmt scope : BitVec 3) (order : BitVec 2) := fun (s : State) =>
  onSquad s [1] (fun _ => uniRegs (!scr) f.p ++ uniRegs false f.q ++ uniRegs false f.s) (squadAccst f scr fmt scope order)

end Sys2Proof.Machine
end

