-- ==== Sys2Proof/Machine/Join.lean ====
section
/-! DEFINITION. The join engine, opcodes 0x2C0 to 0x2C5 (R270 to R289): tables over accumulator banks, the spoil path, joining
two queues, and DRAIN_COMPLETION. -/

namespace Sys2Proof.Machine

/-! ### Tables (R270 to R272) -/

/-- The table whose first handle a squad names (R276). -/
def Chip.tableAt (c : Chip) (q : Squad) (h : BitVec 6) : Option Table :=
  (q.bank h.toNat).bind fun b => (c.benchOf q).tables.find? fun t => t.first == b

/-- Change a table of a bench. -/
def Bench.modTable (b : Bench) (first : Nat) (f : Table → Table) : Bench :=
  { b with tables := b.tables.map fun t => if t.first = first then f t else t }

/-- Physical banks of a table in handle order. -/
def Squad.tableBanks (q : Squad) (h : BitVec 6) (t : Table) : List Nat := (q.banks h.toNat (2 ^ t.n)).getD []

/-- Slots S and hash bits b of a table (R270). -/
def Table.slots (t : Table) : Nat := if t.block then 2 ^ t.n else 1024 * 2 ^ t.n
def Table.hashBits (t : Table) : Nat := if t.block then t.n else 10 + t.n

/-- Bank of slot s, and its first key and value word there (R270). -/
def Table.slotAt (t : Table) (ks : List Nat) (s : Nat) : Nat × Nat := if t.block then (ks.getD s 0, 0) else (ks.getD (s / 1024) 0, s % 1024)

/-- Values that a contribution holds: one, or a tile. -/
def Table.width (t : Table) : Nat := if t.block then 1024 else 1

/-- Bytes of a spoil record (R272). -/
def Table.recBytes (t : Table) : Nat := if t.block then 4160 else 8

/-- A spoil or drain record (R272). -/
def Table.record (t : Table) (key : Nat) (vs : List Nat) : List Byte :=
  if t.block then leBytes 64 key ++ vs.flatMap (leBytes 4) else leBytes 8 (fld 32 (vs.headD 0) + key)

/-- What PROBE meets first (R271): a slot that holds the key, an empty slot, or neither within the limit. -/
inductive Probe where
  | hit (s : Nat)
  | empty (s : Nat)
  | spill
  deriving DecidableEq, Repr

/-- The walk of PROBE over L slots from s on (R271). -/
def Bench.probe (b : Bench) (t : Table) (ks : List Nat) (key : Nat) : Nat → Nat → Probe
  | 0, _ => .spill
  | k + 1, s =>
    let p := t.slotAt ks (s % t.slots)
    let x := b.key p.1 p.2
    if x = key then .hit (s % t.slots) else if x = 0xFFFFFFFF then .empty (s % t.slots) else b.probe t ks key k (s + 1)

/-- PROBE (R271) on a bench, a table and the spills made so far. -/
def probeInto (ks : List Nat) (limit : Nat) (st : Bench × Table × List (Nat × List Nat)) (x : Nat × List Nat) : Bench × Table × List (Nat × List Nat) :=
  let b := st.1
  let t := st.2.1
  match (if x.1 = 0xFFFFFFFF then Probe.spill else b.probe t ks x.1 (min limit t.slots) (HASH x.1 t.hashBits)) with
  | .spill => (b, t, st.2.2 ++ [x])
  | .hit s =>
    let p := t.slotAt ks s
    ((x.2.mapIdx fun w v => (w, v)).foldl (fun (b : Bench) e => b.setVal p.1 (p.2 + e.1) (add32 (b.val p.1 (p.2 + e.1)) e.2)) b, t, st.2.2)
  | .empty s =>
    let p := t.slotAt ks s
    let b := (x.2.mapIdx fun w v => (w, v)).foldl (fun (b : Bench) e => b.setVal p.1 (p.2 + e.1) e.2) b
    (b.setKey p.1 p.2 x.1, { t with occupied := t.occupied + 1 }, st.2.2)

/-- How a step ends (R273): applied; held back by an earlier access of the squad (R47, R52) or by the copy of a row (R381); waiting for a page; or a
trap with nothing changed. -/
inductive StepRes where
  | applied (c : Chip)
  | held
  | page (p : Nat)
  | trap (t : Trap)

/-- A step of contributions (R273): spills are counted, then their addresses translated, then everything is applied. -/
def Chip.joinStep (c : Chip) (q : Squad) (t : Table) (ks : List Nat) (limit : Nat) (xs : List (Nat × List Nat)) : StepRes :=
  let st := xs.foldl (probeInto ks limit) (c.benchOf q, t, [])
  let spills := st.2.2
  let z := t.recBytes
  if t.capacity < t.count + spills.length then .trap { cause := 9, det := 1 }
  else
    let at_ := fun i => t.base + (t.count + i) * z
    let ls := (List.range spills.length).map fun i => (at_ i, c.xlFor q.uid q.place.core q.exe.ctx { w := true } (at_ i) z)
    match ls.findSome? fun l => match l.2 with
        | .error (.access r) => some (accessFault r l.1)
        | _ => none with
    | some tr => .trap tr
    | none => match ls.findSome? fun l => match l.2 with
        | .error (.absent p) => some p
        | _ => none with
      | some p => .page p
      | none =>
        let into := ls.flatMap fun l => l.2.toOption.getD []
        if !spills.isEmpty && (c.acquiring q (BitVec.allOnes 32) || c.openAt q (BitVec.allOnes 32) into || c.inCopy into) then .held
        else
        let c := (ls.zip spills).foldl (fun c e => match e.1.2 with
          | .ok locs => ((c.touch q.launch e.1.1 z).fillTlb q.place.core q.exe.ctx e.1.1).writeAt q.place.core q.exe.ctx e.1.1 locs (t.record e.2.1 e.2.2)
          | .error _ => c) c
        let t' := { st.2.1 with count := t.count + spills.length }
        .applied (c.modBenchOf q fun _ => st.1.modTable t.first fun _ => t')

/-- Forget that a page a squad's spill needed was reported unresolvable: the step that needed it has ended. -/
def Chip.unfail (c : Chip) (uid : Nat) : Chip := if c.failed.any fun x => x.1 == uid then { c with failed := c.failed.filter fun x => x.1 != uid } else c

/-- A page that a spill needs is not present: an engine access, which takes no part in a region; the step waits for the page under the squad's name
(R179, R272, R273). -/
def Chip.spillWait (c : Chip) (q : Squad) (page : Nat) : Res :=
  if c.walkHeld q.exe.ctx page then .stall c
  else
    let r := c.openFault q.exe.ctx page q.place.core true { w := true }
    .stall ((c.engineFault q.exe.ctx page q.place.core q.uid { w := true }).modSquad q.uid fun q => { q with parked := some r.1, parkedVa := page })

/-- A page that a squad's instruction needs is not present: inside an open region the region is aborted, else the squad waits
at the instruction (R174, R178). -/
def Chip.pageWait (c : Chip) (q : Squad) (page : Nat) (need : Need) : Res :=
  match q.region with
  | some _ =>
    if c.walkHeld q.exe.ctx page then .stall c
    else let r := c.openFault q.exe.ctx page q.place.core false need; .left (r.2.modSquad q.uid fun q => q.abortRegion r.1 page)
  | none => c.waitPage q page need

/-! ### jopen, jclose, jstat (R277, R278, R287) -/

/-- `jopen` after the owner test. -/
def squadJopenOwned (f : FormX) (block : Bool) (n : BitVec 3) (q : Squad) (c : Chip) : Res :=
  let e := q.exe
  let base := e.uniVal true f.p
  let h := f.handle.toNat
  match (if 16 < h + 2 ^ n.toNat then none else q.banks h (2 ^ n.toNat)) with
  | none => .trapIn c (e.operand 5)
  | some ks =>
    if !ks.all fun k => (c.benchOf q).modes.getD k .free == .dense then .trapIn c (e.operand 5)
    else if 2 ^ 56 ≤ base ∨ base % (if block then 64 else 8) ≠ 0 then .trapIn c (e.operand 0)
    else
      let t : Table := { first := ks.headD 0, block, n := n.toNat, base, capacity := e.uniVal false f.q }
      .done (c.modBenchOf q fun b => { (b.clearBanks ks .hash) with tables := b.tables ++ [t] })

/-- `jopen`. -/
def squadJopen (f : FormX) (block : Bool) (n : BitVec 3) (c : Chip) (q : Squad) : Res :=
  match (do q.exe.chkUni 0 true f.p; q.exe.chkUni 1 false f.q : Except Trap Unit) with
  | .error t => .trap t
  | .ok _ => if q.exe.acting f.g = 0 then .done c else c.owned q (squadJopenOwned f block n q)

/-- `jopen`. -/
def execJopen (f : FormX) (block : Bool) (n : BitVec 3) := fun (s : State) =>
  onSquad s [2] (fun _ => uniRegs true f.p ++ uniRegs false f.q) (squadJopen f block n)

/-- Run a join instruction on its table after the owner test, where some lane asks (R276). -/
def Chip.onTable (c : Chip) (q : Squad) (f : FormX) (drainingOk : Bool) (fn : Chip → Table → Res) : Res :=
  if q.exe.acting f.g = 0 then .done c
  else c.owned q fun c => match c.tableAt q f.handle with
    | none => .trapIn c (q.exe.operand 5)
    | some t => if t.draining && !drainingOk then .trapIn c (q.exe.operand 5) else fn c t

/-- Remove from a core's queues every entry that a table's stopped `jrun` had reserved (R278). -/
def Core.dropJoined (k : Core) (who : Nat × Nat) : Core :=
  { k with queues := k.queues.map fun x =>
      if x.entries.any fun e => e.join == some who then Queue.settle { x with entries := x.entries.filter fun e => e.join != some who } else x }

/-- `jclose`. -/
def squadJclose (f : FormX) (c : Chip) (q : Squad) : Res :=
  c.onTable q f false fun c t =>
    let ks := q.tableBanks f.handle t
    let c := if t.stopped then c.modCore q.place.core fun k => k.dropJoined (q.uid, f.handle.toNat) else c
    .done (c.modBenchOf q fun b => { (b.clearBanks ks .dense) with tables := b.tables.filter fun x => x.first != t.first })

/-- `jclose`. -/
def execJclose (f : FormX) := fun (s : State) => onSquad s [2] (fun _ => []) (squadJclose f)

/-- The value of an item of `jstat` (R287). -/
def Table.item (t : Table) (k : Nat) : Nat :=
  match k with
  | 0 => fld 6 (b01 t.stopped) + fld 3 t.n + fld 2 (b01 t.block) + if t.draining then 2 else 1
  | 1 => t.occupied
  | 2 => t.count
  | _ => t.drained

/-- `jstat`. -/
def squadJstat (f : FormX) (item : BitVec 2) (c : Chip) (q : Squad) : Res :=
  match q.exe.chkUniDst 0 false f.p with
  | .error t => .trap t
  | .ok _ => c.onTable q f true fun c t => .done (c.modSquad q.uid fun q => { q with exe := q.exe.putUni false f.p (t.item item.toNat) })

/-- `jstat`. -/
def execJstat (f : FormX) (item : BitVec 2) := fun (s : State) => onSquad s [2] (fun _ => uniRegs false f.p) (squadJstat f item)

/-! ### jins (R279) -/

/-- Element format of a value format. -/
def vFmt : VFmt → Fmt
  | .f32 => .f32
  | .f16 => .f16
  | .bf16 => .bf16

/-- A value widened exactly to FP32 (R75, R275). -/
def widen (v : VFmt) (x : Nat) : Nat :=
  match v with
  | .f32 => x
  | v => ROUND (unpack (vFmt v) (x % 65536)) .f32 .rn

/-- `jins`. -/
def squadJins (f : FormX) (v : VFmt) (c : Chip) (q : Squad) : Res :=
  let e := q.exe
  match (do e.chkSrc 0 (.gen false) f.p; e.chkSrc 1 (.gen false) f.q : Except Trap Unit) with
  | .error t => .trap t
  | .ok _ => c.onTable q f false fun c t =>
      if t.block then .trapIn c (e.operand 5)
      else
        let xs := (lanesOf (e.acting f.g)).map fun l => (e.src false f.p l, [widen v (e.src false f.q l)])
        match c.joinStep q t (q.tableBanks f.handle t) (((c.ctx? e.ctx).map (·.probelimit)).getD 16) xs with
        | .applied c => .done (c.unfail q.uid)
        | .held => .stall c
        | .page p => c.spillWait q p
        | .trap tr => .trapIn (c.unfail q.uid) tr

/-- `jins`. -/
def execJins (f : FormX) (v : VFmt) := fun (s : State) =>
  onSquad s [2] (fun _ => codeRegs false f.p ++ codeRegs false f.q) (squadJins f v)

/-! ### jrun (R280 to R283) -/

/-- A stream record (R280). -/
structure StreamRec where
  key : Nat
  coord : Nat
  payload : Nat
  deriving DecidableEq, Repr

/-- The 16 records of an entry. -/
def QEntry.records (x : QEntry) : List StreamRec :=
  (List.range 16).map fun i =>
    let v := ofLe ((x.bytes.drop (8 * i)).take 8)
    { key := bits v 63 48, coord := bits v 47 32, payload := bits v 31 0 }

/-- Entries of a queue that are a table's head entry or free of any reservation, in order. -/
def Queue.mine (q : Queue) (who : Nat × Nat) : List QEntry := q.entries.filter fun x => !x.reserved || x.join == some who

/-- The leading records of an entry that is not complete whose bytes are there (R280, R294). -/
def QEntry.present (x : QEntry) : List StreamRec :=
  ((x.records.mapIdx fun i r => (i, r)).takeWhile fun e => (x.shut || decide (8 * e.1 + 8 ≤ x.fill)) && x.out.all fun o => !overlap (8 * e.1) 8 o.1 o.2).map (·.2)

/-- The records of entries that are present, in order: those of the entries that are complete, and the leading ones of the next (R218, R280, R294). -/
def presentRecs : List QEntry → List StreamRec
  | [] => []
  | x :: xs => if x.complete then x.records ++ presentRecs xs else x.present

/-- Whether no record beyond those can come (R217, R280). -/
def Queue.noMore (q : Queue) (who : Nat × Nat) : Bool := (q.state == .loadClosed || q.state == .faulted) && (q.mine who).all QEntry.complete

/-- Reserve the head entry of a stream (R281). -/
def Queue.reserveHead (q : Queue) (who : Nat × Nat) : Queue :=
  match q.mine who with
  | [] => q
  | h :: _ =>
    if (presentRecs [h]).isEmpty then q
    else { q with entries := q.entries.map fun x => if x.num = h.num then { x with reserved := true, join := some who } else x }

/-- Records of a stream from an offset on. -/
def Queue.recs (q : Queue) (who : Nat × Nat) (off : Nat) : List StreamRec := (presentRecs (q.mine who)).drop off

/-- The head group of a list of records (R280). -/
def headGroup : List StreamRec → List StreamRec
  | [] => []
  | r :: rs => r :: rs.takeWhile fun x => x.key == r.key

/-- Consume n records of a stream: entries whose last record is consumed are removed; the new offset (R281). -/
def Queue.consume (q : Queue) (who : Nat × Nat) (off n : Nat) : Queue × Nat :=
  let gone := ((q.mine who).take ((off + n) / 16)).map (·.num)
  let q' := Queue.settle { q with entries := q.entries.filter fun x => !gone.contains x.num }
  (if (off + n) % 16 = 0 then q' else q'.reserveHead who, (off + n) % 16)

/-- Whether a stop request is pending for a squad's `jrun` (R282). -/
def Chip.stopRequest (c : Chip) (q : Squad) : Bool :=
  (c.core q.place.core).preempt == some q.exe.ctx || (c.moves.any fun m => (c.launch? m.launch).any fun l => l.ctx == q.exe.ctx) ||
    (c.benchOf q).service.isSome

/-- Codes of `jrun`. -/
def Exe.chkJrun (e : Exe) (f : FormX) : Except Trap Unit := do
  if 15 < f.p.toNat then throw (e.operand 0)
  if 15 < f.q.toNat then throw (e.operand 1)
  if 7 < f.s.toNat then throw (e.operand 2)
  e.chkUni 3 true f.t

/-- The conditions of `jrun` before anything is read (R281, R283). A format word that is not legal is charged to T, which names the value. (DESIGN
CHOICE, log 96.) -/
def Chip.jrunCheck (c : Chip) (q : Squad) (f : FormX) (v : VFmt) (t : Table) : Except Trap Unit := do
  let e := q.exe
  let a := f.p.toNat
  let b := f.q.toNat
  if !c.queueFor q a true then throw (e.operand 0)
  if !c.queueFor q b true then throw (e.operand 1)
  if a = b then throw (e.operand 9)
  if t.block then
    if f.t = 0xF3 then throw (e.operand 3)
    if v ≠ .f32 then throw (e.operand 6)
    let fw := (e.uniWords f.t).1
    if !fmtWordOk fw false || bits fw 10 9 != 0 then throw (e.operand 3)
    let pitch := (e.uniWords f.t).2
    if bits pitch 6 0 ≠ 0 ∨ bits pitch 22 16 ≠ 0 then throw (e.operand 3)
  else if f.t ≠ 0xF3 then throw (e.operand 3)
  if t.stopped && t.queueA != a then throw (e.operand 0)
  if t.stopped && t.queueB != b then throw (e.operand 1)

/-- The tile product of two block records, with the locations it reads (R283). -/
def Chip.tileVectors (c : Chip) (q : Squad) (f : FormX) (x y : StreamRec) : Except Trap (List (List Loc) × List (List Loc)) := do
  let pitch := (q.exe.uniWords f.t).2
  let a ← c.vectors q x.payload pitch 32 0
  let b ← c.vectors q y.payload pitch 32 1
  return (a, b)

/-- The tile that two lists of vectors give from +0. -/
def Chip.tileProduct (c : Chip) (q : Squad) (fw : Nat) (va vb : List (List Loc)) : List Nat :=
  let rows := va.map fun ls => vecElems (matFmt (bits fw 3 0)) (c.readOver q.region ls)
  let cols := vb.map fun ls => vecElems (matFmt (bits fw 7 4)) (c.readOver q.region ls)
  rows.flatMap fun a => cols.map fun b => matElem fw [] a b 0

/-- The contributions of two groups (R281): a list, a wait for lines, or a trap. -/
def Chip.groupStep (c : Chip) (q : Squad) (f : FormX) (v : VFmt) (t : Table) (ga gb : List StreamRec) : Except Trap (Option (List (Nat × List Nat))) :=
  let pairs := ga.flatMap fun x => gb.map fun y => (x, y)
  let key := fun (p : StreamRec × StreamRec) => p.1.coord * 65536 + p.2.coord
  if !t.block then .ok (some (pairs.map fun p => (key p, [mul32 (widen v p.1.payload) (widen v p.2.payload)])))
  else do
    let vs ← pairs.mapM fun p => (c.tileVectors q f p.1 p.2).map fun w => (p, w)
    let locs := vs.flatMap fun e => (e.2.1 ++ e.2.2).flatten
    if !c.present locs || c.acquiring q (q.exe.acting f.g) || c.openAt q (q.exe.acting f.g) locs then return none
    match vs.findSome? fun e => match c.vecRace q e.1.1.payload e.2.1 (q.exe.acting f.g) with
        | some tr => some tr
        | none => c.vecRace q e.1.2.payload e.2.2 (q.exe.acting f.g) with
    | some tr => throw tr
    | none => return some (vs.map fun e => (key e.1, c.tileProduct q (q.exe.uniWords f.t).1 e.2.1 e.2.2))

/-- Change the table of a `jrun`. -/
def Chip.modJoin (c : Chip) (q : Squad) (first : Nat) (f : Table → Table) : Chip := c.modBenchOf q fun b => b.modTable first f

/-- `jrun` ends with a flag (R281, R282). -/
def Chip.endJrun (c : Chip) (q : Squad) (f : FormX) (t : Table) (stopped : Bool) : Res :=
  let c := c.modJoin q t.first fun x =>
    if stopped then { x with stopped := true, running := none, queueA := f.p.toNat, queueB := f.q.toNat } else { x with stopped := false, running := none }
  .done (c.modSquad q.uid fun q => { q with exe := q.exe.setFlagIn f.s.toNat (q.exe.acting f.g) (!stopped) })

/-- A trap of `jrun`: precise and restartable, the offsets and their queues stay (R281). -/
def Chip.trapJrun (c : Chip) (q : Squad) (f : FormX) (t : Table) (tr : Trap) : Res :=
  .trapIn (c.modJoin q t.first fun x => { x with running := none, queueA := f.p.toNat, queueB := f.q.toNat }) tr

/-- Offset at which a `jrun` that starts reads a queue: where an earlier `jrun` of the table left its head entry, else the first record (R281,
R282). -/
def Chip.joinOff (c : Chip) (q : Squad) (f : FormX) (i recorded off : Nat) : Nat :=
  if i = recorded ∧ ((c.queue q.place.core i).entries.any fun x => x.join == some (q.uid, f.handle.toNat)) = true then off else 0

/-- One turn of the loop of `jrun` (R281); the squad stays at the instruction until it ends, in a local wait of the watchdog. (DEDUCED, log 55.) -/
def Chip.jrunTurn (c : Chip) (q : Squad) (f : FormX) (v : VFmt) (t : Table) (limit : Nat) : Res :=
  let n := q.place.core
  let who := (q.uid, f.handle.toNat)
  if c.stopRequest q then c.endJrun q f t true
  else
    let c := (c.modQueue n f.p.toNat fun x => x.reserveHead who).modQueue n f.q.toNat fun x => x.reserveHead who
    let qa := c.queue n f.p.toNat
    let qb := c.queue n f.q.toNat
    let ra := qa.recs who t.offA
    let rb := qb.recs who t.offB
    let ga := headGroup ra
    let gb := headGroup rb
    let ready := fun (g r : List StreamRec) (x : Queue) => decide (g.length < r.length) || x.noMore who
    if !ready ga ra qa || !ready gb rb qb then .wait c
    else if ra.isEmpty && rb.isEmpty then c.endJrun q f t false
    else
      let eatA := fun (c : Chip) =>
        let r := qa.consume who t.offA ga.length
        (c.modQueue n f.p.toNat fun _ => r.1).modJoin q t.first fun x => { x with offA := r.2 }
      let eatB := fun (c : Chip) =>
        let r := qb.consume who t.offB gb.length
        (c.modQueue n f.q.toNat fun _ => r.1).modJoin q t.first fun x => { x with offB := r.2 }
      let ka := (ga.head?.map (·.key)).getD 0
      let kb := (gb.head?.map (·.key)).getD 0
      if rb.isEmpty || (!ra.isEmpty && decide (ka < kb)) then .wait (eatA c)
      else if ra.isEmpty || decide (kb < ka) then .wait (eatB c)
      else if 64 < ga.length ∨ 64 < gb.length then c.trapJrun q f t { cause := 9, det := 2 }
      else match c.groupStep q f v t ga gb with
        | .error tr => c.trapJrun q f t tr
        | .ok none => .wait c
        | .ok (some xs) => match c.joinStep q t (q.tableBanks f.handle t) limit xs with
          | .applied c => .wait (eatB (eatA (c.unfail q.uid)))
          | .held => .wait c
          | .page p => c.spillWait q p
          | .trap tr => (c.unfail q.uid).trapJrun q f t tr

/-- `jrun`: it starts on its table, or goes on where it is in progress. -/
def squadJrun (f : FormX) (v : VFmt) (c : Chip) (q : Squad) : Res :=
  match q.exe.chkJrun f with
  | .error t => .trap t
  | .ok _ =>
    match c.tableAt q f.handle with
    | some t => match t.running with
      | some limit => c.jrunTurn q f v t limit
      | none => start c
    | none => start c
where
  /-- The first turn, after the owner test and the checks of R281. -/
  start (c : Chip) : Res := c.onTable q f false fun c t =>
    match c.jrunCheck q f v t with
    | .error tr => .trapIn c tr
    | .ok _ =>
      let limit := ((c.ctx? q.exe.ctx).map (·.probelimit)).getD 16
      let go := fun (x : Table) => { x with
        running := some limit, offA := c.joinOff q f f.p.toNat t.queueA t.offA, offB := c.joinOff q f f.q.toNat t.queueB t.offB }
      (c.modJoin q t.first go).jrunTurn q f v (go t) limit

/-- `jrun`. -/
def execJrun (f : FormX) (v : VFmt) := fun (s : State) => onSquad s [2] (fun _ => uniRegs true f.t) (squadJrun f v)

/-! ### jdrain (R284 to R286) -/

/-- `jdrain` once its release has been performed. -/
def squadJdrainAt (f : FormX) (t : Table) (q : Squad) (c : Chip) : Res :=
  let e := q.exe
  let n := q.place.core
  let r := c.number n f.s.toNat
  let d : Drain :=
    { id := c.nextId, first := t.first, banks := q.tableBanks f.handle t, out := e.uniVal true f.p, capacity := e.uniVal false f.q
      slot := f.s.toNat, num := r.1, ctx := e.ctx, launch := q.launch, hdrAt := e.hdrAt }
  .done { (r.2.modBenchOf q fun b => { (b.modTable t.first fun x => { x with draining := true }) with drains := b.drains ++ [d] }) with nextId := c.nextId + 1 }

/-- `jdrain`. -/
def squadJdrain (f : FormX) (c : Chip) (q : Squad) : Res :=
  let e := q.exe
  match (do
    e.chkUni 0 true f.p
    e.chkUni 1 false f.q
    if 63 < f.s.toNat then throw (e.operand 2)
    if !c.slotHeld q f.s.toNat then throw (e.operand 2) : Except Trap Unit) with
  | .error t => .trap t
  | .ok _ => c.onTable q f false fun c t =>
      let out := e.uniVal true f.p
      if 2 ^ 56 ≤ out then .trapIn c (e.operand 0)
      else if t.stopped then .trapIn c (e.operand 5)
      else if out % (if t.block then 64 else 8) ≠ 0 then .trapIn c (accessFault 1 out)
      else c.engineCmd q (e.acting f.g) f.ps (squadJdrainAt f t q)

/-- `jdrain`. -/
def execJdrain (f : FormX) := fun (s : State) => onSquad s [2] (fun _ => uniRegs true f.p ++ uniRegs false f.q) (squadJdrain f)

/-- The spoil records of a table, in the order they were spilled; or the failure of the region's translation. -/
def Chip.spoils (c : Chip) (id n ctx : Nat) (t : Table) : Except XErr (List (Nat × List Nat)) :=
  (List.range t.count).mapM fun i =>
    (c.xlFor id n ctx { r := true } (t.base + i * t.recBytes) t.recBytes).map fun ls =>
      let bs := c.readLocs ls
      if t.block then (ofLe (bs.take 4), (List.range 1024).map fun w => ofLe ((bs.drop (64 + 4 * w)).take 4))
      else (ofLe (bs.take 4), [ofLe (bs.drop 4)])

/-- Note what a drain reads and writes as accesses of its launch (R370). -/
def Chip.drainTouch (c : Chip) (d : Drain) (t : Table) : Chip :=
  (c.touch d.launch t.base (t.count * t.recBytes)).touch d.launch d.out (d.capacity * t.recBytes)

/-- The slots that hold a key: key and values. -/
def Bench.held (b : Bench) (t : Table) (ks : List Nat) : List (Nat × List Nat) :=
  (List.range t.slots).filterMap fun s =>
    let p := t.slotAt ks s
    let k := b.key p.1 p.2
    if k = 0xFFFFFFFF then none else some (k, (List.range t.width).map fun w => b.val p.1 (p.2 + w))

/-- Insert a number into an ascending list without repeats. -/
def insertKey (k : Nat) : List Nat → List Nat
  | [] => [k]
  | x :: xs => if k < x then k :: x :: xs else if k = x then x :: xs else x :: insertKey k xs

/-- The output of a key (R75): the table's entry, then its spoil records in order. -/
def drainOut (key : Nat) (held spoils : List (Nat × List Nat)) : List Nat :=
  match ((held ++ spoils).filter fun x => x.1 == key).map (·.2) with
  | [] => []
  | v :: vs => vs.foldl (fun a b => (a.zip b).map fun e => add32 e.1 e.2) v

/-- The output records of a drain in ascending key order (R284). -/
def drainAll (held spoils : List (Nat × List Nat)) : List (Nat × List Nat) :=
  (((held ++ spoils).map (·.1)).foldl (fun ks k => insertKey k ks) []).map fun k => (k, drainOut k held spoils)

/-- Core and bench of a drain. -/
def Chip.drain? (c : Chip) (id : Nat) : Option (Nat × Nat × Drain) :=
  (c.benches.mapIdx fun i b => (i, b)).findSome? fun x => (x.2.drains.find? fun d => d.id == id).map fun d => (x.1 / 6, x.1 % 6, d)

/-- Write drain records until one meets a failure: the chip, how many were written, and the failure. -/
def Chip.drainWrite (c : Chip) (id n ctx : Nat) (t : Table) (out : Nat) : Nat → List (Nat × List Nat) → Chip × Nat × Option XErr
  | r, [] => (c, r, none)
  | r, x :: xs => match c.xlFor id n ctx { w := true } (out + r * t.recBytes) t.recBytes with
    | .error e => (c, r, some e)
    | .ok ls => ((c.fillTlb n ctx (out + r * t.recBytes)).writeAt n ctx (out + r * t.recBytes) ls (t.record x.1 x.2)).drainWrite id n ctx t out (r + 1) xs

/-- The end of a drain: the table is empty and Open again, the command completes (R284, R285). -/
def Chip.drainEnd (c : Chip) (n k : Nat) (d : Drain) (keys written cause : Nat) (t : Table) (failed : Bool) : Chip :=
  let c := c.modBench n k fun b =>
    { ((b.clearBanks d.banks .hash).modTable d.first fun x => { x with drained := keys, occupied := 0, count := 0, draining := false, stopped := false }) with
      drains := b.drains.filter fun x => x.id != d.id }
  let c := c.finish n d.slot d.num failed
  if failed then c.errAppend d.ctx (record212 0x25 cause d.slot 0 n d.num d.hdrAt (d.out + written * t.recBytes)) else c

/-- DRAIN_COMPLETION (R285): the drain waits for a page that is not present, or for a row that is being copied (R381), and has changed nothing then. -/
def Chip.drainComplete (c : Chip) (id : Nat) : Chip :=
  match c.drain? id with
  | none => c
  | some (n, k, d) => match (c.bench n k).tables.find? fun t => t.first == d.first with
    | none => c
    | some t =>
      let c := c.drainTouch d t
      match c.spoils id n d.ctx t with
      | .error (.absent p) => c.engineFault d.ctx p n id { r := true }
      | .error (.access _) => c.drainEnd n k d 0 0 5 t true
      | .ok sp =>
        let all := drainAll ((c.bench n k).held t d.banks) sp
        let at_ := fun (need : Need) (base m : Nat) =>
          (List.range m).flatMap fun r => ((c.xl n d.ctx need (base + r * t.recBytes) t.recBytes).toOption).getD []
        if c.inCopy (at_ { r := true } t.base t.count ++ at_ { w := true } d.out (min d.capacity all.length)) then c
        else
        let r := c.drainWrite id n d.ctx t d.out 0 (all.take d.capacity)
        match r.2.2 with
        | some (.absent p) => c.engineFault d.ctx p n id { w := true }
        | some (.access _) => r.1.drainEnd n k d all.length r.2.1 5 t true
        | none => r.1.drainEnd n k d all.length r.2.1 0 t (decide (d.capacity < all.length))

/-- DRAIN_COMPLETION. -/
def execDrainCompletion (id : Nat) := fun (s : State) => onChip s (s.chip.drainComplete id)

end Sys2Proof.Machine
end

