-- ==== Sys2Proof/Machine/Fabric.lean ====
section
/-! DEFINITION. The fabric instructions, opcodes 0x360 to 0x367 (R313 to R323): remote atomics, puts, gets, multicasts,
contributions, window control and `fflush`. What happens to their packets is in FabricEvents. -/

namespace Sys2Proof.Machine

/-! ### fatom and fcas (R317) -/

/-- The atomic operation that a `fatom` performs at its width (R191, R317). -/
def fatomOp (op : FatomOp) (w64 : Bool) : AtomOp :=
  match op, w64 with
  | .add, false => .add32
  | .add, true => .add64
  | .and, false => .and32
  | .and, true => .and64
  | .or, false => .or32
  | .or, true => .or64
  | .xor, false => .xor32
  | .xor, true => .xor64
  | .swap, false => .swap32
  | .swap, true => .swap64
  | .minS, false => .minS32
  | .minS, true => .minS64
  | .minZ, false => .minZ32
  | .minZ, true => .minZ64
  | .maxS, false => .maxS32
  | .maxS, true => .maxS64
  | .maxZ, false => .maxZ32
  | .maxZ, true => .maxZ64
  | .fadd, _ => .fadd

/-- A remote atomic as an access at system scope (R317). -/
def fabMem (f : FormX) (order : BitVec 2) (kind : AccKind) (ty : IntTy) : MemOp :=
  { g := f.g, data := f.p, addr := f.q, base := 0, mask := 0, off := 0, ps := f.ps, scope := 4, order := order.toNat, kind
    size := tyBytes ty, ty, opnd := some (f.s, f.t) }

/-- Checks of `fatom` and `fcas` (R317). -/
def MemOp.chkFab (m : MemOp) (f : FormX) (two : Bool) (e : Exe) : Except Trap Unit := do
  if m.ret then e.chkDst (.gen m.wide) m.data
  e.chkSrc 1 (.gen true) m.addr
  e.chkSrc 2 (.gen m.wide) f.s
  if two then e.chkSrc 3 (.gen m.wide) f.t
  let g := lanesOf (e.acting m.g)
  if g.any (fun l => !bit (m.ea e l) 56 || decide (2 ^ 57 ≤ m.ea e l)) then throw (e.operand 1)
  match g.find? fun l => m.ea e l % m.size != 0 with
  | some l => throw (accessFault 1 (m.ea e l))
  | none => pure ()

/-- A remote atomic. -/
def squadFabMem (m : MemOp) (f : FormX) (two ord : Bool) (c : Chip) (q : Squad) : Res :=
  match m.chkFab f two q.exe with
  | .error t => .trap t
  | .ok _ =>
    let g := q.exe.acting m.g
    if g = 0 then .done c
    else if c.acquiring q g || q.pennantFull (q.exe.pennant m.ps) then .stall c
    else c.startMem q m ord g

/-- Registers that a remote atomic names. -/
def fabRegs (f : FormX) (w64 ret two : Bool) : List Nat :=
  (if ret then codeRegs w64 f.p else []) ++ codeRegs true f.q ++ codeRegs w64 f.s ++ if two then codeRegs w64 f.t else []

/-- `fatom`. -/
def execFatom (f : FormX) (ord w64 noRet : Bool) (order : BitVec 2) (op : FatomOp) := fun (s : State) =>
  onSquad s [4] (fun _ => fabRegs f w64 (!noRet) false)
    (squadFabMem (fabMem f order (.atom (fatomOp op w64) (!noRet)) (casTy w64)) f false ord)

/-- `fcas`. -/
def execFcas (f : FormX) (ord w64 : Bool) (order : BitVec 2) := fun (s : State) =>
  onSquad s [4] (fun _ => fabRegs f w64 true true) (squadFabMem (fabMem f order (.cas w64) (casTy w64)) f true ord)

/-! ### What the commands share (R314) -/

/-- Check the code of a local side: a pair for a global address, a single uniform for scratch (R313). -/
def Exe.chkLocal (e : Exe) (field : Nat) (scr : Bool) (code : Code) : Except Trap Unit :=
  if scr then e.chkUni field false code else e.chkPair field code

/-- Check that a local side in scratch names a valid muster slot (R30). -/
def Exe.chkLocalSlot (e : Exe) (field : Nat) (scr : Bool) (code : Code) : Except Trap Unit :=
  if scr && (e.mslots.getD (bits (e.uniVal false code) 31 30) none).isNone then .error (e.operand field) else .ok ()

/-- Check that a local side in global memory lies below the aperture (R40, R318). -/
def Exe.chkLocalVal (e : Exe) (field : Nat) (scr : Bool) (code : Code) : Except Trap Unit :=
  if !scr && decide (2 ^ 56 ≤ e.uniVal true code) then .error (e.operand field) else .ok ()

/-- Check a remote data address (R318). -/
def Exe.chkRemote (e : Exe) (field a : Nat) : Except Trap Unit := if bits a 63 56 = 1 then .ok () else .error (e.operand field)

/-- Check a remote barrier address: in the aperture, and a multiple of 16 (R318). -/
def Exe.chkBarVa (e : Exe) (field a : Nat) : Except Trap Unit :=
  if bits a 63 56 ≠ 1 then .error (e.operand field) else if a % 16 ≠ 0 then .error (accessFault 1 a) else .ok ()

/-- Translate a remote address at issue (R299, R314): a trap, or a page that is not present. -/
def Chip.fabAt (c : Chip) (q : Squad) (fa size : Nat) : Except (Trap ⊕ Nat) FabAddr :=
  match c.fxlate q.place.core q.exe.ctx fa size with
  | .ok a => .ok a
  | .error (.absent p) => .error (.inr p)
  | .error (.access r) => .error (.inl (accessFault r fa))

/-- End an instruction whose translation failed. -/
def Chip.fabStop (c : Chip) (q : Squad) : Trap ⊕ Nat → Res
  | .inl t => .trapIn c t
  | .inr p => c.pageWait q p { r := true }

/-- Local side of a command: scratch byte of the core and bytes from there to the end of the window, or the address (R41). -/
def Chip.localSide (c : Chip) (q : Squad) (scr : Bool) (code : Code) : Nat × Nat :=
  let e := q.exe
  if scr then
    let a := e.uniVal false code
    match c.scratchWindow q.place.core q.launch e.mslots a with
    | some (base, len) => (base + bits a 20 0, len - bits a 20 0)
    | none => (0, 0)
  else (e.uniVal true code, 0)

/-- Issue of a fabric command: a system-scope release, so the write-combining entries of the squad drain first (R55, R312,
R314). -/
def Chip.fabricCmd (c : Chip) (q : Squad) (f : FormX) (fn : Chip → Res) : Res :=
  if c.hasWc q then .stall (c.drainWc q.uid) else c.engineCmd q (q.exe.acting f.g) f.ps fn

/-- Take up a numbered command. -/
def Chip.addFab (c : Chip) (num : Nat) (k : FabCmd) : Chip :=
  { c with fab := { c.fab with cmds := c.fab.cmds ++ [{ k with id := c.nextId, num }] }, nextId := c.nextId + 1 }

/-- Number commands that share one number, and keep their translations (R14, R299, R314). -/
def Chip.startFab (c : Chip) (q : Squad) (slot : Nat) (ks : List FabCmd) : Chip :=
  let k := c.number q.place.core slot
  let c := ks.foldl (fun c x => c.addFab k.1 x) k.2
  ks.foldl (fun c x =>
    let c := if x.remote = 0 then c else c.fillFab q.place.core q.exe.ctx x.remote
    if x.barVa = 0 then c else c.fillFab q.place.core q.exe.ctx x.barVa) c

/-! ### fput (R318) -/

/-- Operand codes of `fput`. -/
def Chip.chkPut (c : Chip) (q : Squad) (f : FormX) (scr : Bool) : Except Trap Unit := do
  let e := q.exe
  e.chkPair 0 f.p
  e.chkLocal 1 scr f.q
  e.chkUni 2 false f.s
  if f.t ≠ 0xF3 then e.chkUni 3 true f.t
  if !c.slotHeld q f.handle.toNat then throw (e.operand 5)

/-- Length of a put: 0 only with a signal, at most 2^30 (R318). -/
def lenOk (sig : Bool) (n : Nat) : Bool := (sig || decide (0 < n)) && decide (n ≤ 2 ^ 30)

/-- Operand values of `fput`. -/
def Exe.chkPutVals (e : Exe) (f : FormX) (cnt sig scr : Bool) : Except Trap Unit := do
  e.chkLocalSlot 1 scr f.q
  if !lenOk sig (e.uniVal false f.s) then throw (e.operand 2)
  e.chkLocalVal 1 scr f.q
  e.chkRemote 0 (e.uniVal true f.p)
  if cnt || sig then
    if f.t = 0xF3 then throw (e.operand 3)
    e.chkBarVa 3 (e.uniVal true f.t)

/-- Translated destination and barrier of a put; counted bytes and their barrier lie at one node (R318). -/
def Chip.putSides (c : Chip) (q : Squad) (field remote len : Nat) (bar : Option Nat) (cnt : Bool) :
    Except (Trap ⊕ Nat) (FabAddr × Option FabAddr) := do
  let a ← c.fabAt q remote len
  match bar with
  | none => return (a, none)
  | some va =>
    let b ← c.fabAt q va 16
    if cnt ∧ b.node ≠ a.node then throw (.inl (q.exe.operand field))
    return (a, some b)

/-- A put to one destination. -/
def Chip.putCmd (c : Chip) (q : Squad) (slot : Nat) (ord cnt sig scr : Bool) (code : Code) (len remote : Nat)
    (x : FabAddr × Option FabAddr) (barVa : Nat) : FabCmd :=
  let l := c.localSide q scr code
  { id := 0, kind := 0, ctx := q.exe.ctx, launch := q.launch, uid := q.uid, core := q.place.core, slot, num := 0, dst := x.1, remote, len, scr
    localAt := l.1, room := l.2, counted := cnt, signal := sig, ordered := ord, bar := x.2, barVa }

/-- `fput`. -/
def squadFput (f : FormX) (ord cnt sig scr : Bool) (c : Chip) (q : Squad) : Res :=
  match c.chkPut q f scr with
  | .error t => .trap t
  | .ok _ =>
    let e := q.exe
    if e.acting f.g = 0 then .done c
    else match e.chkPutVals f cnt sig scr with
      | .error t => .trap t
      | .ok _ =>
        let remote := e.uniVal true f.p
        let len := e.uniVal false f.s
        let bar := if cnt || sig then some (e.uniVal true f.t) else none
        match c.putSides q 3 remote len bar cnt with
        | .error x => c.fabStop q x
        | .ok x => c.fabricCmd q f fun c =>
            .done (c.startFab q f.handle.toNat [c.putCmd q f.handle.toNat ord cnt sig scr f.q len remote x (bar.getD 0)])

/-- Uniform registers of a local side. -/
def localRegs (scr : Bool) (code : Code) : List Nat := uniRegs (!scr) code

/-- `fput`. -/
def execFput (f : FormX) (ord cnt sig scr : Bool) := fun (s : State) =>
  onSquad s [4] (fun _ => uniRegs true f.p ++ localRegs scr f.q ++ uniRegs false f.s ++ uniRegs true f.t) (squadFput f ord cnt sig scr)

/-! ### fget (R319) -/

/-- Operand codes of `fget`. -/
def Chip.chkGet (c : Chip) (q : Squad) (f : FormX) (dScr bScr : Bool) : Except Trap Unit := do
  let e := q.exe
  e.chkPair 0 f.p
  e.chkLocal 1 dScr f.q
  e.chkUni 2 false f.s
  if f.t ≠ 0xF3 then e.chkLocal 3 bScr f.t
  if !c.slotHeld q f.handle.toNat then throw (e.operand 5)

/-- Operand values of `fget`. -/
def Exe.chkGetVals (e : Exe) (f : FormX) (dScr bScr : Bool) : Except Trap Unit := do
  e.chkLocalSlot 1 dScr f.q
  if f.t ≠ 0xF3 then e.chkLocalSlot 3 bScr f.t
  if !lenOk false (e.uniVal false f.s) then throw (e.operand 2)
  e.chkLocalVal 1 dScr f.q
  e.chkRemote 0 (e.uniVal true f.p)
  if f.t ≠ 0xF3 then
    e.chkLocalVal 3 bScr f.t
    let a := e.uniVal (!bScr) f.t
    if a % 16 ≠ 0 then throw (accessFault 1 a)

/-- Local barrier of a get. -/
def Chip.getHome (c : Chip) (q : Squad) (f : FormX) (bScr : Bool) : Option (Bool × Nat) :=
  if f.t = 0xF3 then none else some (bScr, (c.localSide q bScr f.t).1)

/-- Whether the local barrier of a get lies in its window (R41). -/
def Chip.homeIn (c : Chip) (q : Squad) (f : FormX) (bScr : Bool) : Bool :=
  f.t == 0xF3 || !bScr || decide (16 ≤ (c.localSide q bScr f.t).2)

/-- Scratch lines that bytes of a core's scratch lie in. -/
def linesAt (at_ n : Nat) : List Nat := if n = 0 then [] else (List.range ((at_ + n - 1) / 128 - at_ / 128 + 1)).map (at_ / 128 + ·)

/-- Queue the read packets of a get (R303, R319); a read carries its size and no payload. -/
def Chip.getPackets (c : Chip) (id : Nat) (k : FabCmd) : Chip :=
  let die := c.die k.core
  let c := c.nextMessage die
  (packetsOf k.dst.off k.len).foldl (fun c x =>
    c.sendRequest die (c.fab.header die 0 0 false { k.dst with off := x.2.1 } x.2.2 []) (.cmd id x.1) k.ctx [k.uid]) c

/-- `fget`. -/
def squadFget (f : FormX) (dScr bScr : Bool) (c : Chip) (q : Squad) : Res :=
  match c.chkGet q f dScr bScr with
  | .error t => .trap t
  | .ok _ =>
    let e := q.exe
    if e.acting f.g = 0 then .done c
    else match e.chkGetVals f dScr bScr with
      | .error t => .trap t
      | .ok _ =>
        let remote := e.uniVal true f.p
        let len := e.uniVal false f.s
        if !c.homeIn q f bScr then .trap (accessFault 2 (e.uniVal false f.t))
        else match c.fabAt q remote len with
          | .error x => c.fabStop q x
          | .ok a => c.fabricCmd q f fun c =>
              let l := c.localSide q dScr f.q
              let k : FabCmd :=
                { id := 0, kind := 1, ctx := e.ctx, launch := q.launch, uid := q.uid, core := q.place.core, slot := f.handle.toNat, num := 0, dst := a
                  remote, len, scr := dScr, localAt := l.1, room := l.2, home := c.getHome q f bScr, loaded := true }
              let id := c.nextId
              let c := c.startFab q f.handle.toNat [k]
              let c := if dScr then c.setAbsent q.place.core (linesAt l.1 (min len l.2)) true else c
              .done (c.getPackets id k)

/-- `fget`. -/
def execFget (f : FormX) (dScr bScr : Bool) := fun (s : State) =>
  onSquad s [4] (fun _ => uniRegs true f.p ++ localRegs dScr f.q ++ uniRegs false f.s ++ localRegs bScr f.t) (squadFget f dScr bScr)

/-! ### fmcast (R320) -/

/-- Operand codes of `fmcast`. -/
def Chip.chkMcast (c : Chip) (q : Squad) (f : FormX) (scr : Bool) : Except Trap Unit := do
  let e := q.exe
  e.chkPair 0 f.p
  e.chkLocal 1 scr f.q
  e.chkUni 2 false f.s
  e.chkUni 3 false f.t
  if !c.slotHeld q f.handle.toNat then throw (e.operand 5)

/-- Operand values of `fmcast` before its list is read. -/
def Exe.chkMcastVals (e : Exe) (f : FormX) (sig scr : Bool) : Except Trap Unit := do
  e.chkLocalSlot 1 scr f.q
  if !lenOk sig (e.uniVal false f.s) then throw (e.operand 2)
  e.chkLocalVal 1 scr f.q
  let n := e.uniVal false f.t
  if n = 0 ∨ 64 < n then throw (e.operand 3)
  let a := e.uniVal true f.p
  if 2 ^ 56 ≤ a then throw (e.operand 0)
  if a % 16 ≠ 0 then throw (accessFault 1 a)

/-- The destination list: remote and barrier addresses. -/
def Chip.mcastList (c : Chip) (q : Squad) (a n : Nat) : Except (Trap ⊕ Nat) (List (Nat × Nat)) :=
  match c.xl q.place.core q.exe.ctx { r := true } a (16 * n) with
  | .ok ls =>
    let bs := c.readLocs ls
    .ok ((List.range n).map fun i => (ofLe ((bs.drop (16 * i)).take 8), ofLe ((bs.drop (16 * i + 8)).take 8)))
  | .error (.absent p) => .error (.inr p)
  | .error (.access r) => .error (.inl (accessFault r a))

/-- Checks of the list's entries, under field P. (DEDUCED, log 41.) -/
def Exe.chkEntries (e : Exe) (cnt sig : Bool) : List (Nat × Nat) → Except Trap Unit
  | [] => .ok ()
  | x :: xs => do
    e.chkRemote 0 x.1
    if cnt || sig then e.chkBarVa 0 x.2
    e.chkEntries cnt sig xs

/-- `fmcast` once the squad's earlier stores are performed: the list is read, checked and translated, and its puts are numbered (R320). -/
def squadFmcastList (f : FormX) (ord cnt sig scr : Bool) (q : Squad) (c : Chip) : Res :=
  let e := q.exe
  match c.mcastList q (e.uniVal true f.p) (e.uniVal false f.t) with
  | .error x => c.fabStop q x
  | .ok xs => match e.chkEntries cnt sig xs with
    | .error t => .trapIn c t
    | .ok _ =>
      let len := e.uniVal false f.s
      let bar := fun (x : Nat × Nat) => if cnt || sig then some x.2 else none
      match xs.mapM fun x => (c.putSides q 0 x.1 len (bar x) cnt).map fun y => (x, y) with
      | .error x => c.fabStop q x
      | .ok ys =>
        let a := e.uniVal true f.p
        let c := ((c.touch q.launch a (16 * xs.length)).fillTlb q.place.core e.ctx a).fillTlb q.place.core e.ctx (a + 16 * xs.length - 1)
        .done (c.startFab q f.handle.toNat (ys.map fun y => c.putCmd q f.handle.toNat ord cnt sig scr f.q len y.1.1 y.2 ((bar y.1).getD 0)))

/-- `fmcast`. -/
def squadFmcast (f : FormX) (ord cnt sig scr : Bool) (c : Chip) (q : Squad) : Res :=
  match c.chkMcast q f scr with
  | .error t => .trap t
  | .ok _ =>
    if q.exe.acting f.g = 0 then .done c
    else match q.exe.chkMcastVals f sig scr with
      | .error t => .trap t
      | .ok _ => c.fabricCmd q f fun c => squadFmcastList f ord cnt sig scr ((c.squad? q.uid).getD q) c

/-- `fmcast`. -/
def execFmcast (f : FormX) (ord cnt sig scr : Bool) := fun (s : State) =>
  onSquad s [4] (fun _ => uniRegs true f.p ++ localRegs scr f.q ++ uniRegs false f.s ++ uniRegs false f.t) (squadFmcast f ord cnt sig scr)

/-! ### fred (R321) -/

/-- Code of an operation (R321). -/
def fredCode : FredOp → Nat
  | .addZ32 => 0
  | .addZ64 => 1
  | .minS32 => 2
  | .maxS32 => 3
  | .minZ32 => 4
  | .maxZ32 => 5
  | .faddF32 => 6
  | .faddBf16 => 7
  | .faddF16 => 8
  | .faddE4m3 => 9
  | .faddE5m2 => 10
  | .fminF32 => 11
  | .fmaxF32 => 12

/-- Float format of an operation's elements, if they are floats (R321). -/
def redFmt (op : Nat) : Option Fmt :=
  if op = 7 then some .bf16 else if op = 8 then some .f16 else if op = 9 then some .e4m3 else if op = 10 then some .e5m2
  else if op = 6 ∨ op = 11 ∨ op = 12 then some .f32 else none

/-- Bytes of an element in memory, and on the wire (R321). -/
def redBytes (op : Nat) : Nat := if op = 1 then 8 else match redFmt op with
  | some m => m.bytes
  | none => 4
def redWire (op : Nat) : Nat := if op = 1 then 8 else 4

/-- Operand codes of `fred`. -/
def Chip.chkRed (c : Chip) (q : Squad) (f : FormX) (scr : Bool) : Except Trap Unit := do
  let e := q.exe
  e.chkUni 0 false f.p
  e.chkLocal 1 scr f.q
  e.chkPair 2 f.s
  if f.t ≠ 0xF3 then e.chkUni 3 true f.t
  if !c.slotHeld q f.handle.toNat then throw (e.operand 5)

/-- Operand values of `fred`. -/
def Exe.chkRedVals (e : Exe) (f : FormX) (cnt scr : Bool) (op : Nat) (gs : List (Option RedGroup)) : Except Trap Unit := do
  e.chkLocalSlot 1 scr f.q
  if ((gs[e.uniVal false f.p]?).join).isNone then throw (e.operand 0)
  e.chkLocalVal 1 scr f.q
  let n := e.uniVal true f.s % 2 ^ 32
  let r := e.uniVal true f.s / 2 ^ 32
  if n = 0 ∨ 1024 < n * redWire op ∨ 2 ^ 28 ≤ r then throw (e.operand 2)
  if cnt then
    if f.t = 0xF3 then throw (e.operand 3)
    e.chkBarVa 3 (e.uniVal true f.t)

/-- `fred`. -/
def squadFred (f : FormX) (cnt scr : Bool) (op : FredOp) (c : Chip) (q : Squad) : Res :=
  match c.chkRed q f scr with
  | .error t => .trap t
  | .ok _ =>
    let e := q.exe
    if e.acting f.g = 0 then .done c
    else match e.chkRedVals f cnt scr (fredCode op) c.fab.groups with
      | .error t => .trap t
      | .ok _ =>
        match (if cnt then (c.fabAt q (e.uniVal true f.t) 16).map some else .ok none) with
        | .error x => c.fabStop q x
        | .ok bar => c.fabricCmd q f fun c =>
            match (c.fab.groups[e.uniVal false f.p]?).join with
            | none => .done c
            | some g =>
              let l := c.localSide q scr f.q
              .done (c.startFab q f.handle.toNat
                [{ id := 0, kind := 2, ctx := e.ctx, launch := q.launch, uid := q.uid, core := q.place.core, slot := f.handle.toNat, num := 0
                   dst := { peer := 0, node := g.root, index := g.index, key := g.key, off := 0 }, remote := 0
                   len := e.uniVal true f.s % 2 ^ 32 * redBytes (fredCode op), scr, localAt := l.1, room := l.2, counted := cnt, bar
                   barVa := if cnt then e.uniVal true f.t else 0, op := (fredCode op), group := e.uniVal false f.p, rank := g.rank
                   round := e.uniVal true f.s / 2 ^ 32 }])

/-- `fred`. -/
def execFred (f : FormX) (cnt scr : Bool) (op : FredOp) := fun (s : State) =>
  onSquad s [4] (fun _ => uniRegs false f.p ++ localRegs scr f.q ++ uniRegs true f.s ++ uniRegs true f.t) (squadFred f cnt scr op)

/-! ### fwin (R322) -/

/-- Operand codes of `fwin`: a revoke ignores Q and S. -/
def Chip.chkWin (c : Chip) (q : Squad) (f : FormX) (openIt : Bool) : Except Trap Unit := do
  let e := q.exe
  e.chkUni 0 false f.p
  if openIt then
    e.chkPair 1 f.q
    e.chkUni 2 false f.s
  if !c.slotHeld q f.handle.toNat then throw (e.operand 5)

/-- Operand values of `fwin`. -/
def Chip.chkWinVals (c : Chip) (e : Exe) (f : FormX) (openIt : Bool) : Except Trap Unit := do
  let i := e.uniVal false f.p
  if 255 < i then throw (e.operand 0)
  if openIt then
    let base := e.uniVal true f.q
    if bits base 15 0 ≠ 0 ∨ bits base 63 57 ≠ 0 then throw (e.operand 1)
    let d := e.uniVal false f.s
    if bits d 31 27 ≠ 0 ∨ bits d 21 16 < 12 ∨ 40 < bits d 21 16 then throw (e.operand 2)
  let x := c.fab.expo.getD i {}
  if x.state ≠ 0 ∧ x.ctx ≠ e.ctx then throw (e.operand 0)

/-- Put a window command behind those that wait for its entry. -/
def Chip.waitWin (c : Chip) (w : WinWait) : Chip := { c with fab := { c.fab with wins := c.fab.wins ++ [w] } }

/-- Carry out a numbered window command (R302, R322). -/
def Chip.doWin (c : Chip) (w : WinWait) : Chip :=
  let x := c.fab.expo.getD w.entry {}
  if w.openIt then
    if x.state = 1 then c.finish w.core w.slot w.num true
    else if x.state = 2 then c.waitWin w
    else (c.waitWin w).settleWindows w.entry
  else if x.state = 0 then c.finish w.core w.slot w.num false
  else (c.waitWin w).revokeExpo w.entry

/-- `fwin`. -/
def squadFwin (f : FormX) (openIt : Bool) (c : Chip) (q : Squad) : Res :=
  match c.chkWin q f openIt with
  | .error t => .trap t
  | .ok _ =>
    let e := q.exe
    if e.acting f.g = 0 then .done c
    else match c.chkWinVals e f openIt with
      | .error t => .trap t
      | .ok _ => c.fabricCmd q f fun c =>
          let k := c.number q.place.core f.handle.toNat
          .done (k.2.doWin
            { core := q.place.core, slot := f.handle.toNat, num := k.1, entry := e.uniVal false f.p, openIt, ctx := e.ctx
              base := if openIt then e.uniVal true f.q else 0, desc := if openIt then e.uniVal false f.s else 0 })

/-- `fwin` with bit 0 clear. -/
def execFwinOpen (f : FormX) := fun (s : State) =>
  onSquad s [4] (fun _ => uniRegs false f.p ++ uniRegs true f.q ++ uniRegs false f.s) (squadFwin f true)
/-- `fwin` with bit 0 set. -/
def execFwinRevoke (f : FormX) := fun (s : State) => onSquad s [4] (fun _ => uniRegs false f.p) (squadFwin f false)

/-! ### fflush (R323) -/

/-- Whether a packet answers to a command. -/
def FabOwner.isOf (o : FabOwner) (id : Nat) : Bool :=
  match o with
  | .cmd k _ => k == id
  | .signal k => k == id
  | .reduce k => k == id
  | .lane _ _ => false
  | .service _ _ => false
  | .wc _ _ _ => false
  | .relay _ => false

/-- Whether a packet of a command is still unanswered, or still unsent. -/
def Fabric.unanswered (f : Fabric) (id : Nat) : Bool := f.out.any fun o => o.owner.isOf id
def Fabric.unsent (f : Fabric) (id : Nat) : Bool := f.out.any fun o => o.owner.isOf id && o.sent.isNone

/-- Whether a squad has a fabric request that is not answered yet. -/
def Chip.fabricOpen (c : Chip) (uid : Nat) : Bool :=
  (c.fab.out.any fun o => o.uids.contains uid) || (c.fab.cmds.any fun k => k.uid == uid && (!k.left || c.fab.unanswered k.id)) ||
    c.cores.any fun k => k.wc.any fun w => w.squads.contains uid

/-- `fflush`. -/
def squadFflush (f : FormX) (c : Chip) (q : Squad) : Res :=
  if 7 < f.p.toNat then .trap (q.exe.operand 0)
  else
    let g := q.exe.acting f.g
    if g = 0 then .done c
    else if c.acquiring q g then .stall c
    else c.endRegion q fun c =>
      let c := c.drainWc q.uid
      if c.fabricOpen q.uid || c.earlier (.squad q.uid) c.nextId g then .stall c
      else .done (c.modSquad q.uid fun q => { q with exe := q.exe.setFlagIn f.p.toNat g (!q.badResponse), badResponse := false })

/-- `fflush`. -/
def execFflush (f : FormX) := fun (s : State) => onSquad s [4] (fun _ => []) (squadFflush f)

end Sys2Proof.Machine
end

