-- ==== Sys2Proof/Machine/FabricEvents.lean ====
section
/-! DEFINITION. What the fabric engine does on its own: injection and the injection window (R307 to R309), arrivals, placement and
forwarding (R297, R301, R302, R305, R306), responses and what they complete (R307, R312, R316 to R324), reductions (R76, R311),
write-combining age (R312) and wavelengths (R310). -/

namespace Sys2Proof.Machine

/-! ### Flits and the injection window (R303, R308, R309) -/

/-- Key of a die's state for a peer node. -/
def winKey (die node : Nat) : Nat := 1024 * die + node

/-- Injection window of a die for a node, in 1/256 flit: min(64, Maximum) × 256 until a response moves it (R309). -/
def Fabric.windowAt (f : Fabric) (die node : Nat) : Nat :=
  match Sparse.get 0 f.window (winKey die node) with
  | 0 => min 64 f.params.maximum * 256
  | w => w

/-- Flits in flight from a die to a node: of packets whose response has not come. -/
def Fabric.inFlight (f : Fabric) (die node : Nat) : Nat :=
  ((f.out.filter fun o => o.sent.isSome && !(f.kept.any fun x => x.1 == o.id) && o.die == die && o.pkt.dest.toNat == node).map fun o => flits o.pkt).sum

/-- Whether a packet may be injected now (R309). -/
def Fabric.mayInject (f : Fabric) (o : OutPacket) : Bool :=
  let n := f.inFlight o.die o.pkt.dest.toNat
  n == 0 || decide (n + flits o.pkt ≤ f.windowAt o.die o.pkt.dest.toNat / 256)

/-- Whether a packet waits at the initiator: for an earlier access of its lane to the same bytes of the peer (R51, R52), for a lower lane's of its
instruction (R186), for an earlier packet of write combining that carries an earlier store of the same lane or instruction to them, or, where it is an
atomic, for a lock of the context engine (R181). -/
def Chip.packetHeld (c : Chip) (o : OutPacket) : Bool :=
  let at_ : FabAddr := { peer := 0, node := o.pkt.dest.toNat, index := o.pkt.index.toNat, key := 0, off := o.pkt.offset.toNat }
  let behind := fun (req lane : Nat) => (c.request? req).elim false fun r => c.requests.any fun s => s.agent == r.agent &&
    ((decide (s.id < r.id) && s.peerOpen at_ r.size fun l => l == lane) ||
      (s.id == r.id && r.kind != .load && s.peerOpen at_ r.size fun l => decide (l < lane)))
  (o.pkt.opcode == 2 && c.locks.contains (lockOf o.pkt.offset.toNat)) ||
    match o.owner with
    | .lane req lane => behind req lane
    | .service req lane => behind req lane
    | .wc _ _ ss => c.fab.out.any fun x => decide (x.id < o.id) && match x.owner with
      | .wc _ _ ts => ss.any fun i => ts.any fun j => match c.request? i, c.request? j with
        | some r, some s => s.storeBefore r at_ o.pkt.payload.length
        | _, _ => false
      | _ => false
    | _ => false

/-- The timeout of R308 in cycles. -/
def FabParams.cycles (p : FabParams) : Nat := max 1 p.timeout * 1024

/-- The window after a response with delay d to a packet of k flits, and whether the response lowers it (R309). -/
def FabParams.update (p : FabParams) (w k d : Nat) (hold : Bool) : Nat × Bool :=
  if d ≤ p.target then (min (256 * p.maximum) (w + 65536 * p.step * k / w), false)
  else if hold then (w, false)
  else (max (256 * p.minimum) (w - w * p.gain * (d - p.target) / (256 * d)), true)

/-- CONGESTION_WINDOW_UPDATE for the response to a packet, d cycles after its sending (R309). A hold ends with the response to a
packet sent after the update that set it. -/
def Fabric.congestion (f : Fabric) (o : OutPacket) (d : Nat) : Fabric :=
  let i := winKey o.die o.pkt.dest.toNat
  let since := Sparse.get 0 f.hold i
  let hold := decide (since ≠ 0) && match o.sent with
    | some k => decide (k + 1 < since)
    | none => true
  let r := f.params.update (f.windowAt o.die o.pkt.dest.toNat) (flits o.pkt) d hold
  { f with
    window := f.window.set 0 i r.1
    hold := f.hold.set 0 i (if r.2 then f.injected + 1 else if hold then since else 0) }

/-! ### Error records (R324, R326) -/

/-- A fabric error record. -/
def record326 (kind cause peer slot core node num len addr : Nat) : Nat :=
  fld 192 addr + fld 128 len + fld 64 num + fld 54 node + fld 40 core + fld 30 slot + fld 20 peer + fld 8 cause + kind

/-- Node that a record names: the initiator's own for causes 0x1 and 0x6 (R326). -/
def Fabric.refuser (f : Fabric) (cause node : Nat) : Nat := if cause = 1 ∨ cause = 6 then f.node else node

/-- A refusal of a numbered command: the sticky fault bit of its slot and one record (R324). (DESIGN CHOICE, log 43.) -/
def Chip.refuse (c : Chip) (k : FabCmd) (kind cause peer node len addr : Nat) : Chip :=
  let c := c.modCore k.core fun x => { x with slots := modAt x.slots k.slot fun s => { s with fault := true } }
  c.errAppend k.ctx (record326 kind cause peer k.slot k.core (c.fab.refuser cause node) k.num len addr)

/-! ### Commands as they proceed (R314, R318) -/

/-- Change a command. -/
def Chip.modFab (c : Chip) (id : Nat) (f : FabCmd → FabCmd) : Chip :=
  { c with fab := { c.fab with cmds := c.fab.cmds.map fun k => if k.id = id then f k else k } }

/-- SIGNAL_SEND: with every data packet answered, the signal packet is queued, or its suppression recorded (R306, R318). -/
def Chip.signal (c : Chip) (k : FabCmd) : Chip :=
  match k.bar with
  | none => c
  | some b =>
    if !k.signal || k.signalled || !k.loaded || k.stopped || c.fab.unanswered k.id then c
    else
      let c := c.modFab k.id fun k => { k with signalled := true }
      match k.refusal with
      | some x => c.refuse k 0x31 x.1 b.peer x.2 0 k.barVa
      | none =>
        let die := c.die k.core
        let c := c.nextMessage die
        c.sendRequest die (c.fab.header die 4 1 false b 0 []) (.signal k.id) k.ctx [k.uid]

/-- Whether the last request packet of a command has left (R314). -/
def Fabric.hasLeft (f : Fabric) (k : FabCmd) : Bool :=
  k.stopped && k.kind != 1 || (k.loaded && !f.unsent k.id && (!k.signal || k.signalled))

/-- Settle a command: its signal, its completion on its timeline once every command of its number has left, and its end once
nothing of it is unanswered and no countdown of it is still under way (R38, R314, R318). -/
def Chip.settleFab (c : Chip) (id : Nat) : Chip :=
  match c.fab.cmds.find? fun k => k.id == id with
  | none => c
  | some k =>
    let c := c.signal k
    match c.fab.cmds.find? fun k => k.id == id with
    | none => c
    | some k =>
      let mates := fun (x : FabCmd) => x.core == k.core && x.slot == k.slot && x.num == k.num && x.id != id
      let c := if !k.left && c.fab.hasLeft k then
          let c := c.modFab id fun k => { k with left := true }
          if (c.fab.cmds.filter mates).all (·.left) then c.finish k.core k.slot k.num false else c
        else c
      let ended := !c.fab.unanswered id && !c.updates.any fun u => u.cmd == some id
      { c with fab := { c.fab with cmds := c.fab.cmds.filter fun x => !(x.id == id && x.left && ended) } }

/-- The countdown of an engine command has been applied: a get whose last one it was ends (R38, R319). -/
def Chip.settleGet (c : Chip) (cmd : Option Nat) : Chip :=
  match cmd with
  | some id => c.settleFab id
  | none => c

/-! ### Local sides -/

/-- Why a local side of a command fails: a page that is not present, or an access fault (R314). -/
def Chip.localLocs (c : Chip) (k : FabCmd) (need : Need) (pos n : Nat) : Except (Option Nat) (List Loc) :=
  if k.scr then
    if pos + n ≤ k.room then .ok ((List.range n).map fun i => .scr k.core (k.localAt + pos + i)) else .error none
  else if n = 0 then .ok []
  else match c.xlFor k.id k.core k.ctx need (k.localAt + pos) n with
    | .ok ls => .ok ls
    | .error (.absent p) => .error (some p)
    | .error (.access _) => .error none

/-- A local access fault stops a command: the sticky fault bit and a record of kind 0x34 with cause 0x6 (R314). Its Length is a
free value. (DEDUCED, log 40.) -/
def Chip.stopFab (c : Chip) (k : FabCmd) (pos : Nat) : Chip :=
  let v := c.free
  let c := v.2.refuse k 0x34 6 k.dst.peer c.fab.node (bits v.1.toNat 31 0) (k.remote + pos)
  c.modFab k.id fun k => { k with stopped := true }

/-- Widen an element to its wire form (R76, R321). -/
def redWiden (op x : Nat) : Nat := match redFmt op with
  | some m => ROUND (unpack m x) .f32 .rn
  | none => x

/-- The wire bytes of a contribution (R321). -/
def redPayload (op : Nat) (bs : List Byte) : List Byte :=
  let z := redBytes op
  (List.range (bs.length / z)).flatMap fun i => leBytes (redWire op) (redWiden op (ofLe ((bs.drop (z * i)).take z)))

/-- Barrier fields of a counted packet (R304). -/
def countOn (p : Packet) (b : FabAddr) : Packet :=
  { p with counted := true, barIndex := BitVec.ofNat 8 b.index, barKey := BitVec.ofNat 16 b.key, barOffset := BitVec.ofNat 40 b.off }

/-- Barrier fields where a command counts. -/
def FabCmd.count (k : FabCmd) (p : Packet) : Packet :=
  match k.bar with
  | some b => if k.counted then countOn p b else p
  | none => p

/-- Queue the request packets of a command whose local source has been read (R303, R311, R318). -/
def Chip.queueData (c : Chip) (k : FabCmd) (bs : List Byte) : Chip :=
  let die := c.die k.core
  let c := c.nextMessage die
  if k.kind = 2 then
    let pay := redPayload k.op bs
    -- the header's offset is 0, so that 1,024 bytes fill 16 flits. (DESIGN CHOICE, log 42.)
    let p := k.count (c.fab.header die 3 2 false k.dst pay.length pay)
    let p := { p with
      group := BitVec.ofNat 8 k.group, rank := BitVec.ofNat 10 k.rank, seq := BitVec.ofNat 28 k.round, operation := BitVec.ofNat 4 k.op }
    c.sendRequest die p (.reduce k.id) k.ctx [k.uid]
  else
    (packetsOf k.dst.off k.len).foldl (fun c x =>
      let p := c.fab.header die 1 0 k.ordered { k.dst with off := x.2.1 } x.2.2 ((bs.drop x.1).take x.2.2)
      c.sendRequest die (k.count p) (.cmd k.id x.1) k.ctx [k.uid]) c

/-- Note the bytes of global memory that a local side reaches: an access of the launch, whose translations stay cached (R177, R370). -/
def Chip.localUse (c : Chip) (k : FabCmd) (pos n : Nat) : Chip :=
  if k.scr then c
  else
    let a := k.localAt + pos
    (List.range ((a + n - 1) / 65536 - a / 65536 + 1)).foldl (fun c i => c.fillTlb k.core k.ctx (max a (65536 * (a / 65536 + i)))) (c.touch k.launch a n)

/-- Read the local source of a command, once for every destination of its number, and queue its packets (R314, R320). -/
def Chip.loadFab (c : Chip) (k : FabCmd) : Chip :=
  let all := c.fab.cmds.filter fun x => x.core == k.core && x.slot == k.slot && x.num == k.num
  match c.localLocs k { r := true } 0 k.len with
  | .error (some p) => c.engineFault k.ctx p k.core k.id { r := true }
  | .error none =>
    let c := c.stopFab k 0
    let c := all.foldl (fun c x => c.modFab x.id fun x => { x with stopped := true }) c
    all.foldl (fun c x => c.settleFab x.id) c
  | .ok ls =>
    if c.inCopy ls then c
    else
    let bs := c.readLocs ls
    let c := c.localUse k 0 k.len
    let c := all.foldl (fun c x => (c.modFab x.id fun x => { x with loaded := true }).queueData x bs) c
    all.foldl (fun c x => c.settleFab x.id) c

/-! ### Landing of a get (R319) -/

/-- Locations of a get's barrier object (R319). -/
def Chip.homeLocs (c : Chip) (k : FabCmd) : Except (Option Nat) (List Loc) :=
  match k.home with
  | none => .ok []
  | some (true, a) => .ok ((List.range 16).map fun i => .scr k.core (a + i))
  | some (false, a) => match c.xlFor k.id k.core k.ctx { w := true } a 16 with
    | .ok ls => if onHost ls then .error none else .ok ls
    | .error (.absent p) => .error (some p)
    | .error (.access _) => .error none

/-- Bytes of a command that lie in a scratch line. -/
def FabCmd.inLine (k : FabCmd) (line : Nat) : Nat := min (k.localAt + k.len) (128 * line + 128) - max k.localAt (128 * line)

/-- Bytes of a command's landed pieces that lie in a scratch line. -/
def FabCmd.landedIn (k : FabCmd) (line : Nat) : Nat :=
  (k.landed.map fun x => min (k.localAt + x.1 + x.2) (128 * line + 128) - max (k.localAt + x.1) (128 * line)).sum

/-- Set the lines present in which every byte of a get has landed or been refused (R236, R319). -/
def Chip.landLines (c : Chip) (id pos n : Nat) : Chip :=
  match c.fab.cmds.find? fun k => k.id == id with
  | none => c
  | some k =>
    if !k.scr then c
    else (linesAt (k.localAt + pos) n).foldl (fun c l =>
      if k.inLine l ≤ k.landedIn l then (c.modCore k.core fun x => x.landLine l).performWaiting k.core l else c) c

/-- Address of a get's barrier object in global memory. -/
def FabCmd.homeVa (k : FabCmd) : Nat := match k.home with
  | some (false, a) => a
  | _ => 0

/-- A response of a get: its bytes are written, or refused; its lines and its countdown follow. A refused response writes nothing, and neither does
one of a command that a local fault has stopped (R314, R319). -/
def Chip.landGet (c : Chip) (k : FabCmd) (pos n cause : Nat) (data : List Byte) : Chip :=
  let landed := fun (c : Chip) => (c.modFab k.id fun k => { k with landed := k.landed ++ [(pos, n)] }).landLines k.id pos n
  if cause = 0 then
    if k.stopped then c
    else match c.localLocs k { w := true } pos n, c.homeLocs k with
      | .ok ls, .ok bar =>
        let c := (c.localUse k pos n).writeLocs ls data
        let pas := ls.filterMap Loc.devPa?
        let c := c.modCore k.core fun x => { x with l1 := x.l1.filter fun y => !(y.pas.any pas.contains) }
        (landed c).sendCount bar k.ctx k.homeVa n k.id
      | _, _ => c.stopFab k pos
  else
    let c := landed (c.refuse k 0x33 cause k.dst.peer k.dst.node n (k.remote + pos))
    match c.homeLocs k with
    | .ok bar => c.sendCount bar k.ctx k.homeVa n k.id
    | .error _ => if k.stopped then c else c.stopFab k pos

/-- Why a get's response cannot be taken now: a page that is not present (R178, R314), or a row that is being copied (R381). -/
def Chip.getWaits (c : Chip) (k : FabCmd) (pos n cause : Nat) : Option (Option Nat) :=
  if cause = 0 ∧ k.stopped then none
  else
    let data := if cause = 0 then c.localLocs k { w := true } pos n else .ok []
    match data, c.homeLocs k with
    | .error (some p), _ => some (some p)
    | _, .error (some p) => some (some p)
    | .ok ls, _ => if c.inCopy ls then some none else none
    | _, _ => none

/-! ### Responses (R307) -/

/-- Note a poisoned response for the squads it concerns, on a bench or saved (R323). -/
def Chip.notePoison (c : Chip) (uids : List Nat) (cause : Nat) : Chip :=
  if cause = 0 then c
  else uids.foldl (fun c u => (c.modSquad u fun q => { q with badResponse := true }).modSaved u fun q => { q with badResponse := true }) c

/-- The data bytes that a response carries for n bytes asked for; missing ones are free values of none: zero. -/
def fitTo (n : Nat) (bs : List Byte) : List Byte := (bs ++ List.replicate n 0).take n

/-- A lane's access is refused by its peer (R316, R317). -/
def Chip.refuseLane (c : Chip) (r : Request) (a : Access) (cause : Nat) : Chip :=
  let set := fun (c : Chip) (st : AccStatus) => c.modAccess r.id a.lane fun a => { a with status := st }
  if r.dst.isSome then set c (.refused cause)
  else match a.fab with
    | none => c
    | some p =>
      let c := c.errAppend r.ctx (record326 0x30 cause p.peer 0 r.core (c.fab.refuser cause p.node) 0 r.size a.va)
      (set c (.done [])).settleReq r.id

/-- A lane's access is over: its acquire, its value (R48, R315). -/
def Chip.endLane (c : Chip) (r : Request) (a : Access) (value : List Byte) : Chip :=
  let c := if bit r.order 0 then c.dropL1 r.core else c
  (c.modAccess r.id a.lane fun a => { a with status := .done value }).settleReq r.id

/-- A lane's access of a request. -/
def Chip.laneOf (c : Chip) (req lane : Nat) : Option (Request × Access) :=
  (c.request? req).bind fun r => (r.accs.find? fun (a : Access) => a.lane == lane).map fun a => (r, a)

/-- An answer to a lane's access (R315 to R317). -/
def Chip.answerLane (c : Chip) (req lane cause : Nat) (data : List Byte) : Chip :=
  match c.laneOf req lane with
  | none => c
  | some (r, a) => if cause ≠ 0 then c.refuseLane r a cause else c.endLane r a (fitTo r.size data)

/-- An answer to a packet of an unsupported atomic's service: to the read, the write leaves under the same lock; to the write, or where nobody asks any
more, the lock is free (R181, R353). -/
def Chip.answerService (c : Chip) (o : OutPacket) (req lane cause : Nat) (data : List Byte) : Chip :=
  let free := { c with locks := c.locks.filter fun k => k != lockOf o.pkt.offset.toNat }
  match c.laneOf req lane with
  | none => free
  | some (r, a) =>
    if cause ≠ 0 then free.refuseLane r a cause
    else if !a.cmp.isEmpty then free.endLane r a a.cmp
    else match r.kind with
      | .atom op _ =>
        let old := fitTo r.size data
        let c := (c.modAccess req lane fun a => { a with cmp := old }).nextMessage o.die
        c.sendRequest o.die
          { o.pkt with opcode := 1, payload := leBytes r.size (atomApply op (ofLe old) (ofLe a.data)), message := BitVec.ofNat 16 (c.fab.message.getD o.die 0) }
          (.service req lane) o.ctx o.uids
      | _ => free

/-- An answer to a packet of a write-combining drain: a record where it was refused; stores with nothing left complete (R312). -/
def Chip.answerWc (c : Chip) (o : OutPacket) (core va cause : Nat) (stores : List Nat) : Chip :=
  let c := if cause = 0 then c
    else
      let peer := bits va 55 46
      c.errAppend o.ctx (record326 0x30 cause peer 0 core (c.fab.refuser cause o.pkt.dest.toNat) 0 o.pkt.payload.length va)
  stores.foldl (fun c id =>
    let more := (c.fab.out.any fun x => match x.owner with
      | .wc _ _ ss => ss.contains id
      | _ => false) || c.cores.any fun k => k.wc.any fun w => w.stores.any fun x => x.1 == id
    if more then c
    else (c.modRequest id fun r => { r with accs := r.accs.map fun a =>
      if a.fab.isSome && a.status == .waiting then { a with status := .done [] } else a }).settleReq id) c

/-- An answer to a packet of a command (R318, R319, R321). -/
def Chip.answerCmd (c : Chip) (o : OutPacket) (k : FabCmd) (pos cause : Nat) (data : List Byte) : Chip :=
  if k.kind = 1 then
    let n := o.pkt.bytes.toNat
    c.landGet k pos n cause (fitTo n data)
  else if cause = 0 then c
  else
    let c := c.refuse k 0x31 cause k.dst.peer k.dst.node o.pkt.payload.length (k.remote + pos)
    c.modFab k.id fun k => { k with refusal := match k.refusal with
      | some x => some x
      | none => some (cause, c.fab.refuser cause k.dst.node) }

/-- Hand a packet to a port (R297, R305, R310). -/
def Chip.transmit (c : Chip) (p : Packet) (port : Nat) : Chip :=
  { c with fab := { c.fab with
      sent := { p with port } :: c.fab.sent, ports := modAt c.fab.ports port fun x => { x with queue := x.queue + flits p } } }

/-- The response to a packet (R304, R307). -/
def Fabric.response (f : Fabric) (p : Packet) (cause : Nat) (data : List Byte) : Packet :=
  { src := BitVec.ofNat 10 f.node, dest := p.src, opcode := 5, channel := 3, cause := BitVec.ofNat 4 cause, index := p.index
    offset := p.offset, message := p.message, seq := p.seq, group := p.group, bytes := BitVec.ofNat 11 data.length
    hops := BitVec.ofNat 8 (bits (f.route p.src.toNat) 24 20), payload := data }

/-- Respond to a packet (R307): back to this device where it was looped back, unless it has timed out there meanwhile, else on channel 3; nothing is sent
to a node without a route (R297). -/
def Chip.respond (c : Chip) (p : Packet) (own : Option Nat) (cause : Nat) (data : List Byte) : Chip :=
  match own with
  | some id => if c.fab.out.any fun o => o.id == id then { c with fab := { c.fab with back := c.fab.back ++ [(id, cause, data)] } } else c
  | none => if c.fab.leads p.src.toNat then c.transmit (c.fab.response p cause data) (c.fab.portOf (c.fab.response p cause data) 0) else c

/-- What a response does to the request it answers, by who asked. The Address and Peer of a contribution's record are free
values. -/
def Chip.answerOwner (c : Chip) (o : OutPacket) (cause : Nat) (data : List Byte) : Chip :=
  let cmd := fun (id : Nat) => c.fab.cmds.find? fun (k : FabCmd) => k.id == id
  match o.owner with
  | .lane r l => c.answerLane r l cause data
  | .service r l => c.answerService o r l cause data
  | .wc core va ss => c.answerWc o core va cause ss
  | .cmd id pos => match cmd id with
    | some k => (c.answerCmd o k pos cause data).settleFab id
    | none => c
  | .signal id => match cmd id with
    | some k =>
      let c := if cause = 0 then c else match k.bar with
        | some b => c.refuse k 0x31 cause b.peer b.node 0 k.barVa
        | none => c
      c.settleFab id
    | none => c
  | .reduce id => match cmd id with
    | some k =>
      let c := if cause = 0 then c else
        let v := c.free
        let w := v.2.free
        w.2.refuse k 0x32 cause (bits v.1.toNat 9 0) k.dst.node o.pkt.payload.length w.1.toNat
      c.settleFab id
    | none => c
  | .relay parts => parts.foldl (fun c p => c.respond p none cause []) c

/-- A get's response that cannot be taken now: its command, and the page that it waits for, if it waits for one (R178, R314). -/
def Chip.answerWaits (c : Chip) (o : OutPacket) (cause : Nat) : Option (FabCmd × Option Nat) :=
  match o.owner with
  | .cmd id pos => match c.fab.cmds.find? fun k => k.id == id with
    | some k => if k.kind = 1 then (c.getWaits k pos o.pkt.bytes.toNat cause).map fun p => (k, p) else none
    | none => none
  | _ => none

/-- Keep a response that cannot be taken now; the packet counts as answered (R307). -/
def Chip.keepResponse (c : Chip) (o : OutPacket) (cause : Nat) (data : List Byte) : Chip :=
  { c with fab := { c.fab with
      kept := (o.id, cause, data) :: c.fab.kept.filter fun x => x.1 != o.id, back := c.fab.back.filter fun x => x.1 != o.id } }

/-- Take a response with a cause for an unanswered packet; `d` is the delay, none where the response is the initiator's own for
want of a route, or was kept. -/
def Chip.answer (c : Chip) (o : OutPacket) (cause : Nat) (data : List Byte) (d : Option Nat) : Chip :=
  let c := match d with
    | some d => { c with fab := c.fab.congestion o d }
    | none => c
  match c.answerWaits o cause with
  | some (k, some p) => (c.keepResponse o cause data).engineFault k.ctx p k.core k.id { w := true }
  | some (_, none) => c.keepResponse o cause data
  | none =>
    let gone := fun (x : Nat × Nat × List Byte) => x.1 != o.id
    let c := { c with fab := { c.fab with out := c.fab.out.filter fun x => x.id != o.id, back := c.fab.back.filter gone, kept := c.fab.kept.filter gone } }
    (c.notePoison o.uids cause).answerOwner o cause data

/-- FABRIC_RESPONSE: a response arrives for an injected packet, sooner or later than the target delay; one for a looped-back packet
is the device's own; one that was kept is taken once it can be. -/
def Chip.fabricResponse (c : Chip) (id : Nat) (cause : Nat) (data : List Byte) (late : Bool) : Chip :=
  match c.fab.out.find? fun o => o.id == id with
  | none => c
  | some o => match c.fab.kept.find? fun x => x.1 == id with
    | some x => c.answer o x.2.1 x.2.2 none
    | none =>
      let v := c.free
      let d := if late then c.fab.params.target + 1 + v.1.toNat else 0
      let c := if late then v.2 else c
      if o.sent.isNone then c
      else if o.pkt.dest.toNat = c.fab.node then match c.fab.back.find? fun x => x.1 == id with
        | some x => c.answer o x.2.1 x.2.2 (some d)
        | none => c
      else if 9 < cause then c
      else c.answer o cause data (some d)

/-- RESPONSE_TIMEOUT: the initiator answers itself with cause 0x1 where no response has come (R307). -/
def Chip.responseTimeout (c : Chip) (id : Nat) : Chip :=
  match c.fab.out.find? fun o => o.id == id with
  | some o => if o.sent.isSome && !(c.fab.kept.any fun x => x.1 == id) then c.answer o 1 [] (some c.fab.params.cycles) else c
  | none => c

/-- FABRIC_RESPONSE. -/
def execFabricResponse (id : Nat) (cause : BitVec 4) (data : List Byte) (late : Bool) := fun (s : State) =>
  onChip s (s.chip.fabricResponse id cause.toNat data late)
/-- RESPONSE_TIMEOUT. -/
def execResponseTimeout (id : Nat) := fun (s : State) => onChip s (s.chip.responseTimeout id)

/-! ### Arrival at the target (R301, R302) -/

/-- Steps 1 to 3 of R301 for an entry. -/
def Expo.refuses (e : Expo) (key off n : Nat) : Nat :=
  if e.state ≠ 1 then 3 else if e.key ≠ key then 2 else if 2 ^ e.size < off + n then 5 else 0

/-- The right that an opcode needs (R301). -/
def Expo.right (e : Expo) (opcode : Nat) : Bool :=
  match opcode with
  | 0 => e.read
  | 1 => e.write
  | 2 => e.atomic
  | 3 => e.reduce
  | _ => e.signal

/-- Step 5 of R301. -/
def Fabric.barRefuses (f : Fabric) (p : Packet) : Bool :=
  let b := f.expo.getD p.barIndex.toNat {}
  p.counted && (b.refuses p.barKey.toNat p.barOffset.toNat 16 != 0 || !b.signal || p.barOffset.toNat % 16 != 0)

/-- Steps 1 to 5 of R301 for a packet that needs n bytes of the window: the response cause, 0 where it is accepted. -/
def Fabric.checks (f : Fabric) (p : Packet) (n : Nat) : Nat :=
  let e := f.expo.getD p.index.toNat {}
  match e.refuses p.key.toNat p.offset.toNat n with
  | 0 => if !e.right p.opcode.toNat then 4 else if f.barRefuses p then 8 else 0
  | k => k

/-- Count a packet that is discarded on the port it came over (R298, R304). -/
def Chip.countRefused (c : Chip) (port : Nat) : Chip :=
  { c with fab := { c.fab with ports := modAt c.fab.ports port fun p => { p with refused := p.refused + 1 } } }

/-- Whether the next arrival falls in a later cycle of the fabric target than the last one is open: a free value. (DESIGN CHOICE, log 39.) -/
def Chip.nextCycle (c : Chip) : Chip :=
  let v := c.free
  if v.1.getLsbD 0 then { v.2 with fab := { v.2.fab with cycle := v.2.fab.cycle + 1 } } else v.2

/-- Next sequence number that a source and channel may place (R306). -/
def Fabric.expects (f : Fabric) (p : Packet) : Nat := Sparse.get 0 f.seqIn (seqKey p.src.toNat p.channel.toNat)

/-- Let refused ordered packets whose turn it is go (R306). -/
def Fabric.passRefused (f : Fabric) : Nat → Fabric
  | 0 => f
  | k + 1 => match f.inn.find? fun x => x.refused && x.pkt.seq.toNat == f.expects x.pkt with
    | none => f
    | some x => Fabric.passRefused
        { f with
          inn := f.inn.filter fun y => y.id != x.id
          seqIn := f.seqIn.set 0 (seqKey x.pkt.src.toNat x.pkt.channel.toNat) ((f.expects x.pkt + 1) % 2 ^ 28) } k

/-- Take an accepted packet in, or note a refused ordered one (R301, R306). -/
def Chip.takeIn (c : Chip) (p : Packet) (own : Option Nat) (cause : Nat) : Chip :=
  let i := p.index.toNat
  let x : InPacket := { id := c.nextId, pkt := p, expo := i, refused := decide (cause ≠ 0), own, cycle := c.fab.cycle }
  if cause = 0 then
    { c with
      nextId := c.nextId + 1
      fab := { c.fab with inn := c.fab.inn ++ [x], expo := modAt c.fab.expo i fun e => { e with inFlight := e.inFlight + 1 } } }
  else
    let c := if p.ordered then { c with nextId := c.nextId + 1, fab := { c.fab with inn := c.fab.inn ++ [x] } } else c
    let c := c.respond p own cause []
    { c with fab := c.fab.passRefused c.fab.inn.length }

/-- Whether two ranges of ranks meet. -/
def ranksMeet (p q : Packet) : Bool := overlap p.rank.toNat p.span q.rank.toNat q.span

/-- Whether every rank of a contribution is one of another's. -/
def ranksIn (p q : Packet) : Bool := decide (q.rank.toNat ≤ p.rank.toNat) && decide (p.rank.toNat + p.span ≤ q.rank.toNat + q.span)

/-- Whether a contribution is refused: a rank out of range or repeated (R311). A partial sum that holds every rank of a held contribution and more is none:
it is kept, and the held one is the second of its ranks. (DESIGN CHOICE, log 42.) -/
def Fabric.rankRefused (f : Fabric) (p : Packet) : Bool :=
  match (f.groups[p.group.toNat]?).join with
  | none => true
  | some g => p.span == 0 || decide (g.count < p.rank.toNat + p.span) ||
      (f.partials.any fun h => h.group == p.group.toNat && h.round == p.seq.toNat && h.parts.any fun x => ranksMeet p x.2.1 && (ranksIn p x.2.1 || !ranksIn x.2.1 p)) ||
      f.inn.any fun x => x.parts.any fun y => y.1.group == p.group && y.1.seq == p.seq && ranksMeet p y.1

/-- Hold a contribution with those of its group and round; held ones that it covers are refused (R311). -/
def Chip.addPart (c : Chip) (p : Packet) (own : Option Nat) : Chip :=
  let same := fun (h : Partial) => h.group == p.group.toNat && h.round == p.seq.toNat
  let covered := (c.fab.partials.filter same).flatMap fun h => h.parts.filter fun x => ranksIn x.2.1 p
  let c := covered.foldl (fun c x => c.respond x.2.1 x.2.2 9 []) c
  if c.fab.partials.any same then
    let c := { c with fab := { c.fab with partials := c.fab.partials.map fun h => if same h then { h with parts := h.parts.filter fun x => !ranksIn x.2.1 p } else h } }
    { c with fab := { c.fab with partials := c.fab.partials.map fun h => if same h then { h with parts := h.parts ++ [(p.rank.toNat, p, own)] } else h } }
  else
    { c with
      nextId := c.nextId + 1
      fab := { c.fab with partials := c.fab.partials ++ [{ id := c.nextId, group := p.group.toNat, round := p.seq.toNat, parts := [(p.rank.toNat, p, own)] }] } }

/-- A contribution reaches the root: it is held, or refused (R311). -/
def Chip.holdPart (c : Chip) (p : Packet) (own : Option Nat) : Chip := if c.fab.rankRefused p then c.respond p own 9 [] else c.addPart p own

/-- Bytes that a packet reaches at the target: a signal reaches the whole object, a compare-and-swap half of what it carries (R192, R304). -/
def reachOf (p : Packet) : Nat :=
  if p.opcode = 4 then 16 else if p.opcode = 2 ∧ p.operation.toNat = fabCas then p.bytes.toNat / 2 else p.bytes.toNat

/-- A request packet for this device arrives (R301, R304). (DEDUCED, log 19.) -/
def Chip.arrive (c : Chip) (p : Packet) (own : Option Nat) : Chip :=
  let op := p.opcode.toNat
  if 5 < op ∨ !c.fab.reaches p.src.toNat then c.countRefused p.port
  else if op = 5 then c
  else if op = 3 then c.holdPart p own
  else
    let c := c.nextCycle
    c.takeIn p own (c.fab.checks p (if op = 0 ∨ op = 2 then reachOf p else p.payload.length))

/-- FABRIC_REQUEST_ARRIVAL: a packet for this node comes in from a port. -/
def execFabricRequestArrival (p : Packet) := fun (s : State) =>
  onChip s (if p.dest.toNat = s.chip.fab.node then s.chip.arrive p none else s.chip)

/-- Send a packet for another node on: an ordered one on the lowest port of the entry, any other on a free one of them (R297, R305). -/
def Chip.passOn (c : Chip) (p : Packet) : Chip :=
  let ps := c.fab.routePorts p.dest.toNat
  let q := { p with hops := p.hops - 1 }
  if p.ordered then c.transmit q (ps.headD 0)
  else
    let v := c.free
    v.2.transmit q (ps.getD (v.1.toNat % ps.length) 0)

/-- Whether a forwarding device holds a contribution to combine it: it knows the group and takes the ranks (R311). -/
def Fabric.combines (f : Fabric) (p : Packet) : Bool :=
  p.opcode == 3 && !f.rankRefused p && ((f.groups[p.group.toNat]?).join).elim false fun g => g.root == p.dest.toNat

/-- FABRIC_FORWARD (R297): a packet for another node goes on, or is dropped and its source answered with cause 0x1; a contribution is held so
that it can be combined with others on the way (R311). One whose source has no route is discarded (R298). -/
def Chip.forward (c : Chip) (p : Packet) : Chip :=
  if p.dest.toNat = c.fab.node then c
  else if 5 < p.opcode.toNat ∨ !c.fab.reaches p.src.toNat then c.countRefused p.port
  else if !c.fab.leads p.dest.toNat || decide (p.hops.toNat ≤ 1) then c.respond p none 1 []
  else if c.fab.combines p then c.addPart p none
  else c.passOn p

/-- FABRIC_FORWARD. -/
def execFabricForward (p : Packet) := fun (s : State) => onChip s (s.chip.forward p)

/-! ### Placement (R301, R306) -/

/-- Old value of an atomic's location, new value, by the packet's operation (R192, R317); an operation or width that no rule names
leaves a free value. (DEDUCED, log 38.) -/
def Chip.packetAtom (c : Chip) (p : Packet) (old : Nat) : Nat × Chip :=
  let w64 := reachOf p == 8
  let n := reachOf p
  let v := ofLe (p.payload.take n)
  let op := p.operation.toNat
  if n ≠ 4 ∧ n ≠ 8 then let r := c.free; (r.1.toNat, r.2)
  else if op = fabCas then (if old = v then ofLe (p.payload.drop n) else old, c)
  else
    let f : Option FatomOp :=
      [FatomOp.add, .and, .or, .xor, .swap, .minS, .minZ, .maxS, .maxZ, .fadd][op]?
    match f with
    | some f => (atomApply (fatomOp f w64) old v, c)
    | none => let r := c.free; (r.1.toNat, r.2)

/-- What a packet needs of the pages it reaches (R301, step 6). -/
def placeNeed (opcode : Nat) : Need := if opcode = 0 then { r := true } else if opcode = 1 ∨ opcode = 3 then { w := true } else { r := true, w := true }

/-- A translation at the target: locations, a page to wait for, or an access fault (R178, R179, R301). -/
def Chip.targetLocs (c : Chip) (id : Nat) (e : Expo) (need : Need) (off n : Nat) : Except XErr (List Loc) :=
  if n = 0 then .ok []
  else c.xlFor id 0 e.ctx need (e.base + off) n

/-- The barrier object at a location of the target: an object in host memory has no home that updates it (R16). (DEDUCED, log 49.) -/
def Chip.targetObj (c : Chip) (id : Nat) (e : Expo) (off : Nat) : Except XErr (List Loc) :=
  match c.targetLocs id e { r := true, w := true } off 16 with
  | .ok ls => if onHost ls then .error (.access 0) else .ok ls
  | r => r

/-- Both translations of a packet (R301, step 6). -/
def Chip.packetLocs (c : Chip) (x : InPacket) : Except (XErr × Nat) (List Loc × List Loc) :=
  let e := c.fab.expo.getD x.expo {}
  let b := c.fab.expo.getD x.pkt.barIndex.toNat {}
  match (if x.pkt.opcode = 4 then c.targetObj x.id e x.pkt.offset.toNat
      else c.targetLocs x.id e (placeNeed x.pkt.opcode.toNat) x.pkt.offset.toNat (reachOf x.pkt)) with
  | .error r => .error (r, e.ctx)
  | .ok ls =>
    if x.pkt.counted then match c.targetObj x.id b x.pkt.barOffset.toNat with
      | .error r => .error (r, b.ctx)
      | .ok bs => .ok (ls, bs)
    else .ok (ls, [])

/-- Cause that answers an access fault at the target: 0x7 for lost data, 0x6 for every other (R301, R383). -/
def faultCause (reason : Nat) : Nat := if reason = 4 then 7 else 6

/-- Perform an accepted packet at its locations: response cause and data (R301, R307). -/
def Chip.perform (c : Chip) (p : Packet) (ls bar : List Loc) : Chip × Nat × List Byte :=
  let old := c.readLocs ls
  let r := match p.opcode.toNat with
    | 0 => if c.anyBad ls then (c, 7, []) else (c, 0, old)
    | 1 => (c.writeLocs ls p.payload, 0, [])
    | 3 => (c.writeLocs ls p.payload, 0, [])
    | 2 =>
      if c.anyBad ls then (c, 7, [])
      else
        let v := c.packetAtom p (ofLe old)
        (v.2.writeLocs ls (leBytes ls.length v.1), 0, old)
    | _ => (c.countObj ls true 0, 0, [])
  if p.counted && r.2.1 == 0 then (r.1.countDown bar p.payload.length, r.2) else r

/-- Whether an atomic waits for a lock of the context engine (R181). -/
def Chip.lockWaits (c : Chip) (p : Packet) (ls : List Loc) : Bool :=
  p.opcode == 2 && match ls with
    | .host pa :: _ => c.locks.contains (lockOf pa)
    | _ => false

/-- Order in which the atomics of one cycle to one location are performed: source, exposure index, message, sequence (R331). -/
def batchKey (x : InPacket) : Nat := fld 64 x.pkt.src.toNat + fld 48 x.expo + fld 28 x.pkt.message.toNat + x.pkt.seq.toNat

/-- Whether it is the turn of an accepted packet in its sequence (R306). -/
def Fabric.inTurn (f : Fabric) (x : InPacket) : Bool := !x.refused && (!x.pkt.ordered || x.pkt.seq.toNat == f.expects x.pkt)

/-- Whether an atomic waits for another of its cycle that reaches the same location and comes before it (R331). -/
def Chip.batchHeld (c : Chip) (x : InPacket) (ls : List Loc) : Bool :=
  x.pkt.opcode == 2 && c.fab.inn.any fun y => y.pkt.opcode == 2 && y.cycle == x.cycle && decide (batchKey y < batchKey x) && c.fab.inTurn y &&
    match c.packetLocs y with
    | .ok r => r.1.any ls.contains
    | .error _ => false

/-- A packet is placed or refused: it leaves, the sequence moves on, In flight falls, the response goes out (R301, R302, R306). What arrives from then on
falls in a later cycle (R331). -/
def Chip.placed (c : Chip) (x : InPacket) (cause : Nat) (data : List Byte) : Chip :=
  let k := seqKey x.pkt.src.toNat x.pkt.channel.toNat
  let f := c.fab
  let f := { f with
    inn := f.inn.filter fun y => y.id != x.id
    seqIn := if x.pkt.ordered then f.seqIn.set 0 k ((f.expects x.pkt + 1) % 2 ^ 28) else f.seqIn
    expo := modAt f.expo x.expo fun e => { e with inFlight := e.inFlight - 1 }
    cycle := f.cycle + 1 }
  let c := { c with fab := f.passRefused f.inn.length }
  let c := if x.parts.isEmpty then c.respond x.pkt x.own cause data else x.parts.foldl (fun c y => c.respond y.1 y.2 cause []) c
  c.settleExpo x.expo

/-- Place an accepted packet whose turn it is; it waits for its pages, a lock, an earlier atomic of its cycle, or a row that is being copied. -/
def Chip.placePacket (c : Chip) (x : InPacket) : Chip :=
  if !c.fab.inTurn x then c
  else match c.packetLocs x with
    | .error (.absent p, ctx) => c.engineFault ctx p 0xFF x.id (placeNeed x.pkt.opcode.toNat)
    | .error (.access r, _) => c.placed x (faultCause r) []
    | .ok (ls, bar) =>
      if c.lockWaits x.pkt ls || c.batchHeld x ls || c.inCopy (ls ++ bar) then c
      else let r := (c.reachLocs (ls ++ bar)).perform x.pkt ls bar
           r.1.placed x r.2.1 r.2.2

/-- FABRIC_PLACEMENT: an accepted packet. -/
def Chip.place (c : Chip) (id : Nat) : Chip :=
  match c.fab.inn.find? fun x => x.id == id with
  | none => c
  | some x => c.placePacket x

/-- FABRIC_PLACEMENT. -/
def execFabricPlacement (id : Nat) := fun (s : State) => onChip s (s.chip.place id)

/-! ### Injection (R307, R309) -/

/-- Note that a packet has been injected. -/
def Chip.markSent (c : Chip) (id : Nat) : Chip :=
  let go := fun (x : OutPacket) => if x.id = id then { x with sent := some c.fab.injected } else x
  { c with fab := { c.fab with out := c.fab.out.map go, injected := c.fab.injected + 1 } }

/-- Inject a packet: without a route the initiator answers itself with cause 0x1; the own node is looped back (R297). -/
def Chip.inject (c : Chip) (o : OutPacket) : Chip :=
  if o.sent.isSome then c
  else if !c.fab.leads o.pkt.dest.toNat then c.answer o 1 [] none
  else if !c.fab.mayInject o || c.packetHeld o then c
  else
    let c := c.markSent o.id
    let c := if o.pkt.dest.toNat = c.fab.node then c.arrive o.pkt (some o.id) else c.transmit o.pkt (c.fab.portOf o.pkt o.pos)
    match o.owner with
    | .cmd id _ => c.settleFab id
    | .signal id => c.settleFab id
    | .reduce id => c.settleFab id
    | .lane _ _ => c
    | .service _ _ => c
    | .wc _ _ _ => c
    | .relay _ => c

/-- PACKET_INJECTION: a waiting packet goes out, or a command reads its local source so that its packets can. -/
def Chip.injection (c : Chip) (id : Nat) : Chip :=
  match c.fab.out.find? fun o => o.id == id with
  | some o => c.inject o
  | none => match c.fab.cmds.find? fun k => k.id == id with
    | some k => if k.loaded || k.stopped then c else c.loadFab k
    | none => c

/-- PACKET_INJECTION. -/
def execPacketInjection (id : Nat) := fun (s : State) => onChip s (s.chip.injection id)

/-! ### Reductions (R76, R311) -/

/-- The elements of a contribution on the wire. -/
def redElems (op : Nat) (p : Packet) : List Nat :=
  let z := redWire op
  (List.range (p.payload.length / z)).map fun i => ofLe ((p.payload.drop (z * i)).take z)

/-- One result element of the values of all ranks, ascending, in the element type (R76). -/
def redResult (op : Nat) (vs : List Nat) : Nat :=
  let fold := fun (f : Nat → Nat → Nat) => match vs with
    | [] => 0
    | v :: rest => rest.foldl f v
  match op with
  | 0 => vs.sum % 2 ^ 32
  | 1 => vs.sum % 2 ^ 64
  | 2 => fold (pickW false true 32)
  | 3 => fold (pickW true true 32)
  | 4 => fold (pickW false false 32)
  | 5 => fold (pickW true false 32)
  | 11 => if vs.any fun v => (val32 v).isNaN then Fmt.defaultNaN .f32 else fold (fMinMax false)
  | 12 => if vs.any fun v => (val32 v).isNaN then Fmt.defaultNaN .f32 else fold (fMinMax true)
  | _ => match redFmt op with
    | some m => ROUND (val32 (TREE vs)) m .rn
    | none => 0

/-- Contributions in ascending order of rank. -/
def Partial.ranked (h : Partial) (n : Nat) : List (Packet × Option Nat) :=
  (List.range n).filterMap fun i => (h.parts.find? fun x => x.1 == i).map (·.2)

/-- Whether contributions agree in their operation, which R321 defines, and in their length. -/
def agree (p q : Packet) : Bool := decide (p.operation.toNat ≤ 12) && p.operation == q.operation && p.payload.length == q.payload.length

/-- Whether the tree of R76 pairs two partial sums over n ranks: the first covers a whole subtree of 2^j ranks, the second its neighbour, or what is
left of it at the end. -/
def pairs (n : Nat) (p q : Packet) : Bool :=
  let k := p.span
  agree p q && k == 2 ^ Nat.log2 k && p.rank.toNat % (2 * k) == 0 && q.rank.toNat == p.rank.toNat + k && q.span == min k (n - q.rank.toNat)

/-- One element of two partial sums, in the wire type (R76). -/
def redPair (op a b : Nat) : Nat :=
  match op with
  | 0 => (a + b) % 2 ^ 32
  | 1 => (a + b) % 2 ^ 64
  | 2 => pickW false true 32 a b
  | 3 => pickW true true 32 a b
  | 4 => pickW false false 32 a b
  | 5 => pickW true false 32 a b
  | 11 => if (val32 a).isNaN || (val32 b).isNaN then Fmt.defaultNaN .f32 else fMinMax false a b
  | 12 => if (val32 a).isNaN || (val32 b).isNaN then Fmt.defaultNaN .f32 else fMinMax true a b
  | _ => add32 a b

/-- Two partial sums as one, with the barrier fields of the lower ranks. -/
def joinParts (p q : Packet) : Packet :=
  let op := p.operation.toNat
  { p with
    span := p.span + q.span
    payload := (redElems op p).zip (redElems op q) |>.flatMap fun x => leBytes (redWire op) (redPair op x.1 x.2) }

/-- Combine neighbours that the tree pairs, once along a list in ascending order of rank. -/
def pairOnce (n : Nat) : List Packet → List Packet
  | p :: q :: rest => if pairs n p q then joinParts p q :: pairOnce n rest else p :: pairOnce n (q :: rest)
  | ps => ps

/-- Combine as long as the tree pairs partial sums: as many rounds as there are sums suffice. -/
def pairAll (n : Nat) : Nat → List Packet → List Packet
  | 0, ps => ps
  | k + 1, ps => pairAll n k (pairOnce n ps)

/-- Free bytes. -/
def Chip.freeBytes (c : Chip) : Nat → List Byte × Chip
  | 0 => ([], c)
  | n + 1 =>
    let v := c.free
    let r := v.2.freeBytes n
    (BitVec.ofNat 8 v.1.toNat :: r.1, r.2)

/-- The result bytes of a round of n ranks: every rank's elements by the tree of R76, or the last step of it where partial sums of several ranks
have come. Contributions that differ in operation or length, or whose operation R321 does not assign, or partial sums that the tree does not pair,
leave free bytes. (DESIGN CHOICE, log 42.) -/
def Chip.redBytesOf (c : Chip) (n : Nat) (ps : List Packet) : List Byte × Chip :=
  match ps with
  | [] => ([], c)
  | p :: rest =>
    let op := p.operation.toNat
    let m := p.payload.length / redWire op
    if !(p :: rest).all (agree p) then c.freeBytes (m * redBytes op)
    else if (p :: rest).all fun q => q.span == 1 then
      ((List.range m).flatMap fun i => leBytes (redBytes op) (redResult op ((p :: rest).map fun q => (redElems op q).getD i 0)), c)
    else match pairAll n ps.length ps with
      | [q] => ((redElems op q).flatMap fun v => leBytes (redBytes op) (redResult op [v]), c)
      | _ => c.freeBytes (m * redBytes op)

/-- The write of a result: one write under the Reduce right, counted where the contribution of rank 0 is (R311, R321). -/
def resultPacket (g : RedGroup) (p0 : Packet) (bs : List Byte) : Packet :=
  { p0 with
    opcode := 3, index := BitVec.ofNat 8 g.index, key := BitVec.ofNat 16 g.key, offset := BitVec.ofNat 40 g.offset, ordered := false
    bytes := BitVec.ofNat 11 bs.length, payload := bs }

/-- Drop a partial. -/
def Chip.dropPart (c : Chip) (h : Partial) : Chip := { c with fab := { c.fab with partials := c.fab.partials.filter fun x => x.id != h.id } }

/-- Answer every contributor of a round and drop the partial. -/
def Chip.endRound (c : Chip) (h : Partial) (cause : Nat) : Chip := h.parts.foldl (fun c x => c.respond x.2.1 x.2.2 cause []) (c.dropPart h)

/-- The root has every rank's contribution: the result is checked, accepted and placed (R301, R311). -/
def Chip.combineRoot (c : Chip) (g : RedGroup) (h : Partial) (ps : List (Packet × Option Nat)) : Chip :=
  let r := c.redBytesOf g.count (ps.map (·.1))
  let p := resultPacket g ((ps.map (·.1)).headD {}) r.1
  match c.fab.checks p r.1.length with
  | 0 =>
    let c := (r.2.dropPart h).nextCycle
    let x : InPacket := { id := c.nextId, pkt := p, expo := g.index, cycle := c.fab.cycle, parts := ps }
    Chip.placePacket
      { c with
        nextId := c.nextId + 1
        fab := { c.fab with inn := c.fab.inn ++ [x], expo := modAt c.fab.expo g.index fun e => { e with inFlight := e.inFlight + 1 } } } x
  | k => c.endRound h k

/-- Send a partial sum toward the root: the contribution itself where it is a single one, else as a packet of this device, whose response goes to
every contributor. (DESIGN CHOICE, log 42.) -/
def Chip.passPart (c : Chip) (held : List Packet) (p : Packet) : Chip :=
  match held.filter fun q => decide (p.rank.toNat ≤ q.rank.toNat) && decide (q.rank.toNat < p.rank.toNat + p.span) with
  | [q] => c.passOn q
  | qs =>
    let c := c.nextMessage 0
    let f := c.fab
    let q := { p with
      src := BitVec.ofNat 10 f.node, hops := BitVec.ofNat 8 (bits (f.route p.dest.toNat) 24 20)
      message := BitVec.ofNat 16 (f.message.getD 0 0), ordered := false }
    c.sendRequest 0 q (.relay qs) 64 []

/-- REDUCTION_COMBINE: at the root, once every rank's contribution is there; on the way, what is held goes on toward the root, combined as far as
the tree pairs it (R311). -/
def Chip.combine (c : Chip) (group round : Nat) : Chip :=
  match (c.fab.groups[group]?).join, c.fab.partials.find? fun h => h.group == group && h.round == round with
  | some g, some h =>
    let ps := h.ranked g.count
    if g.root = c.fab.node then
      if (ps.map fun x => x.1.span).sum < g.count then c else c.combineRoot g h ps
    else
      let held := ps.map (·.1)
      (pairAll g.count held.length held).foldl (fun c p => c.passPart held p) (c.dropPart h)
  | _, _ => c

/-- REDUCTION_COMBINE. -/
def execReductionCombine (group round : Nat) := fun (s : State) => onChip s (s.chip.combine group round)

/-! ### Write combining by age, and wavelengths (R310, R312) -/

/-- WRITE_COMBINING_AGE_EXPIRY. -/
def execWriteCombiningAgeExpiry (core entry : Nat) := fun (s : State) => onChip s (s.chip.drainEntry core entry)

/-- Full width of a port: the largest of 8, 4 and 2 that its working wavelengths allow; 0 where it is retired (R310). -/
def Port.full (p : Port) : Nat :=
  let n := (p.working.filter id).length
  if 8 ≤ n then 8 else if 4 ≤ n then 4 else if 2 ≤ n then 2 else 0

/-- The ports that are retired, as bits of a route entry (R310). (DEDUCED, log 84.) -/
def Chip.retiredPorts (c : Chip) : BitVec 32 := BitVec.ofNat 32 ((c.fab.ports.mapIdx fun i p => if p.full = 0 then 2 ^ i else 0).sum)

/-- Change a port. -/
def Chip.modPort (c : Chip) (i : Nat) (f : Port → Port) : Chip := { c with fab := { c.fab with ports := modAt c.fab.ports i f } }

/-- Flits left the transmit queue since it was last looked at: how many is open, a free value. (DESIGN CHOICE, log 39.) -/
def Chip.drainPort (c : Chip) (i : Nat) : Chip :=
  let v := c.free
  v.2.modPort i fun p => { p with queue := p.queue - v.1.toNat % (p.queue + 1) }

/-- A queue at or below Park depth for a whole Park interval: the width falls one step, to no less than 2; a waking port does not park, nor one whose
queue is at Wake depth. The interval itself is time (log 7). -/
def FabParams.park (f : FabParams) (p : Port) : Port :=
  if p.waking || decide (f.parkDepth < p.queue) || decide (f.wakeDepth ≤ p.queue) then p
  else if 8 ≤ p.width then { p with width := 4 } else if 4 ≤ p.width then { p with width := 2 } else p

/-- A queue at Wake depth: the port begins to wake; flits keep flowing at the current width. -/
def FabParams.wake (f : FabParams) (p : Port) : Port := if f.wakeDepth ≤ p.queue ∧ p.width < p.full then { p with waking := true } else p

/-- The port is awake at its full width. -/
def Port.awake (p : Port) : Port := if p.waking then { p with waking := false, width := p.full } else p

/-- WAVELENGTH_PARK. -/
def execWavelengthPark (port : Nat) := fun (s : State) => onChip s ((s.chip.drainPort port).modPort port s.chip.fab.params.park)
/-- WAVELENGTH_WAKE. -/
def execWavelengthWake (port : Nat) := fun (s : State) => onChip s ((s.chip.drainPort port).modPort port s.chip.fab.params.wake)
/-- WAVELENGTH_WAKE_COMPLETE. -/
def execWavelengthWakeComplete (port : Nat) := fun (s : State) => onChip s (s.chip.modPort port Port.awake)

end Sys2Proof.Machine
end

