-- ==== Sys2Proof/Machine/SquadEvents.lean ====
section
/-! DEFINITION. What happens to squads and their requests between instructions: CLAUSE_START with the selection of lanes (R24, R149,
R154), the header check (R80), readiness (R12, R166, R196, R223, R249) and issue selection (R344); bins and spawned squads (R33,
R34); requests at their homes and on their way back (R47, R161 to R164, R180, R181); page faults and regions (R174, R179); barrier
updates (R17, R195) and external waits (R200, R201). -/

namespace Sys2Proof.Machine

/-! ### Selection of lanes (R24, R149, R154) -/

/-- What a squad would start: issue address, word position, active set, and the ensign whose continuation it is. -/
structure Pick where
  addr : Nat
  pos : Nat
  active : LaneMask
  ens : Option Nat := none
  deriving DecidableEq, Repr

/-- The armed ensign that replaces the selection: none in handler mode, and none while lanes resume inside a continuation clause
that a trap left (R149). -/
def Squad.armed (q : Squad) : Option Nat :=
  if q.trap.hmode then none
  else
    let left := match q.contLeft with
      | some k => q.resumesAt (q.ensigns.getD k {}).cont
      | none => false
    if left then none else (List.range 4).find? fun k => (q.ensigns.getD k {}).armed

/-- Lanes that R24 considers: in handler mode only those of the trap mask that have not returned (R153). -/
def Squad.considered (q : Squad) (s : LaneState) : List Nat :=
  (List.range 32).filter fun l => q.state l == s && (!q.trap.hmode || q.trap.left.getLsbD l)

/-- The selection (R24, R149, R154). -/
def Squad.pick (q : Squad) : Option Pick :=
  match q.armed with
  | some k => let e := q.ensigns.getD k {}; some { addr := e.cont, pos := 0, active := e.set, ens := some k }
  | none =>
    let es := match q.considered .eligible with
      | [] => q.considered .yielded
      | xs => xs
    match (es.map fun l => q.lpc.getD l 0).min? with
    | none => none
    | some a =>
      let here := es.filter fun l => q.lpc.getD l 0 == a
      let pos := ((here.map fun l => q.resume.getD l 0).min?).getD 0
      let active := maskOf fun l => here.contains l && q.resume.getD l 0 == pos
      let ens := q.contLeft.filter fun k => (q.ensigns.getD k {}).cont == a && active &&& q.byResume != 0
      some { addr := a, pos, active, ens }

/-! ### The header (R78 to R80, R350) -/

/-- Whether a squad may run under a header: the check of R80. -/
def headerOk (h : Nat) (declared : Nat) : Bool :=
  let code := fun r => decide (r ≤ 11) || r == 15
  let live := bits h 31 24
  decide (bits h 63 60 ≤ 5) && bits h 63 60 != 3 && code (bits h 43 40) && code (bits h 39 36) && bits h 33 32 == 0 && bits h 23 0 == 0 &&
    (if bit h 35 then decide (live ≤ 30) && decide (8 * live ≤ declared) else live == 0)

/-- The squad as it stands at the start of a picked clause: lanes active, latch empty or restored (R88, R154). -/
def Squad.poise (q : Squad) (p : Pick) (hdr : DWord) : Squad :=
  let low := (lowestLane p.active).getD 0
  let back := p.pos != 0 && q.byResume.getLsbD low
  let latch := (List.range 3).flatMap fun k => (lanesOf p.active).map fun l => (32 * k + l, Sparse.get (0 : DWord) q.savedLatch (32 * k + l))
  { q with
    contEns := p.ens
    exe := { q.exe with
      hdr, hdrAt := p.addr, pos := p.pos, active := p.active
      latch := if back then latch.foldl (fun m e => m.set 0 e.1 e.2) [] else []
      latchAt := if back then q.savedAt.getD low [none, none, none] else [none, none, none] } }

/-- Take a trap at a clause start for the lanes of a pick (R80, R153, R350). At an armed ensign's continuation the members leave Ensign-wait and the
ensign stays armed, as for a trap of an instruction of that clause (R149). (DESIGN CHOICE, log 94.) -/
def Chip.trapAtStart (c : Chip) (q : Squad) (p : Pick) (hdr : DWord) (t : Trap) : Chip :=
  (c.setSquad (q.poise p hdr)).takeTrap q.uid t true (some p.addr)

/-- How a header is reached decides the trap of a failing one (R80). -/
def Squad.headerTrap (q : Squad) (p : Pick) (hdr : DWord) : Trap :=
  if p.active &&& q.byTransfer ≠ 0 then { cause := 3, det := p.addr } else { cause := 2, det := hdr.toNat }

/-! ### Escort demand (R166) -/

/-- The words of a clause from a position on, as far as they can be fetched. -/
def Chip.clauseWords (c : Chip) (core ctx hdrAt count pos : Nat) : List DWord :=
  ((List.range (count + 1)).filter fun i => decide (pos ≤ i)).filterMap fun i => (c.fetchWord core ctx (hdrAt + 8 * (i + 1))).toOption

/-- Whether the fetch of a word of a clause waits for a row that is being copied (R381). -/
def Chip.codeHeld (c : Chip) (core ctx hdrAt count : Nat) : Bool :=
  !c.copying.isEmpty && (List.range (count + 1)).any fun i => c.fetchHeld core ctx (hdrAt + 8 * (i + 1))

/-- The memory operation of an instruction that may be escorted and is no `.try` form. -/
def plainMem : Instr → Option MemOp
  | .ld f t => some (opM f .glob .load t)
  | .st f t => some (opM f .glob .store t)
  | .lds f t => some (opM f .scr .load t)
  | .sts f t => some (opM f .scr .store t)
  | .cas f w => some (opM f .glob (.cas w) (casTy w))
  | .casScr f w => some (opM f .scr (.cas w) (casTy w))
  | .atom f k => some (opM f .glob (.atom k true) (atomTy k))
  | .red f k => some (opM f .glob (.atom k false) (atomTy k))
  | .atomScr f k => some (opM f .scr (.atom k true) (atomTy k))
  | .redScr f k => some (opM f .scr (.atom k false) (atomTy k))
  | _ => none

/-- Escort demand of words: requests and registers (R166). The guard "never" is the inverted true flag (R83). (DEDUCED, log 21.) -/
def demand (ws : List DWord) : Nat × Nat :=
  let ms := (ws.filterMap fun w => (decode w).toOption.bind plainMem).filter fun m => m.escorted && !(m.g.inv && m.g.flag == 7)
  (ms.length, (ms.map fun m => m.escortSet.length).sum)

/-- Whether a demand can never be met (R166). -/
def Squad.impossible (q : Squad) (n : Nat) : Bool :=
  decide (8 < n) || (List.range 4).any fun k => (q.exe.mslots.getD k none).isSome && q.quota.getD k 0 != 0 && decide (q.quota.getD k 0 < n)

/-! ### Readiness (R344) -/

/-- Whether a pre-emption of the squad's context, or a migration of its group, waits for its next safe point (R350, R355, R361). -/
def Chip.stopPending (c : Chip) (q : Squad) : Bool :=
  (c.core q.place.core).preempt == some q.exe.ctx || c.moves.any fun m => m.core == q.place.core && c.inGroup m q.launch q.exe.mslots

/-- Whether a squad is unsettled: registers of it lie in the landing buffer (R162). -/
def Chip.unsettled (c : Chip) (q : Squad) : Bool := (c.bench q.place.core q.place.bench).landing.any fun l => l.uid == q.uid

/-- Whether anything keeps a squad from every clause start (R344); one that is stopped for its save still takes a trap that R179 put off (R350). -/
def Chip.held (c : Chip) (q : Squad) : Bool :=
  q.dead || (q.stopped && q.deferred.isNone) || q.exe.inClause || q.evicted.isSome || c.unsettled q || q.parked.isSome || (q.restart && q.deferred.isNone)

/-- What considering a squad for a clause start finds: nothing to start; a note to keep (a first failed test, a page to wait for); a
trap at the clause start; a clause that has started. -/
inductive Consider where
  | no
  | note (c : Chip)
  | trap (c : Chip)
  | go (c : Chip)

/-- The waiting condition of the first instruction (R196, R223, R249): holds, with what the start reserves; fails; or fails with a
note. -/
inductive Cond1 where
  | holds (c : Chip)
  | fails
  | note (c : Chip)

/-- Mark a squad. -/
def Chip.mark (c : Chip) (q : Squad) (f : Squad → Squad) : Chip := c.modSquad q.uid f

/-- The condition of a waiting instruction (R196 to R201), after the squad's open region is committed (R175). A uniform register that awaits a token
is not ready (R159). (DEDUCED, log 90.) -/
def Chip.waitCond (c : Chip) (q : Squad) (i : Instr) (g : Guard) (uses : List Nat) : Cond1 :=
  if c.blocked q.uid uses then .fails
  else if (q.region.isSome || c.committing q.uid) && q.exe.acting g != 0 && (c.checkWait q i).toBool then .note (c.commitRegion q.uid)
  else
  let c := c.waitFill q i
  match c.testWait q i with
    | .idle => .holds c
    | .trap _ => .holds c
    | .held => .fails
    | .met scope => .holds (c.mark q fun q => { q with waitMet := some scope })
    | .page p => if q.waitMet.isSome then .holds c else if c.walkHeld q.exe.ctx p then .fails else
        let r := c.openFault q.exe.ctx p q.place.core false { r := true }
        .note (r.2.mark q fun q => { q with parked := some r.1, parkedVa := p })
    | .unmet ext => if q.waitMet.isSome || (ext && q.waitExpired) then .holds c
        else if q.waitTested then .fails else .note (c.mark q fun q => { q with waitTested := true })

/-- The condition of `qpop` and `qpush`, with the reservation that the start makes (R223). -/
def Chip.queueCond (c : Chip) (q : Squad) (f : FormX) (push : Bool) : Cond1 :=
  let n := q.place.core
  let i := f.q.toNat
  if q.exe.acting f.g = 0 then .holds c
  else if push then
    if (c.chkPush q f).toBool = false || (c.queue n i).pushShut then .holds c
    else if (c.queue n i).hasSlot then
      .holds ((c.modQueue n i fun x => { x with held := x.held + 1 }).mark q fun q => { q with qHold := some 0 })
    else .fails
  else if (c.chkPop q f).toBool = false then .holds c
  else match (c.queue n i).popTest with
    | .none_ => .holds c
    | .wait => .fails
    | .entry k => .holds ((c.modQueue n i fun x =>
        { x with entries := x.entries.map fun e => if e.num = k then { e with reserved := true } else e }).mark q fun q => { q with qHold := some k })

/-- The condition of the instruction at the start position; only position 0 waits. -/
def Chip.firstCond (c : Chip) (q : Squad) (w : Option DWord) : Cond1 :=
  if q.exe.pos ≠ 0 then .holds c
  else match w.bind fun w => (decode w).toOption with
    | some (.barWait f o) => c.waitCond q (.barWait f o) f.g ((if o.form then [] else uniRegs true f.q) ++ uniRegs false f.s)
    | some (.twait f ext) => c.waitCond q (.twait f ext) f.g (uniRegs true f.q)
    | some (.wext f sc cond) => c.waitCond q (.wext f sc cond) f.g (uniRegs true f.q ++ uniRegs false f.s)
    | some (.qpop f) => c.queueCond q f false
    | some (.qpush f) => c.queueCond q f true
    | some (.acqb f n1) => match c.testAcqb q f n1 with
      | .wait c => .note c
      | .ready c => .holds c
      | _ => .holds c
    | _ => .holds c

/-- Whether the first instruction is `acqb`. -/
def isAcqb (w : Option DWord) : Bool := match w.bind fun w => (decode w).toOption with
  | some (.acqb _ _) => true
  | _ => false

/-- The header's wait mask is clear (R12, R78). -/
def Squad.maskClear (q : Squad) (hdr : DWord) : Bool := (List.range 12).all fun k => !bit hdr.toNat (44 + k) || q.pennants.getD k 0 == 0

/-- The clause starts: the region of a header with the region-start bit opens, credits are reserved, Yielded lanes return (R24,
R166, R174). -/
def Squad.begin_ (q : Squad) (order : Nat) (need : Nat × Nat) (acqb : Bool) : Squad :=
  { q with
    exe := { q.exe with inClause := true }
    st := q.st.map fun s => if s = .yielded then .eligible else s
    region := if bit q.exe.hdr.toNat 34 ∧ q.exe.pos = 0 then some { hdrAt := q.exe.hdrAt, pos := 0, mask := q.exe.active } else q.region
    lastIssue := order, age := 0, credit := need.1, creditRegs := need.2, stall := none
    acqbAt := if acqb then q.acqbAt else none
    waitTested := false }

/-- A clause of a squad starts on its engine: the code it reads is an access of the launch whose translations stay cached (R177, R370), and the engine's
last operation is the context's (R380). -/
def Chip.engage (c : Chip) (q : Squad) : Chip :=
  let e := q.exe
  let last := e.hdrAt + 8 * (e.count + 1)
  let c := ((c.touch q.launch e.hdrAt (last + 8 - e.hdrAt)).fillTlb q.place.core e.ctx e.hdrAt).fillTlb q.place.core e.ctx last
  c.modBench q.place.core q.place.bench fun b => { b with lastCtx := modAt b.lastCtx e.cls fun _ => some e.ctx }

/-- Start a picked clause of a poised squad whose conditions hold (R344). -/
def Chip.begin_ (c : Chip) (q : Squad) (need : Nat × Nat) (acqb : Bool) : Chip :=
  let c := if bit q.exe.hdr.toNat 34 ∧ q.exe.pos = 0 then c.commitRegion q.uid else c
  let x := c.squad? q.uid
  let q := match x with
    | some x => { x with exe := q.exe, contEns := q.contEns }
    | none => q
  let c := (c.setSquad (q.begin_ c.order need acqb)).engage q
  { c with order := c.order + 1, turn := some (.squad q.uid) }

/-- A page of the clause's code is not present: the squad waits for it, and an open region aborts (R174, R178, R179); a fetch that a copy holds up only
waits (R381). (DEDUCED, log 24.) -/
def Chip.fetchFault (c : Chip) (q : Squad) (page : Nat) : Chip :=
  if c.fetchHeld q.place.core q.exe.ctx page then c
  else
  let r := c.openFault q.exe.ctx page q.place.core false { x := true }
  r.2.modSquad q.uid fun q => if q.region.isSome then q.abortRegion r.1 page else { q with parked := some r.1, parkedVa := page }

/-- Steps after the header check for a poised squad: the safe point, the impossible demand, the wait mask, the waiting condition,
the escort reservation (R350, R344). (DEDUCED, log 20.) -/
def Chip.considerPoised (c : Chip) (q0 : Squad) (p : Pick) (hdr : DWord) : Consider :=
  let q := q0.poise p hdr
  let ws := c.clauseWords q.place.core q.exe.ctx p.addr q.exe.count p.pos
  let need := demand ws
  if bit hdr.toNat 35 && c.stopPending q || c.codeHeld q.place.core q.exe.ctx p.addr q.exe.count then .no
  else if q.impossible need.1 then .trap (c.trapAtStart q0 p hdr { cause := 2, det := hdr.toNat })
  else if !q.maskClear hdr || !c.escortRoom q need.1 need.2 then .no
  else if bit hdr.toNat 34 && p.pos == 0 && c.regionHeld q then .note (c.commitRegion q.uid)
  else match (c.setSquad q).firstCond q ws.head? with
    | .fails => .no
    | .note d => .note (d.modSquad q.uid fun x => { x with exe := q0.exe, contEns := q0.contEns })
    | .holds d => .go (d.begin_ q need (isAcqb ws.head?))

/-- The trap that R179 put off, at a clause start: for the lanes whose access failed, or at the restart point of a region. -/
def Chip.deferredTrap (c : Chip) (q : Squad) (d : Deferred) : Chip :=
  let at_ := match q.region, q.restart with
    | some r, true => (r.hdrAt, r.pos)
    | _, _ => ((q.pick.map Pick.addr).getD 0, 0)
  let hdr := ((c.fetchWord q.place.core q.exe.ctx at_.1).toOption).getD 0
  let m := d.mask &&& q.liveMask
  let q1 := { (q.setStates m .eligible) with
    deferred := none, restart := false, stopped := false
    region := if q.restart then none else q.region
    exe := { q.exe with hdr, hdrAt := at_.1, pos := at_.2, active := m }
    contEns := none }
  if m = 0 then c.setSquad { q with deferred := none, restart := false, region := if q.restart then none else q.region }
  else (c.setSquad q1).takeTrap q.uid (accessFault d.reason d.va) d.atStart (some d.addr)

/-- Consider a squad for a clause start, in the order of R350. -/
def Chip.consider (c : Chip) (q : Squad) : Consider :=
  if c.held q then .no
  else match q.deferred with
    | some d => if q.restart || q.pick.isSome then .trap (c.deferredTrap q d) else .no
    | none => match q.pick with
      | none => .no
      | some p =>
        if p.addr % 8 ≠ 0 ∨ 2 ^ 57 ≤ p.addr then
          .trap (c.trapAtStart q p 0 (if p.active &&& q.byTransfer ≠ 0 then { cause := 3, det := p.addr } else accessFault 0 p.addr))
        else match c.fetchWord q.place.core q.exe.ctx p.addr with
          | .error (.absent page) => if c.fetchHeld q.place.core q.exe.ctx page then .no else .note (c.fetchFault q page)
          | .error (.access r) => .trap (c.trapAtStart q p 0 (accessFault r p.addr))
          | .ok hdr =>
            if !headerOk hdr.toNat q.exe.declared then .trap (c.trapAtStart q p hdr (q.headerTrap p hdr))
            else c.considerPoised q p hdr

/-- Whether a squad can start now, and to what chip. -/
def Chip.startOf (c : Chip) (q : Squad) : Option Chip :=
  match c.consider q with
  | .trap d => some d
  | .go d => some d
  | _ => none

/-- Whether squad a goes before squad b (R344): overdue first by age, then context priority, age and slot. -/
def Chip.before (c : Chip) (a b : Squad) : Bool :=
  let overdue := fun (q : Squad) => decide (32 ≤ q.age)
  if overdue a || overdue b then (if overdue a != overdue b then overdue a else decide (b.age < a.age) || (a.age == b.age && decide (a.place.slot < b.place.slot)))
  else
    let pa := c.prio a.exe.ctx
    let pb := c.prio b.exe.ctx
    decide (pb < pa) || (pa == pb && (decide (b.age < a.age) || (a.age == b.age && decide (a.place.slot < b.place.slot))))

/-- The best of some candidates. -/
def Chip.bestOf (c : Chip) : List Squad → Option Squad
  | [] => none
  | q :: qs => match c.bestOf qs with
    | none => some q
    | some p => if c.before q p then some q else some p

/-- Whether a squad has its bench: no squad of the bench that is there has started a clause since and not ended it (R82). -/
def Chip.hasBench (c : Chip) (q : Squad) : Bool :=
  !(c.onBench q.place.core q.place.bench).any fun x => x.uid != q.uid && x.exe.inClause && x.evicted.isNone && decide (q.lastIssue < x.lastIssue)

/-- CLAUSE_START: notes are kept for squads that cannot start, then the best candidate starts its clause and the other candidates
age (R344). The bench starts nothing while one of its squads is in a clause, be it stalled there, unless that squad has been evicted (R82, R163).
(DEDUCED, log 9.) -/
def Chip.clauseStart (c : Chip) (n b : Nat) : Chip :=
  if !(c.bench n b).enabled || (c.onBench n b).any fun q => q.exe.inClause && q.evicted.isNone then c
  else
    let c := (c.onBench n b).foldl (fun c q => match c.consider q with
      | .note d => d
      | _ => c) c
    let cands := (c.onBench n b).filter fun q => (c.startOf q).isSome
    match c.bestOf cands with
    | none => c
    | some q =>
      let older := fun (x : Squad) => if cands.any (fun y => y.uid == x.uid) ∧ x.uid ≠ q.uid then { x with age := x.age + 1 } else x
      let c := { c with squads := c.squads.map older }
      match c.squad? q.uid with
      | some q => (c.startOf q).getD c
      | none => c

/-- CLAUSE_START. -/
def execClauseStart (core bench : Nat) := fun (s : State) => onChip s (s.chip.clauseStart core bench)

/-! ### Bins (R33) -/

/-- SPAWN_BIN_TIMER_EXPIRY: a bin forms a squad of the threads it holds. -/
def execSpawnBinTimerExpiry (core bin : Nat) := fun (s : State) =>
  onChip s (match (s.chip.core core).bins[bin]? with
    | some b => s.chip.formBin core b
    | none => s.chip)

/-! ### Requests (R47, R161 to R164, R180) -/

/-- REQUEST_PERFORM: the lanes of a mask reach their homes and are performed there; or two accesses that a router merged. -/
def Chip.perform47 (c : Chip) (id lanes : Nat) (fromL1 : Bool) (merge : Option (Nat × Nat)) : Chip :=
  match merge with
  | some (id2, lane2) => ((c.performMerged id ((lowestLane (BitVec.ofNat 32 lanes)).getD 0) id2 lane2).settleReq id).settleReq id2
  | none => (c.performLanes id fromL1 (lanesOf (BitVec.ofNat 32 lanes))).settleReq id

/-- REQUEST_PERFORM. -/
def execRequestPerform (id lanes : Nat) (fromL1 : Bool) (merge : Option (Nat × Nat)) := fun (s : State) =>
  onChip s (s.chip.perform47 id lanes fromL1 merge)

/-- ESCORT_LANDING. -/
def execEscortLanding (id : Nat) := fun (s : State) => onChip s (s.chip.landReq id)

/-- LANDING_BUFFER_MOVE. -/
def execLandingBufferMove (core bench : Nat) := fun (s : State) =>
  onChip s (s.chip.moveLanded core bench (s.chip.bench core bench).landing.length)

/-- EVICTION: a reply that cannot land makes the context engine evict a squad of the bench (R163). -/
def Chip.eviction (c : Chip) (n b : Nat) : Chip :=
  match c.stuckReply n b with
  | none => c
  | some own => match c.victim n b own with
    | some q => c.evict q
    | none => c

/-- EVICTION. -/
def execEviction (core bench : Nat) := fun (s : State) => onChip s (s.chip.eviction core bench)

/-- REHOUSING. -/
def execRehousing (core bench : Nat) := fun (s : State) =>
  onChip s (match s.chip.firstEvicted core bench with
    | some q => s.chip.rehouse q
    | none => s.chip)

/-! ### Unsupported atomics (R181) -/

/-- Service a lane of an unsupported atomic here: under its lock, one load and one store at system scope (R181). -/
def Chip.serviceLocal (c : Chip) (r : Request) (a : Access) : Chip :=
  let locked := match a.locs with
    | .host pa :: _ => c.locks.contains (lockOf pa)
    | .dev pa :: _ => c.locks.contains (lockOf pa)
    | _ => false
  if locked || !c.canPerform r { a with unsup := false } then c else c.performWhole { r with scope := 4 } { a with unsup := false } false

/-- Begin the service of a lane whose location is a peer's: the read packet leaves under lock k, which waits for the atomics of that k already on
their way (R181, R315). -/
def Chip.servicePeer (c : Chip) (r : Request) (a : Access) (p : FabAddr) : Chip :=
  let k := lockOf p.off
  let going := c.fab.out.any fun o => o.owner == .service r.id a.lane
  let busy := c.fab.out.any fun o => o.sent.isSome && o.pkt.opcode == 2 && lockOf o.pkt.offset.toNat == k
  if c.locks.contains k || going || busy then c
  else
    let die := c.die r.core
    let uid := match r.agent with
      | .squad u => u
      | .thread _ _ => 0
    let c := { c.nextMessage die with locks := k :: c.locks }
    c.sendRequest die (c.fab.header die 0 0 false p r.size []) (.service r.id a.lane) r.ctx [uid]

/-- Serve the lanes of a list in order, as far as each is done; a peer's lane is done when its second packet is answered (R181). -/
def Chip.serviceLanes (c : Chip) (id : Nat) : List Nat → Chip
  | [] => c
  | l :: ls => match (c.request? id).bind fun r => (r.accs.find? fun (a : Access) => a.lane == l).map fun a => (r, a) with
    | none => c
    | some (r, a) =>
      if !a.unsup || !a.open_ then c.serviceLanes id ls
      else if a.status ≠ .waiting then c
      else match a.fab with
        | some p => c.servicePeer r a p
        | none =>
          let d := c.serviceLocal r a
          if ((d.request? id).elim false fun r => r.accs.any fun a => a.lane == l && a.open_) then d else d.serviceLanes id ls

/-- UNSUPPORTED_ATOMIC_SERVICE: the trapping lanes in ascending order. -/
def Chip.serviceAtomic (c : Chip) (id : Nat) : Chip :=
  match c.request? id with
  | none => c
  | some r => (c.serviceLanes id (r.accs.map (·.lane))).settleReq id

/-- UNSUPPORTED_ATOMIC_SERVICE. -/
def execUnsupportedAtomicService (id : Nat) := fun (s : State) => onChip s (s.chip.serviceAtomic id)

/-! ### Page faults and regions (R174, R179) -/

/-- PAGE_FAULT_RECORD_APPEND: the oldest fault record that waits for room. -/
def Chip.appendNext (c : Chip) (x : Nat) : Chip :=
  match (c.ctx? x).bind fun k => k.faults.find? fun f => !f.appended with
  | some f => c.appendFault x f.num
  | none => c

/-- PAGE_FAULT_RECORD_APPEND. -/
def execPageFaultRecordAppend (ctx : Nat) := fun (s : State) => onChip s (s.chip.appendNext ctx)

/-- REGION_RESTART: with the fault resolved and every escort landed, the lanes of the region mask restart at the restart point, with
an empty buffer (R174). -/
def Chip.regionRestart (c : Chip) (uid : Nat) : Chip :=
  match c.squad? uid with
  | none => c
  | some q => match q.region with
    | none => c
    | some r =>
      let out := c.requests.any fun x => x.agent == .squad uid && x.escorted
      if !q.restart || q.parked.isSome || q.deferred.isSome || out then c
      else
        let m := r.mask &&& q.liveMask
        let q := ((q.setPc m r.hdrAt r.pos false true).setStates m .eligible).dropLatch m
        c.setSquad { q with restart := false, region := some { r with buf := [] }, waitTested := false, waitExpired := false, waitMet := none }

/-- REGION_RESTART. -/
def execRegionRestart (uid : Nat) := fun (s : State) => onChip s (s.chip.regionRestart uid)

/-! ### Barrier updates (R17, R195) -/

/-- BARRIER_UPDATE: the home applies an update once the accesses it releases are performed; its token is the phase before it. -/
def Chip.barrierUpdate (c : Chip) (id : Nat) : Chip :=
  match c.updates.find? fun u => u.id == id with
  | none => c
  | some u =>
    if (u.uid.map fun k => c.earlier (.squad k) u.after u.lanes).getD false || c.inCopy u.locs then c
    else
      let phase := (c.barObj u.locs).phase
      let c := { (if u.uid.isSome then c.updateObj u.locs u.arrive u.add else c.countObj u.locs u.arrive u.add) with updates := c.updates.filter fun x => x.id != id }
      match u.uid with
      | none => c.settleGet u.cmd
      | some k => (c.l1Sync (((c.squad? k).map (·.place.core)).getD 0) u.ctx u.va u.locs).modSquad k fun q =>
          let q := q.lower u.pennant
          match u.token with
          | some t => { q with exe := q.exe.putUni false t phase }
          | none => q

/-- BARRIER_UPDATE. -/
def execBarrierUpdate (id : Nat) := fun (s : State) => onChip s (s.chip.barrierUpdate id)

/-! ### External waits (R200, R201) -/

/-- The squad as it stands at the clause it waits to start, with the first instruction of it. -/
def Chip.waitingAt (c : Chip) (q : Squad) : Option (Squad × Instr) :=
  if q.exe.inClause then none
  else q.pick.bind fun p => match c.fetchWord q.place.core q.exe.ctx p.addr, c.fetchWord q.place.core q.exe.ctx (p.addr + 8) with
    | .ok h, .ok w => (decode w).toOption.map fun i => (q.poise p h, i)
    | _, _ => none

/-- EXTERNAL_WAIT_EXPIRY: the bound of an external wait whose first test has failed counts out. -/
def Chip.waitExpiry (c : Chip) (uid : Nat) : Chip :=
  match c.squad? uid with
  | none => c
  | some q =>
    let bound := ((c.ctx? q.exe.ctx).map (·.extwait)).getD 0
    let ext := match c.waitingAt q with
      | some (p, i) => match c.testWait p i with
        | .unmet e => e
        | _ => false
      | none => false
    if q.waitTested && ext && bound != 0 then c.mark q fun q => { q with waitExpired := true } else c

/-- EXTERNAL_WAIT_EXPIRY. -/
def execExternalWaitExpiry (uid : Nat) := fun (s : State) => onChip s (s.chip.waitExpiry uid)

/-- WEXT_RETEST: a squad that waits at `wext` tests its condition again. -/
def Chip.wextRetest (c : Chip) (uid : Nat) : Chip :=
  match c.squad? uid with
  | none => c
  | some q => match c.waitingAt q with
    | some (p, .wext f sc cond) =>
      match c.testWext p f sc cond with
      | .met sc => if q.waitTested then c.mark q fun q => { q with waitMet := some sc } else c
      | _ => c
    | _ => c

/-- WEXT_RETEST. -/
def execWextRetest (uid : Nat) := fun (s : State) => onChip s (s.chip.wextRetest uid)

end Sys2Proof.Machine
end

