-- ==== Sys2Proof/Machine/Retirement.lean ====
section
/-! DEFINITION. How squads, musters and launches end: retirement of squads (R37, R246), exit records (R37), retirement of musters and
the completion of their launch (R38, R370). -/

namespace Sys2Proof.Machine

/-! ### Launches (R38, R370) -/

/-- Tier reports of the ranges that contradict their hints (R370). How many DRAM accesses a launch makes to a range rests on what the caches hold: n is
a free value of at most two for each byte accessed, a fill and a write-back; k is a free value no larger than n, and 0 where every member
has stayed in its fast slot. (DESIGN CHOICE, log 65.) -/
def Chip.tierReports (c : Chip) (l : Launch) : Chip :=
  (l.hints.mapIdx fun i h => (i, h)).foldl (fun c x =>
    if (x.2.hint = 1 ∨ x.2.hint = 3) ∧ 2048 ≤ x.2.bytes then
      let v := c.free
      let c := v.2
      let n := min (v.1.toNat / 2 ^ 32 % (2 * x.2.bytes + 1)) (2 ^ 32 - 1)
      let k := if x.2.slow then bits v.1.toNat 31 0 % (n + 1) else 0
      if 4096 ≤ n ∧ ((x.2.hint = 3 ∧ n < 4 * k) ∨ (x.2.hint = 1 ∧ 16 * k < n)) then
        c.errAppend l.ctx (fld 192 x.2.base + fld 160 x.2.len + fld 96 n + fld 64 k + fld 48 x.1 + fld 8 x.2.hint + 0x28)
      else c
    else c) c

/-- Squads of a launch that satisfy p on their muster slots, on a bench or saved. -/
def Chip.anySquad (c : Chip) (launch : Nat) (p : List (Option Nat) → Bool) : Bool :=
  (c.squads.any fun q => q.launch == launch && p q.exe.mslots) ||
    c.coreSets.any fun s => s.squads.any fun q => q.launch == launch && p (c.savedSlots s.ctx q)

/-- A launch completes once its musters and squads have retired and nothing it spawned is left (R38). -/
def Chip.settleLaunch (c : Chip) (id : Nat) : Chip :=
  match c.launch? id with
  | none => c
  | some l =>
    if l.retired = l.squads ∧ (l.musters.all fun m => m.retired) ∧ !(c.anySquad id fun _ => true) ∧ !(c.formed.any fun f => f.launch == id) ∧
        !(c.cores.any fun k => k.bins.any fun b => b.launch == id) then
      let c := (c.tierReports l).endCmd id 0 0
      { c with launches := c.launches.filter fun x => x.id != id }
    else c

/-! ### Squads (R37) -/

/-- Whether a squad holds nothing more: every lane has exited, every pennant has fallen, and its stores and commands are performed or
numbered. -/
def Chip.mayRetire (c : Chip) (q : Squad) : Bool :=
  q.st.all (· == .exited) && q.pennants.all (· == 0) && !q.exe.inClause && !q.dead && !c.unsettled q && !c.regionHeld q && q.evicted.isNone &&
    !(c.requests.any fun r => r.agent == .squad q.uid) && !(c.updates.any fun u => u.uid == some q.uid) &&
    !(c.exitRecords.any fun e => e.id == q.uid) &&
    !((c.benchOf q).drains.any fun d => q.handles.contains (some d.first))

/-- The report of a spawned squad with switched-off lanes (R37, R327): Address its entry, bits 127:96 of the record its mask. The
cause and the rest of Number are free values. -/
def Chip.spawnReport (c : Chip) (q : Squad) : Chip :=
  if q.scfMask = 0 then c
  else
    let v := c.free
    v.2.looseRecord q.exe.ctx 0x20 (bits v.1.toNat 7 0) q.place.core (fld 32 q.scfMask.toNat + bits v.1.toNat 63 32) q.entry

/-- SQUAD_RETIREMENT: banks are unmapped and freed; a spawned squad frees its slot, a launch squad first writes its exit record. -/
def Chip.retire (c : Chip) (uid : Nat) : Chip :=
  match c.squad? uid with
  | none => c
  | some q =>
    if !c.mayRetire q then (if q.st.all (· == .exited) && c.regionHeld q then c.commitRegion uid else c)
    else
      let c := (c.commitRegion uid).retireBanks q
      if q.spawned then Chip.settleLaunch { c.spawnReport q with squads := c.squads.filter fun x => x.uid != uid } q.launch
      else match c.launch? q.launch with
        | none => { c with squads := c.squads.filter fun x => x.uid != uid }
        | some l =>
          let e : ExitRecord :=
            { id := uid, ctx := l.ctx, core := q.place.core, addr := l.exits + 16 * q.number, number := l.number
              value := exitValue q.scfMask q.number q.place.core q.place.bench q.place.slot (if q.scfMask = 0 then 0 else 1) }
          { c.modSquad uid fun q => { q with handles := List.replicate 16 none } with exitRecords := c.exitRecords ++ [e] }

/-- SQUAD_RETIREMENT. -/
def execSquadRetirement (uid : Nat) := fun (s : State) => onChip s (s.chip.retire uid)

/-! ### Exit records (R37) -/

/-- The slot of a launch squad is freed after its exit record (R37). -/
def Chip.leaveBench (c : Chip) (uid : Nat) : Chip :=
  match c.squad? uid with
  | none => c
  | some q =>
    ({ c with squads := c.squads.filter fun x => x.uid != uid }.modLaunch q.launch fun l => { l with retired := l.retired + 1 }).settleLaunch q.launch

/-- EXIT_RECORD_WRITE: the record is written, waits for its page or for a row that is being copied, or is reported as not written (R37, R381). -/
def Chip.exitWrite (c : Chip) (id : Nat) : Chip :=
  match c.exitRecords.find? fun e => e.id == id with
  | none => c
  | some e =>
    let core := e.core
    let finish := fun (c : Chip) => ({ c with exitRecords := c.exitRecords.filter fun x => x.id != id }.leaveBench id).settleTeardown e.ctx
    let lost := fun (_ : Unit) => finish (c.looseRecord e.ctx 0x2A 5 core e.number e.addr)
    match c.xlFor id core e.ctx { w := true } e.addr 16 with
    | .ok ls => if c.inCopy ls then c else finish (c.storeAt core e.ctx e.addr ls (leBytes 16 e.value))
    | .error (.absent p) => c.engineFault e.ctx p core id { w := true }
    | .error (.access _) => lost ()

/-- EXIT_RECORD_WRITE. -/
def execExitRecordWrite (id : Nat) := fun (s : State) => onChip s (s.chip.exitWrite id)

/-! ### Musters (R38) -/

/-- Whether everything that keeps a muster of a launch has ended (R38). -/
def Chip.musterOver (c : Chip) (l : Launch) (m : Muster) : Bool :=
  m.namesNone ||
    (((List.range l.squads).all fun i => !m.has i || l.dispatched.contains i) &&
      (m.kind != 2 || m.spawnedInto) &&
      !(c.anySquad l.id fun ms => ms.contains (some m.idx)) &&
      !(c.formed.any fun f => f.launch == l.id && f.muster == some m.idx) &&
      !(c.cores.any fun k => k.bins.any fun b => b.launch == l.id && b.muster == some m.idx) &&
      !(c.coreSets.any fun s => s.musters.any fun r => r.1 == l.id && r.2.1 == m.idx) &&
      !(c.barInits.any fun b => b.launch == l.id && b.muster == m.idx) &&
      m.cores.all fun n =>
        ((List.range 64).all fun k =>
          let s := (c.core n).slots.getD k {}
          !s.owners.contains (l.id, m.idx) || (s.done == s.issue && !(c.fab.cmds.any fun f => f.kind == 1 && f.core == n && f.slot == k))))

/-- Free what a retired muster holds on a core: its window, its slots, its queues (R38, R217). -/
def Core.freeMuster (k : Core) (launch idx : Nat) : Core :=
  { k with
    windows := k.windows.filter fun w => !(w.launch == launch && w.muster == idx)
    slots := k.slots.map fun s => s.release fun o => o == (launch, idx)
    queues := k.queues.map fun q => if q.state != .free && q.launch == launch && q.muster == idx then q.freed else q }

/-- MUSTER_RETIREMENT. -/
def Chip.musterRetire (c : Chip) (launch idx : Nat) : Chip :=
  match c.launch? launch, c.muster? launch idx with
  | some l, some m =>
    if m.retired || !c.musterOver l m then c
    else
      let c := { c with
        cores := c.cores.map fun (k : Core) => k.freeMuster launch idx
        ringRounds := c.ringRounds.filter fun r => !(r.1 == launch && r.2.1 == idx) }
      (c.modMuster launch idx fun m => { m with retired := true, cores := [] }).settleLaunch launch
  | _, _ => c

/-- MUSTER_RETIREMENT. -/
def execMusterRetirement (launch muster : Nat) := fun (s : State) => onChip s (s.chip.musterRetire launch muster)

end Sys2Proof.Machine
end

