-- ==== Sys2Proof/Machine/Commands.lean ====
section
/-! DEFINITION. The distributor's commands up to their start: acceptance and the journal (R333 to R337, R340), dependences and start
(R339), and the commands other than launches and contexts: code loads (R95, R335), views (R43), group configuration (R338), the
invalidations and queue configuration (R335). -/

namespace Sys2Proof.Machine

/-! ### Acceptance (R332 to R337, R340) -/

/-- Whether a region can be read: it exists, no part of it waits for its memory key, and none of its data is lost (R366, R377, R383). -/
def Chip.regionReadable (c : Chip) (base len : Nat) : Bool :=
  c.regionExists base len && !(c.locked.any fun r => overlap r.1 (r.2 - r.1) base len) &&
    !c.bad.any fun e => e.2 && decide (base ≤ e.1) && decide (e.1 < base + len)

/-- A command by name. -/
def Chip.cmd? (c : Chip) (id : Nat) : Option Cmd := c.cmds.find? fun k => k.id == id

/-- The record at the head of a queue (R332). -/
def Chip.headRecord (c : Chip) (i : Nat) : Nat := c.dev.le (c.cmdWindow + 8192 * i + 128 * ((c.queues.getD i {}).expect % 64)) 128

/-- Whether the head of a queue is posted (R333): a record that a disable has discarded is not (R335), nor one that cannot be read (R377, R383).
(DEDUCED, log 45.) -/
def Chip.posted (c : Chip) (i : Nat) : Bool :=
  let q := c.queues.getD i {}
  q.enabled && bits (c.headRecord i) 63 32 == q.expect % 2 ^ 32 && !q.dead.contains (q.expect % 64) &&
    c.regionReadable (c.cmdWindow + 8192 * i + 128 * (q.expect % 64)) 128

/-- Whether queue a is served before queue b (R337): priority, then the order after the last queue served. -/
def Chip.servedBefore (c : Chip) (a b : Nat) : Bool :=
  let pa := (c.queues.getD a {}).prio
  let pb := (c.queues.getD b {}).prio
  let turn := fun i => (i + 63 - c.served) % 64
  decide (pb < pa) || (pa == pb && decide (turn a < turn b))

/-- The queue whose head is accepted next. -/
def Chip.nextQueue (c : Chip) : Option Nat :=
  ((List.range 64).filter c.posted).foldl (fun best i => match best with
    | none => some i
    | some b => if c.servedBefore i b then some i else some b) none

/-- Whether the journal takes an entry: the ring has room, and the slot's last command has ended (R340). -/
def Chip.journalRoom (c : Chip) : Bool :=
  let w := c.dev.le c.journal 8
  c.queueRoom c.journal c.journalC && c.cmds.all fun k => k.entry % 2 ^ c.journalC != w % 2 ^ c.journalC

/-- Reserved bits of the header (R334). -/
def headerReserved (r : Nat) : Bool := bits r 127 111 != 0 || bits r 87 64 != 0 || bits r 17 0 != 0

/-- Reserved bits of a payload: those no row of R335, R336 or R352 names. -/
def payloadReserved (r : Nat) : Bool :=
  match bits r 31 24 with
  | 0x01 => bits r 1023 712 != 0
  | 0x02 => bits r 1023 544 != 0
  | 0x03 => bits r 1023 768 != 0 || bits r 511 264 != 0
  | 0x04 => bits r 1023 330 != 0
  | 0x05 => bits r 1023 256 != 0
  | 0x06 => bits r 1023 384 != 0
  | 0x07 => bits r 1023 320 != 0
  | 0x08 => bits r 1023 256 != 0
  | 0x09 => bits r 1023 274 != 0 || bits r 263 262 != 0
  | _ => bits r 1023 321 != 0

/-- The cause with which a record fails at its acceptance; 0 where it is accepted (R334, R335). (DEDUCED, log 57.) -/
def recordCause (q : CmdQueue) (i r : Nat) : Nat :=
  if headerReserved r then 0x01
  else if bits r 31 24 = 0 ∨ 0x0A < bits r 31 24 then 0x09
  else if i ≠ 0 ∧ (bits r 31 24 = 0x09 ∨ bits r 23 18 ≠ q.ctx) then 0x0A
  else if payloadReserved r then 0x01
  else 0

/-- Accept the head of a queue: number, journal entry, write index, and the checks of the record (R333, R337, R340). -/
def Chip.acceptFrom (c : Chip) (i : Nat) : Chip :=
  let q := c.queues.getD i {}
  let r := c.headRecord i
  let w := c.dev.le c.journal 8
  let tl := c.timelines.getD (bits r 109 104) {}
  let k : Cmd := { id := c.nextId, queue := i, record := r, entry := w, number := if bit r 110 then tl.issue + 1 else 0 }
  let c := { c with
    nextId := c.nextId + 1, served := i, cmds := c.cmds ++ [k]
    queues := modAt c.queues i fun q => { q with expect := q.expect + 1 }
    timelines := if bit r 110 then modAt c.timelines (bits r 109 104) fun t => { t with issue := t.issue + 1 } else c.timelines }
  let c := (c.journalWrite k 0 0 0).devPut c.journal 8 (w + 1)
  let cause := recordCause q i r
  if cause = 0 then c else c.endCmd k.id cause 0

/-- COMMAND_ACCEPTANCE. -/
def execCommandAcceptance := fun (s : State) =>
  onChip s (if s.chip.running && s.chip.journalRoom then match s.chip.nextQueue with
      | some i => s.chip.acceptFrom i
      | none => s.chip
    else s.chip)

/-! ### Waits and start (R339) -/

/-- A valid wait of a command: timeline, value, inherit. -/
def Cmd.waits (k : Cmd) : List (Nat × Nat × Bool) :=
  (if bit k.record 95 then [(bits k.record 93 88, bits k.record 191 128, bit k.record 94)] else []) ++
    (if bit k.record 103 then [(bits k.record 101 96, bits k.record 255 192, bit k.record 102)] else [])

/-- Whether a wait is satisfied. -/
def Chip.waitMet (c : Chip) (w : Nat × Nat × Bool) : Bool := decide (w.2.1 ≤ (c.timelines.getD w.1 {}).done)

/-- The earlier failure that a command inherits, if it does (R339). -/
def Chip.inherits (c : Chip) (k : Cmd) : Option Nat :=
  k.waits.findSome? fun w =>
    let t := c.timelines.getD w.1 {}
    if c.waitMet w && w.2.2 && t.failNo != 0 && decide (t.failNo ≤ w.2.1) then some t.failNo else none

/-- Whether a command may start: its waits are satisfied and the earlier commands of its queue have started (R339). -/
def Chip.mayStart (c : Chip) (k : Cmd) : Bool :=
  !k.started && k.waits.all c.waitMet && c.cmds.all fun j => j.queue != k.queue || decide (k.id ≤ j.id) || j.started

/-- Whether a type needs the context to exist (R335). -/
def needsCtx (t : Nat) : Bool := [0x01, 0x02, 0x03, 0x05, 0x06, 0x0A].contains t

/-- Whether the device is quiescent (R298). -/
def Chip.quiescent (c : Chip) : Bool :=
  c.fab.out.isEmpty && c.fab.back.isEmpty && c.fab.partials.isEmpty && c.cores.all fun k => k.wc.isEmpty

/-- Whether a teardown of the context waits for its exposure entries (R353). (DEDUCED, log 63.) -/
def Chip.closing (c : Chip) (x : Nat) : Bool := ((c.ctx? x).map fun k => k.closing.isSome).getD false

/-- A command starts; a context create reads its record then, once (R352). -/
def Chip.begin (c : Chip) (k : Cmd) : Chip :=
  let c := c.startCmd k.id
  if k.typ = 0x07 then { c with cmds := c.cmds.map fun j => if j.id = k.id then { j with data := c.dev.le (bits k.record 319 256) 128 } else j } else c

/-- COMMAND_START: a command fails by inheritance, fails for want of its context, or starts. A launch starts with its first unit. While a teardown
of the context goes on, only a page-fault resolution does not wait for its end: its exit records may wait for a page. (DEDUCED, log 58.) -/
def Chip.cmdStart (c : Chip) (id : Nat) : Chip :=
  match c.cmd? id with
  | none => c
  | some k =>
    if k.started then c
    else match c.inherits k with
      | some n => c.endCmd id 0x08 n
      | none =>
        if !c.mayStart k || (needsCtx k.typ && k.typ != 0x0A && c.closing k.ctx) then c
        else if needsCtx k.typ && (c.ctx? k.ctx).isNone then c.endCmd id 0x04 0
        else if k.typ = 0x01 ∨ (k.typ = 0x04 ∧ !c.quiescent) then c
        else c.begin k

/-- COMMAND_START. -/
def execCommandStart (id : Nat) := fun (s : State) => onChip s (s.chip.cmdStart id)

/-- A started command of a type. -/
def Chip.begun? (c : Chip) (id typ : Nat) : Option Cmd := (c.cmd? id).filter fun k => k.started && k.typ == typ

/-- A field of a command's record, bits hi:lo. -/
def Cmd.fld (k : Cmd) (hi lo : Nat) : Nat := bits k.record hi lo

/-- Bytes of a context's space as the distributor reads them. -/
def Chip.distRead (c : Chip) (ctx va n : Nat) : Option Nat := (c.walkOnly.readVirtual 0 ctx va n).toOption

/-! ### Code load (R95, R335) -/

/-- Width of a place field (R94). -/
def placeWidth (kind : Nat) : Nat := if kind = 1 then 7 else if kind = 2 then 10 else 12

/-- Number of enabled cores. -/
def Chip.coreCount (c : Chip) : Nat := (c.sites.filter Option.isSome).length

/-- Working channels of a stack, by the kind-4 codes of the retired ones (R95). -/
def workingChannels (retired : List Nat) (stack : Nat) : List Nat := (List.range 32).filter fun ch => !retired.contains (fld 5 stack + ch)

/-- The physical place of a logical value (R94, R95); none beyond the part's enabled units. Logical stacks are the fitted ones in ascending physical
order. -/
def Chip.placeOf (c : Chip) (retired : List Nat) (kind v : Nat) : Option Nat :=
  let site := fun n => if n < c.coreCount then (c.sites[n]?).join else none
  if kind = 1 then site v
  else if kind = 2 then if 5 < v % 8 then none else (site (v / 8)).map fun p => fld 3 p + v % 8
  else match c.fitted[v / 512]? with
    | none => none
    | some stack => (workingChannels retired stack)[bits v 8 4]?.map fun ch => fld 9 stack + fld 4 ch + v % 16

/-- The cause with which a relocation record fails; none where it holds (R95). -/
def Chip.relocCause (c : Chip) (retired : List Nat) (len w : Nat) : Option Nat :=
  let kind := bits w 25 22
  let low := bits w 31 26
  if kind = 0 ∨ 3 < kind ∨ 49 < low + placeWidth kind ∨ len / 8 ≤ bits w 63 32 then some 0x01
  else if (c.placeOf retired kind (bits w 21 0)).isNone then some 0x07
  else none

/-- Rewrite one place field of an image (R95). -/
def Chip.relocate (c : Chip) (retired : List Nat) (img : Mem) (w : Nat) : Mem :=
  let at_ := 8 * bits w 63 32
  let low := bits w 31 26
  let n := placeWidth (bits w 25 22)
  let old := img.le at_ 8
  let v := (c.placeOf retired (bits w 25 22) (bits w 21 0)).getD 0
  img.setLe at_ 8 (old - fld low (bits old (low + n - 1) low) + fld low v)

/-- Device address of the level-4 entry of a page, if it is present and well formed, and every table on the way can be read (R377, R383). -/
def leafFrom (c : Chip) (va : Nat) : List Nat → Nat → Option Nat
  | [], _ => none
  | sh :: rest, table =>
    let i := (va >>> sh) % (if sh = 46 then 2048 else 1024)
    let e := c.dev.le (table + 8 * i) 8
    if !c.exists (table + 8 * i) || c.isLocked (table + 8 * i) || c.anyBadAt (table + 8 * i) 8 || !bit e 0 || entryReserved e then none
    else match rest with
      | [] => if bit e 1 then none else some (table + 8 * i)
      | _ :: _ => if !bit e 1 || bit e 7 || bit e 8 then none else leafFrom c va rest (bits e 51 16 * 65536)

/-- The level-4 entry of a page of a context. -/
def Chip.leafAt (c : Chip) (ctx va : Nat) : Option Nat := (c.ctx? ctx).bind fun x => leafFrom c va [46, 36, 26, 16] x.level1

/-- Pages that a range of bytes touches. -/
def pagesOf (va len : Nat) : List Nat :=
  if len = 0 then [] else (List.range ((va % 65536 + len - 1) / 65536 + 1)).map fun k => va / 65536 * 65536 + 65536 * k

/-- Rights of a page of a loaded image (R335): Read, with Execute below the data offset and Write from it on. -/
def loadRights (load len off page : Nat) : Nat :=
  let lo := max load page
  let hi := min (load + len) (page + 65536)
  1 + (if load + off < hi then 2 else 0) + (if lo < load + off then 4 else 0)

/-- Whether the frame of a page that a code load writes takes its bytes: it lies in host memory, or in device memory whose key is released (R377). -/
def Chip.frameOpen (c : Chip) (leaf : Nat) : Bool := let e := c.dev.le leaf 8; bit e 8 || !c.isLocked (bits e 51 16 * 65536)

/-- Whether an earlier code load of the context is under way: the later one overwrites what it writes (R391). -/
def Chip.loadAhead (c : Chip) (k : Cmd) : Bool := c.cmds.any fun j => j.typ == 0x02 && j.ctx == k.ctx && j.started && decide (j.id < k.id)

/-- CODE_LOAD: the relocation records are checked first and then the pages; then the image is written and the rights are set. (DEDUCED, log 59.) -/
def Chip.codeLoad (c : Chip) (retired : List Nat) (id : Nat) : Chip :=
  match c.begun? id 0x02 with
  | none => c
  | some k =>
    let img := k.fld 319 256
    let load := k.fld 383 320
    let len := k.fld 415 384
    let n := k.fld 447 416
    let tab := k.fld 511 448
    let off := k.fld 543 512
    let pages := pagesOf load len
    if c.loadAhead k then c
    else if !c.regionReadable img len || !c.regionReadable tab (8 * n) || decide (2 ^ 56 < load + len) then c.endCmd id 0x04 0
    else
      let recs := (List.range n).map fun i => c.dev.le (tab + 8 * i) 8
      match (recs.mapIdx fun i w => (i, w)).findSome? fun x => (c.relocCause retired len x.2).map fun cause => (x.1, cause) with
      | some (i, cause) => c.endCmd id cause i
      | none =>
        if pages.any fun p => !(c.leafAt k.ctx p).any c.frameOpen then c.endCmd id 0x04 0
        else
          let bytes := recs.foldl (fun m w => c.relocate retired m w) (Mem.setBytes [] 0 (c.dev.bytes img len))
          let c := pages.foldl (fun c p =>
            match c.leafAt k.ctx p with
            | none => c
            | some a =>
              let e := c.dev.le a 8
              let frame := bits e 51 16 * 65536
              let lo := max load p
              let hi := min (load + len) (p + 65536)
              let bs := bytes.bytes (lo - load) (hi - lo)
              let c := if bit e 8 then { c with host := c.host.setBytes (frame + lo - p) bs } else c.devWrite (frame + lo - p) bs
              c.devPut a 8 (e - fld 2 (bits e 4 2) + fld 2 (loadRights load len off p))) c
          c.endCmd id 0 0

/-- CODE_LOAD. -/
def execCodeLoad (id : Nat) := fun (s : State) => onChip s (s.chip.codeLoad s.chip.retired id)

/-! ### View registration (R42, R43) -/

/-- The view that an entry describes (R42). -/
def View.ofEntry (idx e : Nat) : View :=
  { idx, baseTl := bits e 255 215 * 65536, baseCm := bits e 214 174 * 65536, baseRm := bits e 173 133 * 65536
    frame := bits e 132 108 * 65536, cols := 32 * (bits e 107 97 + 1), rows := 32 * (bits e 96 86 + 1), es := 2 ^ bits e 85 84 }

/-- Whether two views, or two windows of one, overlap. -/
def View.meets (v w : View) : Bool := v.windows.any fun a => w.windows.any fun b => overlap a.1 v.bytes b.1 w.bytes

/-- Whether the three windows of a view overlap each other. -/
def View.selfMeets (v : View) : Bool :=
  overlap v.baseRm v.bytes v.baseCm v.bytes || overlap v.baseRm v.bytes v.baseTl v.bytes || overlap v.baseCm v.bytes v.baseTl v.bytes

/-- The cause with which a registration fails; 0 where it holds (R43). -/
def Chip.viewCause (c : Chip) (x : Ctx) (idx e : Nat) : Nat :=
  let v := View.ofEntry idx e
  if bits e 82 0 ≠ 0 ∨ bits e 85 84 = 3 ∨ bit e 255 ∨ bit e 214 ∨ bit e 173 then 0x01
  else if !c.regionExists v.frame v.bytes then 0x04
  else if v.selfMeets || x.views.any fun w => w.idx != idx && v.meets w then 0x06
  else 0

/-- Whether an address lies in a window of a view. -/
def View.holds (v : View) (va : Nat) : Bool := v.windows.any fun w => decide (w.1 ≤ va) && decide (va < w.1 + v.bytes)

/-- Whether an access of the context that was translated in a set of addresses is still to be performed: a request, an update on its way to a barrier
object, or a store in the buffer of an open region. -/
def Chip.accessesIn (c : Chip) (x : Nat) (p : Nat → Bool) : Bool :=
  (c.requests.any fun r => r.ctx == x && !r.scratch && r.accs.any fun a => a.status == .waiting && a.fab.isNone && p a.va) ||
    (c.updates.any fun u => u.ctx == x && (u.locs.any fun l => l.devPa?.isSome) && p u.va) ||
    c.squads.any fun q => q.exe.ctx == x && q.region.elim false fun r => r.buf.any fun b => b.lanes.any fun y => p y.2.1

/-- VIEW_REGISTRATION: the entry changes once the accesses issued through its old contents have been performed; L1 lines of its old
windows are dropped. (DEDUCED, log 60.) -/
def Chip.viewReg (c : Chip) (id : Nat) : Chip :=
  match c.begun? id 0x03 with
  | none => c
  | some k => match c.ctx? k.ctx with
    | none => c
    | some x =>
      let idx := k.fld 263 256
      let e := k.fld 767 512
      let cause := if bit e 83 then c.viewCause x idx e else 0
      let old := fun va => x.views.any fun v => v.idx == idx && v.holds va
      if cause ≠ 0 then c.endCmd id cause 0
      else if c.accessesIn k.ctx old then c
      else
        let vs := (x.views.filter fun v => v.idx != idx) ++ (if bit e 83 then [View.ofEntry idx e] else [])
        ((c.l1Drop fun l => l.ctx == k.ctx && old l.va).modCtx k.ctx fun x => { x with views := vs }).endCmd id 0 0

/-- VIEW_REGISTRATION. -/
def execViewRegistration (id : Nat) := fun (s : State) => onChip s (s.chip.viewReg id)

/-! ### Group configuration (R298, R308, R338) -/

/-- The parameter record (R308). -/
def FabParams.ofRecord (r : Nat) : FabParams :=
  { timeout := bits r 127 112, target := bits r 111 96, step := bits r 95 88, gain := bits r 87 80, minimum := bits r 79 64
    maximum := bits r 63 48, parkDepth := bits r 47 40, wakeDepth := bits r 39 32, parkInterval := bits r 31 16 }

/-- A reduction group entry (R338); none where it is not valid. -/
def RedGroup.ofEntry (e : Nat) : Option RedGroup :=
  if bit e 0 then some
    { offset := bits e 103 64, key := bits e 63 48, index := bits e 47 40, rank := bits e 39 30, root := bits e 29 20, count := bits e 19 10 + 1 }
  else none

/-- GROUP_CONFIGURATION of a quiescent device. -/
def Chip.groupConfig (c : Chip) (id : Nat) : Chip :=
  match c.begun? id 0x04 with
  | none => c
  | some k =>
    let b := k.fld 319 256
    let es := (List.range 256).map fun i => c.dev.le (b + 0x1010 + 16 * i) 16
    if !c.quiescent then c
    else if !c.regionReadable b 0x2010 then c.endCmd id 0x04 0
    else if es.any fun e => bits e 127 104 != 0 || bits e 9 1 != 0 then c.endCmd id 0x01 0
    else
      let routes := (List.range 1024).foldl (fun (m : Sparse (BitVec 32)) i => m.set 0 i (BitVec.ofNat 32 (c.dev.le (b + 4 * i) 4) &&& ~~~c.retiredPorts)) []
      { c with fab := { c.fab with
          node := k.fld 329 320, routes, params := FabParams.ofRecord (c.dev.le (b + 0x1000) 16), groups := es.map RedGroup.ofEntry
          window := [], hold := [] } }.endCmd id 0 0

/-- GROUP_CONFIGURATION. -/
def execGroupConfiguration (id : Nat) := fun (s : State) => onChip s (s.chip.groupConfig id)

/-! ### Invalidations (R299, R335, R177) -/

/-- FABRIC_TABLE_INVALIDATION: the cached translations go; the command completes when no access that used one is under way. -/
def Chip.fabInval (c : Chip) (id : Nat) : Chip :=
  match c.begun? id 0x05 with
  | none => c
  | some k =>
    let c := { c with fab := { c.fab with tlb := c.fab.tlb.filter fun t => t.ctx != k.ctx } }
    let peers := c.requests.any fun r => r.ctx == k.ctx && r.accs.any fun a => a.open_ && a.fab.isSome
    let busy := peers || c.fab.out.any (fun o => o.ctx == k.ctx) || c.fab.cmds.any (fun f => f.ctx == k.ctx) ||
      c.cores.any fun n => n.wc.any fun w => w.ctxs.contains k.ctx
    if busy then c else c.endCmd id 0 0

/-- FABRIC_TABLE_INVALIDATION. -/
def execFabricTableInvalidation (id : Nat) := fun (s : State) => onChip s (s.chip.fabInval id)

/-- TLB_INVALIDATION: the cached translations go; the command completes when every access translated through one is performed. An entry covers up to
2 MiB, so the accesses are those of the range rounded out to such pages. (DESIGN CHOICE, log 46.) -/
def Chip.tlbInval (c : Chip) (id : Nat) : Chip :=
  match c.begun? id 0x06 with
  | none => c
  | some k =>
    let lo := k.fld 319 256
    let len := k.fld 383 320
    let c := c.dropTlb k.ctx fun t => t.within lo len
    let big := 2 ^ 21
    let from_ := lo / big * big
    if c.accessesIn k.ctx fun va => len == 0 || overlap from_ ((lo + len + big - 1) / big * big - from_) va 128 then c else c.endCmd id 0 0

/-- TLB_INVALIDATION. -/
def execTlbInvalidation (id : Nat) := fun (s : State) => onChip s (s.chip.tlbInval id)

/-! ### Queue configuration (R335) -/

/-- QUEUE_CONFIGURATION: queue 0 only changes its priority; a disable discards the records of every slot (R335). -/
def Chip.queueConfig (c : Chip) (id : Nat) : Chip :=
  match c.begun? id 0x09 with
  | none => c
  | some k =>
    let i := k.fld 261 256
    if i = 0 then
      if !bit k.record 267 then c.endCmd id 0x04 0
      else { c with queues := modAt c.queues 0 fun q => { q with prio := k.fld 266 264 } }.endCmd id 0 0
    else
      { c with queues := modAt c.queues i fun q =>
          { enabled := bit k.record 267, prio := k.fld 266 264, ctx := k.fld 273 268, dead := if bit k.record 267 then q.dead else List.range 64 } }.endCmd id 0 0

/-- QUEUE_CONFIGURATION. -/
def execQueueConfiguration (id : Nat) := fun (s : State) => onChip s (s.chip.queueConfig id)

end Sys2Proof.Machine
end

