-- ==== Sys2Proof/Machine/Launching.lean ====
section
/-! DEFINITION. The launch command (R336): its checks (R28, R29, R369) and the launch that waits for its first unit. -/

namespace Sys2Proof.Machine

/-! ### Payload (R336) -/

/-- Fields of a launch payload. -/
def Cmd.entryAt (k : Cmd) : Nat := k.fld 319 256
def Cmd.args (k : Cmd) : Nat := k.fld 383 320
def Cmd.exits (k : Cmd) : Nat := k.fld 447 384
def Cmd.musterTable (k : Cmd) : Nat := k.fld 511 448
def Cmd.stackBase (k : Cmd) : Nat := k.fld 575 512
def Cmd.squads (k : Cmd) : Nat := k.fld 599 576
def Cmd.musterCount (k : Cmd) : Nat := k.fld 607 600 + 1
def Cmd.stackKiB (k : Cmd) : Nat := k.fld 623 608
def Cmd.rangeList (k : Cmd) : Nat := k.fld 687 624
def Cmd.rangeCount (k : Cmd) : Nat := k.fld 703 688
def Cmd.blocks (k : Cmd) : Nat := k.fld 711 704

/-- Whether an address has bits 63:57 set. -/
def wideAddr (a : Nat) : Bool := decide (2 ^ 57 ≤ a)

/-- Whether the payload is malformed. -/
def Cmd.launchBad (k : Cmd) : Bool :=
  k.squads == 0 || k.blocks == 0 || decide (30 < k.blocks) || k.entryAt % 8 != 0 || k.exits % 16 != 0 || k.musterTable % 32 != 0 ||
    k.rangeList % 16 != 0 || wideAddr k.entryAt || wideAddr k.args || wideAddr k.exits || wideAddr k.musterTable || wideAddr k.stackBase ||
    wideAddr k.rangeList

/-! ### Muster entries (R28, R29) -/

/-- Whether a muster entry has a nonzero reserved field or an illegal code; more window lines than R28 allows count as one. (DEDUCED, log 61.) -/
def musterBad (e : Nat) : Bool :=
  bits e 63 60 != 0 || bits e 35 32 != 0 || bits e 59 58 == 3 || bits e 57 56 == 3 || bits e 52 51 == 3 || decide (16384 < bits e 50 36) ||
    (if bits e 59 58 = 0 then bits e 103 88 != 0
     else bits e 31 8 != 0 || (if bits e 59 58 = 1 then bits e 127 121 != 0 || bits e 66 64 != 0 else bits e 127 64 != 0))

/-- Whether a muster entry names a squad that the launch does not have, or two with a stride of 0. -/
def musterRange (e n : Nat) : Bool :=
  bits e 59 58 == 0 && bits e 31 8 != 0 &&
    (decide (n ≤ bits e 87 64 + (bits e 31 8 - 1) * bits e 127 104) || (bits e 127 104 == 0 && decide (2 ≤ bits e 31 8)))

/-- Whether a muster entry misuses a resource. -/
def musterMisuse (e : Nat) : Bool := (bits e 50 36 != 0 && bits e 57 56 != 2) || bits e 131 128 != 0 || wideAddr (bits e 191 128)

/-- The members that a bitmap names (R28); none where it cannot be read. -/
def Chip.bitmap (c : Chip) (ctx at_ n : Nat) : Option (List Nat) :=
  (c.distRead ctx at_ ((n + 7) / 8)).map fun b => (List.range n).filter fun i => bit b i

/-- The muster of an entry with its bitmap's members. -/
def musterOf (idx e : Nat) (members : List Nat) : Muster :=
  { idx, kind := bits e 59 58, base := bits e 87 64, stride := bits e 127 104, count := bits e 31 8, members
    place := bits e 57 56, timelines := bits e 255 192, barrier := bits e 191 128, barInit := bit e 55, remote := bit e 54
    byteGated := bit e 53, check := bits e 52 51, lines := bits e 50 36, quota := bits e 7 0 }

/-- Number of members. -/
def Muster.size (m : Muster) : Nat := if m.kind = 0 then m.count else m.members.length

/-- Whether pages of a range are present with the rights needed. -/
def Chip.pagesOk (c : Chip) (ctx : Nat) (need : Need) (va len : Nat) : Bool :=
  (pagesOf va len).all fun p => (c.walkOnly.xlByte 0 ctx need (max p va)).toBool

/-- The muster table of a launch, or the index of the entry that cannot be read. -/
def Chip.musterTable (c : Chip) (k : Cmd) : Except Nat (List Nat) :=
  (List.range k.musterCount).mapM fun i => match c.distRead k.ctx (k.musterTable + 32 * i) 32 with
    | some e => .ok e
    | none => .error i

/-- The bitmaps of a table, or the index of the entry whose bitmap cannot be read. -/
def Chip.memberLists (c : Chip) (k : Cmd) (es : List Nat) : Except Nat (List (List Nat)) :=
  (es.mapIdx fun i e => (i, e)).mapM fun x =>
    if bits x.2 59 58 = 1 then match c.bitmap k.ctx (bits x.2 120 64) k.squads with
      | some ms => .ok ms
      | none => .error x.1
    else .ok []

/-- A squad that more than four musters name. -/
def crowded (ms : List Muster) (n : Nat) : Bool := (List.range n).any fun i => decide (4 < (ms.filter fun m => m.has i).length)

/-- Slots of a core. -/
def Chip.slotCount (c : Chip) (n : Nat) : Nat := 32 * ((List.range 6).filter fun b => (c.bench n b).enabled).length

/-- Whether no enabled core can ever take the placement group of a muster: its squads or its windows exceed every core (R29). -/
def Chip.groupTooLarge (c : Chip) (l : Launch) (idx : Nat) : Bool :=
  let g := l.musters.filter fun m => (l.groupOf idx).contains m.idx
  let squads := ((List.range l.squads).filter fun i => g.any fun m => m.has i).length
  let lines : Nat := (g.map (fun (m : Muster) => m.lines)).sum
  (List.range c.cores.length).all fun n => !(c.core n).enabled || decide (c.slotCount n < squads) || decide (16384 < lines)

/-- First index of a list that satisfies p. -/
def firstIdx {α : Type} (xs : List α) (p : α → Bool) : Option Nat := (xs.mapIdx fun i x => (i, x)).findSome? fun x => if p x.2 then some x.1 else none

/-! ### Hints (R369) -/

/-- Whether an entry of the range list is malformed. -/
def hintBad (e : Nat) : Bool := bits e 79 64 != 0 || wideAddr (bits e 127 64) || bits e 63 32 == 0 || bits e 31 8 != 0 || decide (3 < bits e 7 0)

/-- The range list of a launch; none where it cannot be read. -/
def Chip.hintList (c : Chip) (k : Cmd) : Option (List Nat) :=
  if k.rangeList = 0 then some [] else (List.range k.rangeCount).mapM fun i => c.distRead k.ctx (k.rangeList + 16 * i) 16

/-! ### The checks (R29) -/

/-- The launch of a command with its musters and hints. -/
def Cmd.toLaunch (k : Cmd) (ms : List Muster) (hs : List Nat) : Launch :=
  { id := k.id, ctx := k.ctx, queue := k.queue, number := k.number, entry := k.entryAt, args := k.args
    exits := k.exits, stackBase := k.stackBase, stackKiB := k.stackKiB, declared := 8 * k.blocks, squads := k.squads, musters := ms
    hints := hs.map fun e => { base := bits e 127 64, len := bits e 63 32, hint := bits e 7 0 } }

/-- Checks of the musters of a launch, row by row (R29): cause and detail of the first that fails. (DEDUCED, log 61.) -/
def Chip.musterFault (c : Chip) (k : Cmd) (es : List Nat) (l : Launch) : Option (Nat × Nat) :=
  match firstIdx es musterBad with
  | some i => some (0x01, i)
  | none => match firstIdx es fun e => musterRange e k.squads with
    | some i => some (0x02, i)
    | none =>
      if crowded l.musters k.squads then some (0x03, 0)
      else match firstIdx es musterMisuse with
        | some i => some (0x04, i)
        | none => match firstIdx l.musters fun m => m.barInit && m.barrier != 0 && !c.pagesOk k.ctx { w := true } m.barrier 16 with
          | some i => some (0x04, i)
          | none =>
            if !c.pagesOk k.ctx { w := true } k.exits (16 * k.squads) then some (0x04, 0)
            else match firstIdx l.musters fun m => m.place == 2 && !m.namesNone && c.groupTooLarge l m.idx with
              | some i => some (0x05, if (l.groupOf i).length = 1 then i else 0)
              | none => none

/-- The launch that a command asks for, or the cause and detail with which it fails (R29, R336, R369). (DEDUCED, log 61.) -/
def Chip.checkLaunch (c : Chip) (k : Cmd) : Except (Nat × Nat) Launch :=
  if k.launchBad then .error (0x01, 0)
  else match c.musterTable k with
    | .error i => .error (0x04, i)
    | .ok es => match c.memberLists k es with
      | .error i => .error (if musterBad (es.getD i 0) then 0x01 else 0x04, i)
      | .ok bs =>
        let ms := (es.zip bs).mapIdx fun i x => musterOf i x.1 x.2
        let l := k.toLaunch ms []
        match c.musterFault k es l with
        | some f => .error f
        | none => match c.hintList k with
          | none => .error (0x04, 0)
          | some hs => if hs.any hintBad then .error (0x01, 0) else .ok (k.toLaunch ms hs)

/-- Device addresses of the reused ranges of a launch (R369): every group member that holds one of their bytes is named. -/
def Chip.reusedPages (c : Chip) (l : Launch) : List Nat :=
  (l.hints.filter fun h => h.hint == 3).flatMap fun h => (List.range h.len).flatMap fun i => c.pageMembers l.ctx (h.base + 65536 * i)

/-- LAUNCH: a command whose waits are satisfied is checked; it fails, or its launch waits for its first unit (R29, R336, R339). -/
def launchStep (s : State) (id : Nat) : State :=
  let c := s.chip
  match c.cmd? id with
  | none => s
  | some k =>
    if k.typ ≠ 0x01 ∨ (c.launch? id).isSome ∨ !c.mayStart k ∨ (c.inherits k).isSome ∨ c.closing k.ctx then s
    else if (c.ctx? k.ctx).isNone then { s with chip := c.endCmd id 0x04 0 }
    else match c.checkLaunch k with
      | .error f => { s with chip := c.endCmd id f.1 f.2 }
      | .ok l =>
        { s with chip := { c with launches := c.launches ++ [l] } }

/-- LAUNCH. -/
def execLaunch (id : Nat) := fun (s : State) => (.next (launchStep s id) : Host.Outcome State Fault Refusal)

end Sys2Proof.Machine
end

