-- ==== Sys2Proof/Machine/Units.lean ====
section
/-! DEFINITION. Placement and dispatch by the distributor (R342, R343, R34), barrier objects written at placement (R32), power gating of
clusters (R345, R346) and the deadlock watchdog (R347, R348). -/

namespace Sys2Proof.Machine

/-! ### Cores in the order of R343 -/

/-- Whether the cluster of a core is On; a core of no formed cluster is never gated. -/
def Chip.coreOn (c : Chip) (n : Nat) : Bool := match c.clusterOf n with
  | some p => c.on.getD p.1 false
  | none => true

/-- Whether core a comes before core b: On clusters, free squad slots, core number (R343). -/
def Chip.coreBefore (c : Chip) (a b : Nat) : Bool :=
  if c.coreOn a != c.coreOn b then c.coreOn a
  else decide (c.freeSlots b < c.freeSlots a) || (c.freeSlots a == c.freeSlots b && decide (a < b))

/-- Put a core in its place. -/
def Chip.insertCore (c : Chip) (n : Nat) : List Nat → List Nat
  | [] => [n]
  | m :: ms => if c.coreBefore n m then n :: m :: ms else m :: c.insertCore n ms

/-- The enabled cores that satisfy p, in the order of R343. -/
def Chip.coreOrder (c : Chip) (p : Nat → Bool) : List Nat :=
  ((List.range c.cores.length).filter fun n => (c.core n).enabled && p n).foldr (fun n ms => c.insertCore n ms) []

/-- Whether a core takes placements of a context: no pre-emption of it, or for its sake, is in progress there (R355). -/
def Chip.coreOpen (c : Chip) (n x : Nat) : Bool :=
  let k := c.core n
  match k.preempt with
  | some y => y != x && k.preemptBy != x
  | none => true

/-- Whether a formed cluster takes same-cluster placements: all four of its cores are enabled (R10). -/
def Chip.clusterWhole (c : Chip) (cl : Nat) : Bool := (c.clusterCores cl).length == 4

/-- Whether a core meets what the musters of a unit ask of it: the cluster of a same-cluster muster (R10, R31). -/
def Chip.clusterFits (c : Chip) (n : Nat) (ms : List Muster) : Bool :=
  ms.all fun m => m.place != 1 || match c.clusterOf n, m.cluster with
    | some p, some x => p.1 == x && c.clusterWhole p.1
    | some p, none => c.clusterWhole p.1
    | none, _ => false

/-! ### Units (R31, R342) -/

/-- Same-core musters of the unit that holds a squad. -/
def Launch.unitGroup (l : Launch) (i : Nat) : List Nat :=
  match l.musters.find? fun m => m.place == 2 && m.has i with
  | some m => l.groupOf m.idx
  | none => []

/-- Squads of that unit, ascending. -/
def Launch.unitSquads (l : Launch) (i : Nat) : List Nat :=
  let g := l.unitGroup i
  if g.isEmpty then [i] else (List.range l.squads).filter fun j => l.musters.any fun m => g.contains m.idx && m.has j

/-- Musters of a unit's squads. -/
def Launch.unitMusters (l : Launch) (squads : List Nat) : List Muster := l.musters.filter fun m => squads.any m.has

/-- The lowest squad of a launch that is not placed: it is the first of the next unit. -/
def Launch.nextSquad (l : Launch) : Option Nat := (List.range l.squads).find? fun i => !l.dispatched.contains i && !l.placing.any fun x => x.1 == i

/-- Reserve places on a core for squads of a launch, in ascending order; none where they do not all fit (R343). -/
def Chip.reserveAll (c : Chip) (launch d n : Nat) : List Nat → Option Chip
  | [] => some c
  | i :: is => match c.pickBench n d with
    | none => none
    | some b =>
      let pl : Place := { core := n, bench := b, slot := (c.freeSlot n b).getD 0 }
      (c.modLaunch launch fun l => { l with placing := l.placing ++ [(i, pl)] }).reserveAll launch d n is

/-- Place the unit of squads on a core: windows and slots of its musters, then a place for each squad; none where it does not fit whole. -/
def Chip.unitOnto (c : Chip) (l : Launch) (squads : List Nat) (n : Nat) : Option Chip :=
  if !c.mayReside n l.ctx then none
  else (c.mustersOnto l.id n ((l.unitMusters squads).map (·.idx))).bind fun c => c.reserveAll l.id l.declared n squads

/-- Whether a placed squad may be dispatched: its core's cluster is On (R346), its bench is ready for it (R162, R164), and the barrier objects of its
unit's musters are written (R32). -/
def Chip.mayDispatch (c : Chip) (l : Launch) (x : Nat × Place) : Bool :=
  c.coreOn x.2.core && c.benchReady x.2.core x.2.bench l.declared && (l.unitMusters (l.unitSquads x.1)).all fun m => !m.barInit || m.barDone

/-- Dispatch the placed squads of a launch that may be, in ascending order. -/
def Chip.dispatchPlaced (c : Chip) (launch : Nat) : Chip :=
  match c.launch? launch with
  | none => c
  | some l =>
    l.placing.foldl (fun c x =>
      if c.mayDispatch l x then
        (c.startSquad l x.2 x.1 l.entry l.declared (l.mslotsOf x.1) none).modLaunch launch fun l =>
          { l with dispatched := l.dispatched ++ [x.1], placing := l.placing.filter fun y => y.1 != x.1 }
      else c) c

/-- The first core that takes the next unit of a launch, with the chip after it is placed. -/
def Chip.placeUnit (c : Chip) (l : Launch) : Option (Nat × Chip) :=
  l.nextSquad.bind fun i =>
    let squads := l.unitSquads i
    let ms := l.unitMusters squads
    (c.coreOrder fun n => c.coreOpen n l.ctx && c.clusterFits n ms).findSome? fun n => (c.unitOnto l squads n).map fun d => (n, d)

/-! ### Squads formed in bins (R34) -/

/-- Cores that a formed squad may go to: its bin's core, else those its muster's placement allows; a squad of no muster is bound by no placement and may
go to any. (DESIGN CHOICE, log 92.) A squad that a pre-emption or a migration has formed is saved and goes nowhere (R36, R361); one whose muster's
barrier object is not written waits (R32). -/
def Chip.formedMay (c : Chip) (f : Formed) (n : Nat) : Bool :=
  c.coreOpen n f.ctx && !f.saves &&
    match f.muster.bind fun i => c.muster? f.launch i with
    | some m => (!m.barInit || m.barDone) && if m.place = 2 then n == f.core else c.clusterFits n [m]
    | none => true

/-- Choose a place on a core for a formed squad; none where it has no room. -/
def Chip.formedOnto (c : Chip) (f : Formed) (n : Nat) : Option Chip :=
  if !c.mayReside n f.ctx then none
  else
    let c := match f.muster with
      | some i => c.musterOnto f.launch i n
      | none => some c
    c.bind fun c => (c.pickBench n f.declared).map fun b =>
      { c with formed := c.formed.map fun g => if g.id = f.id then { g with place := some { core := n, bench := b, slot := (c.freeSlot n b).getD 0 } } else g }

/-- The first core that takes a formed squad which has no place yet, with the chip after its place is chosen. -/
def Chip.placeFormed (c : Chip) (f : Formed) : Option (Nat × Chip) :=
  let rest := (c.coreOrder fun n => n != f.core && c.formedMay f n)
  ((if (c.core f.core).enabled && c.formedMay f f.core then [f.core] else []) ++ rest).findSome? fun n => (c.formedOnto f n).map fun d => (n, d)

/-- Dispatch a formed squad to its place, once its core's cluster is On and the bench is ready for it. -/
def Chip.dispatchFormed (c : Chip) (id : Nat) : Chip :=
  match c.formed.find? fun f => f.id == id with
  | none => c
  | some f => match f.place, c.launch? f.launch with
    | some pl, some l =>
      if c.coreOn pl.core && c.benchReady pl.core pl.bench f.declared then
        let c := c.startSquad l pl 0 f.entry f.declared [f.muster, none, none, none] (some f.threads)
        { c with formed := c.formed.filter fun g => g.id != id }
      else c
    | _, _ => c

/-! ### Power of clusters (R345, R346) -/

/-- Set a cluster's power state; the distributor prefers On clusters. -/
def State.setPower (s : State) (cl : Nat) (p : ClusterPower) : State :=
  { s with
    chip := { s.chip with on := modAt s.chip.on cl fun _ => p == .on }
    plat := { s.plat with power := modAt s.plat.power cl fun _ => p } }

/-- State of a cluster. -/
def State.powerOf (s : State) (cl : Nat) : ClusterPower := s.plat.power.getD cl .on

/-- A dispatch arrives for a core: a cluster that is Gating or Off begins to come back (R346). -/
def State.wakeFor (s : State) (n : Nat) : State :=
  match s.chip.clusterOf n with
  | none => s
  | some p => match s.powerOf p.1 with
    | .gating => s.setPower p.1 .abandoning
    | .off => s.setPower p.1 .waking
    | .on => s
    | .abandoning => s
    | .waking => s

/-- SPAWNED_SQUAD_DISPATCH: a place is chosen once and kept; the squad is dispatched there when the core's cluster is On (R34, R346). -/
def State.formedDispatch (s : State) (id : Nat) : State :=
  match s.chip.formed.find? fun f => f.id == id with
  | none => s
  | some f =>
    let t := if f.place.isSome then s
      else match s.chip.placeFormed f with
        | some r => ({ s with chip := r.2 } : State).wakeFor r.1
        | none => s
    { t with chip := t.chip.dispatchFormed id }

/-- SPAWNED_SQUAD_DISPATCH. -/
def execSpawnedSquadDispatch (id : Nat) := fun (s : State) => (.next (s.formedDispatch id) : Host.Outcome State Fault Refusal)

/-- Priority of a launch: that of its queue (R342). -/
def Chip.launchPrio (c : Chip) (l : Launch) : Nat := (c.queues.getD l.queue {}).prio

/-- Launches in the order in which their units are placed: priority, then the earliest (R342). -/
def Chip.launchOrder (c : Chip) : List Launch :=
  (List.range 8).reverse.flatMap fun p => c.launches.filter fun l => c.launchPrio l == p

/-- A hint range at the start of its launch: the members that hold its pages, and whether one is in a capacity slot (R369, R370). -/
def State.hintStart (s : State) (ctx : Nat) (h : HintRange) : HintRange :=
  let keys := if s.chip.cap = 0 then [] else s.chip.pageKeys ctx ((List.range h.len).map fun i => h.base + 65536 * i)
  { h with members := keys, slow := keys.any fun k => slotIn (s.plat.entry (k / 4)) (k % 4) != 0 }

/-- A launch starts with its first unit: its command starts, and the members that hold pages of its reused ranges have their counts set to 255 (R335,
R369). -/
def State.startLaunch (s : State) (l : Launch) : State :=
  if (s.chip.cmd? l.id).any fun k => k.started then s
  else
    { s with
      chip := (s.chip.startCmd l.id).modLaunch l.id fun x => { x with hints := x.hints.map (s.hintStart l.ctx) }
      plat := { s.plat with counts := (s.chip.reusedPages l).foldl (fun (m : Sparse Nat) pa => m.set 0 (countKey s.chip.fast pa) 255) s.plat.counts } }

/-- The first launch with a squad that is placed and may be dispatched. -/
def Chip.dispatchable (c : Chip) : Option Launch := c.launches.find? fun l => l.placing.any fun x => c.mayDispatch l x

/-- UNIT_PLACEMENT: placed squads that may be dispatched are; else the next unit of the first launch that has a placeable one is placed, and dispatched
at once where its core's cluster is On and no barrier object is still to be written. A squad formed in a bin goes first (R32, R342, R346). -/
def unitStep (s : State) : State :=
  let c := s.chip
  match c.dispatchable with
  | some l => { s with chip := c.dispatchPlaced l.id }
  | none =>
    if c.formed.any fun f => f.place.isNone && (c.placeFormed f).isSome then s
    else match c.launchOrder.findSome? fun l => (c.placeUnit l).map fun r => (l, r) with
      | none => s
      | some (l, n, d) =>
        let t := (({ s with chip := d } : State).startLaunch l).wakeFor n
        { t with chip := t.chip.dispatchPlaced l.id }

/-- UNIT_PLACEMENT. -/
def execUnitPlacement := fun (s : State) => (.next (unitStep s) : Host.Outcome State Fault Refusal)

/-! ### Barrier objects at placement (R32) -/

/-- BARRIER_INIT_WRITE: the object is written with its expected count, waits for its page, or is reported as not written. (DESIGN CHOICE, log 50.) -/
def Chip.barInit (c : Chip) (id : Nat) : Chip :=
  match c.barInits.find? fun b => b.id == id with
  | none => c
  | some b => match c.launch? b.launch, c.muster? b.launch b.muster with
    | some l, some m =>
      let finish := fun (c : Chip) =>
        { c with barInits := c.barInits.filter fun x => x.id != id }.modMuster b.launch b.muster fun m => { m with barDone := true }
      let lost := fun (_ : Unit) => finish (c.looseRecord l.ctx 0x2A 5 b.core l.number m.barrier)
      let o : BarObj := { excess := false, remote := m.remote, gated := m.byteGated, pending := 0, phase := 0, expected := m.size % 65536, arrivals := 0 }
      if m.barrier = 0 then finish c
      else match c.xlFor id b.core l.ctx { w := true } m.barrier 16 with
        | .ok ls => if c.inCopy ls then c else finish ((c.storeAt b.core l.ctx m.barrier ls (leBytes 16 o.write)).copyPhase (ls.headD (.dev 0)) 0)
        | .error (.absent p) => c.engineFault l.ctx p b.core id { w := true }
        | .error (.access _) => lost ()
    | _, _ => { c with barInits := c.barInits.filter fun x => x.id != id }

/-- BARRIER_INIT_WRITE. -/
def execBarrierInitWrite (id : Nat) := fun (s : State) => onChip s (s.chip.barInit id)

/-! ### Gating (R345, R346) -/

/-- Whether a core holds nothing that keeps its cluster On (R345). -/
def Chip.coreIdle (c : Chip) (n : Nat) : Bool :=
  let k := c.core n
  !(c.squads.any fun q => q.place.core == n) && k.windows.isEmpty && k.slots.all (fun s => s.owners.isEmpty) &&
    k.threads.all (fun t => t.isNone) && k.queues.all (fun q => q.state == .free) && k.starts.isEmpty && k.hoists.isEmpty &&
    !(c.rings.any fun r => r.core == n) && k.bins.isEmpty && (List.range 6).all fun b => !(c.bench n b).accValid && (c.reserved n b).isEmpty

/-- Whether a cluster is idle (R345). -/
def Chip.clusterIdle (c : Chip) (cl : Nat) : Bool :=
  let ns := c.clusterCores cl
  !ns.isEmpty && ns.all fun n => c.coreIdle n.1

/-- CLUSTER_GATE_REQUEST: an idle cluster that is On begins to gate. -/
def execClusterGateRequest (cluster : Nat) := fun (s : State) =>
  (.next (if s.powerOf cluster = .on ∧ s.chip.clusterIdle cluster then s.setPower cluster .gating else s) : Host.Outcome State Fault Refusal)

/-- What a core loses in Off: scratch, presence, race records, timeline counters, L1 and TLB (R346). (DEDUCED, log 79.) -/
def Core.lose (k : Core) : Core :=
  { k with scratch := [], absent := [], written := [], race := [], slots := k.slots.map fun _ => {}, l1 := [], tlb := [] }

/-- CLUSTER_GATING_COMPLETE: a gating cluster goes Off. -/
def execClusterGatingComplete (cluster : Nat) := fun (s : State) =>
  (.next (if s.powerOf cluster = .gating then
      let t := s.setPower cluster .off
      { t with chip := (s.chip.clusterCores cluster).foldl (fun c n => c.modCore n.1 Core.lose) t.chip }
    else s) : Host.Outcome State Fault Refusal)

/-- CLUSTER_GATING_ABANDON: a cluster whose gating a dispatch has abandoned is On again. -/
def execClusterGatingAbandon (cluster : Nat) := fun (s : State) =>
  (.next (if s.powerOf cluster = .abandoning then s.setPower cluster .on else s) : Host.Outcome State Fault Refusal)

/-- CLUSTER_WAKE_COMPLETE. -/
def execClusterWakeComplete (cluster : Nat) := fun (s : State) =>
  (.next (if s.powerOf cluster = .waking then s.setPower cluster .on else s) : Host.Outcome State Fault Refusal)

/-! ### The watchdog (R347, R348) -/

/-- Whether a pennant of the wait mask counts a fabric request of the squad, or an access that waits for its page: such a wait is not counted. -/
def Chip.maskExternal (c : Chip) (q : Squad) (hdr : DWord) : Bool :=
  c.requests.any fun r => r.agent == .squad q.uid && (r.accs.any fun a => a.fab.isSome || match a.status with
    | .faulted _ => true
    | _ => false) && match r.pennant with
    | some k => bit hdr.toNat (44 + k)
    | none => false

/-- The row of R347 for a squad whose header is fetched and holds, at its clause start; none where it is external, not counted, or no wait. -/
def Chip.startWait (c : Chip) (q : Squad) (p : Pick) (hdr : DWord) : Option Nat :=
  let x := q.poise p hdr
  let ws := c.clauseWords q.place.core q.exe.ctx p.addr x.exe.count p.pos
  let need := demand ws
  if !x.maskClear hdr then (if c.maskExternal q hdr then none else some 1)
  else if !c.escortRoom x need.1 need.2 then some 4
  else if p.pos ≠ 0 then none
  else match ws.head?.bind fun w => (decode w).toOption with
    | none => none
    | some i => match c.testWait x i with
      | .unmet ext => if ext then none else some 2
      | _ => match (c.setSquad x).firstCond x ws.head? with
        | .holds _ => none
        | _ => match i with
          | .acqb _ _ => some 4
          | .qpop _ => some 4
          | .qpush _ => some 4
          | _ => none

/-- Whether some of these registers of a squad await its scratch loads at absent lines, and none of them anything else (R170, R347). -/
def Chip.awaitsLines (c : Chip) (q : Squad) (rs : List Nat) : Bool :=
  let held := (c.requests.filter fun r => r.agent == .squad q.uid && r.scratch && r.accs.any fun a => a.status == .waiting && !c.present a.locs).flatMap
    fun r => r.dstRegs ++ r.escort.map (·.1)
  let busy := rs.filter (c.busyRegs q.uid).contains
  !busy.isEmpty && busy.all held.contains

/-- Whether a squad stalls inside a clause in a local wait of R347 alone: an ownership service, its own or another's (R268), an absent scratch line that
an operand or a command record names or that a register's reply waits for (R170), or the hold of a `jrun` (R281). -/
def Chip.stallWait (c : Chip) (q : Squad) : Bool :=
  match q.stall with
  | some .localWait => true
  | some (.registers rs) => c.awaitsLines q rs
  | _ => false

/-- The local wait that keeps a squad from its next clause start: row of R347 and header address. (DEDUCED, log 32.) -/
def Chip.localWait (c : Chip) (q : Squad) : Option (Nat × Nat) :=
  if q.dead || q.stopped || q.evicted.isSome || c.unsettled q || q.parked.isSome || q.restart || q.deferred.isSome || q.awaiting.isSome then none
  else if q.exe.inClause then (if c.stallWait q then some (4, q.exe.hdrAt) else none)
  else match q.pick with
    | none =>
      let live := (List.range 32).filter q.live
      if live.all fun l => (q.state l).waits then (live.map fun l => q.lpc.getD l 0).min?.map fun a => (3, a) else none
    | some p => match c.fetchWord q.place.core q.exe.ctx p.addr with
      | .error _ => none
      | .ok hdr => if headerOk hdr.toNat q.exe.declared then (c.startWait q p hdr).map fun r => (r, p.addr) else none

/-- WATCHDOG_REPORT: the count of a squad in a local wait reaches the limit of its context. -/
def Chip.watchdog (c : Chip) (uid : Nat) : Chip :=
  match c.squad? uid with
  | none => c
  | some q => match c.ctx? q.exe.ctx with
    | none => c
    | some x =>
      if x.watchdog = 0 then c
      else match c.localWait q with
        | none => c
        | some (row, a) => c.errAppend q.exe.ctx (record212 0x26 row q.place.slot q.place.bench q.place.core 0 a a)

/-- WATCHDOG_REPORT. -/
def execWatchdogReport (uid : Nat) := fun (s : State) => onChip s (s.chip.watchdog uid)

end Sys2Proof.Machine
end

