-- ==== Sys2Proof/Machine/Contexts.lean ====
section
/-! DEFINITION. The commands on contexts: create (R352), teardown (R353) and page-fault resolution (R179). -/

namespace Sys2Proof.Machine

/-! ### Create (R352) -/

/-- The context that a record describes. -/
def Ctx.ofRecord (r : Nat) : Ctx :=
  { level1 := bits r 63 0, peer := bits r 127 64, trapvec := bits r 191 128, errBase := bits r 255 192, accBase := bits r 319 256
    imgBase := bits r 383 320, musBase := bits r 447 384, stackPool := bits r 511 448, slice := bits r 543 512
    watchdog := bits r 559 544, imgSlots := bits r 575 560, musSlots := bits r 591 576, errCap := bits r 599 592, prio := bits r 602 600
    migrate := bit r 603, pfBase := bits r 671 608, pfCap := bits r 679 672 }

/-- Reserved bits of a record. -/
def ctxReserved (r : Nat) : Bool := bits r 1023 680 != 0 || bits r 607 604 != 0

/-- Whether an address is misaligned or has bits 63:57 set. -/
def badBase (a n : Nat) : Bool := wideAddr a || a % n != 0

/-- Whether a field of a context lies outside its limits. -/
def Ctx.badFields (x : Ctx) : Bool :=
  badBase x.level1 16384 || badBase x.peer 8192 || badBase x.trapvec 8 || badBase x.errBase 4096 || badBase x.accBase 4096 ||
    badBase x.imgBase 4096 || badBase x.musBase 65536 || wideAddr x.stackPool || badBase x.pfBase 4096 ||
    decide (x.errCap < 7) || decide (16 < x.errCap) || decide (x.pfCap < 7) || decide (16 < x.pfCap)

/-- Whether the regions that a context names lie in device memory. -/
def Chip.ctxRegions (c : Chip) (x : Ctx) : Bool :=
  c.regionExists x.level1 16384 && c.regionExists x.errBase (64 + 32 * 2 ^ x.errCap) && c.regionExists x.pfBase (64 + 32 * 2 ^ x.pfCap) &&
    c.regionExists x.imgBase (32768 * x.imgSlots) && c.regionExists x.musBase (0x230000 * x.musSlots) && c.regionExists x.accBase (384 * 0x21000)

/-- CONTEXT_CREATE: with the record as the command read it when it started. -/
def Chip.ctxCreate (c : Chip) (id : Nat) : Chip :=
  match c.begun? id 0x07 with
  | none => c
  | some k =>
    let a := k.fld 319 256
    let r := k.data
    let x := Ctx.ofRecord r
    if (c.ctx? k.ctx).isSome then c.endCmd id 0x04 0
    else if badBase a 128 then c.endCmd id 0x01 0
    else if !c.regionReadable a 128 then c.endCmd id 0x04 0
    else if ctxReserved r || x.badFields then c.endCmd id 0x01 0
    else if !c.ctxRegions x then c.endCmd id 0x04 0
    else
      let c := { c with ctxs := modAt c.ctxs k.ctx fun _ => some x }
      ((c.devPut x.errBase 64 (controlBlock x.errCap)).devPut x.pfBase 64 (controlBlock x.pfCap)).endCmd id 0 0

/-- CONTEXT_CREATE. -/
def execContextCreate (id : Nat) := fun (s : State) => onChip s (s.chip.ctxCreate id)

/-! ### Teardown (R353) -/

/-- CONTEXT_TEARDOWN: while an earlier teardown of the context waits for its exposure entries, this one waits too. -/
def Chip.ctxTeardown (c : Chip) (id : Nat) : Chip :=
  match c.begun? id 0x08 with
  | none => c
  | some k =>
    if (c.ctx? k.ctx).isNone then c.endCmd id 0x04 0
    else if c.closing k.ctx then c
    else c.teardown k.ctx id

/-- CONTEXT_TEARDOWN. -/
def execContextTeardown (id : Nat) := fun (s : State) => onChip s (s.chip.ctxTeardown id)

/-! ### Page faults (R179) -/

/-- A lane that waited on a resolved fault walks the tables again: its access goes on, waits on a new fault, or fails (R178, R179). (DEDUCED, log 23.) -/
def Chip.retryLane (c : Chip) (r : Request) (a : Access) : Chip :=
  let set := fun (c : Chip) (x : Access) => c.modAccess r.id a.lane fun _ => x
  let whole := match r.kind with
    | .load => r.scratch
    | .store => r.scratch
    | .atom _ _ => true
    | .cas _ => true
  let engine := match r.agent with
    | .squad _ => false
    | .thread _ _ => true
  match c.laneGlobal r.core r.ctx r.kind.need a.va r.size with
  | .at ls => set (c.fillTlb r.core r.ctx a.va) { a with
      locs := ls, status := .waiting, elem := if whole then 0 else c.elemOf r.ctx a.va r.size, parts := [], unsup := c.unsupported r.ctx r.kind r.size a.va (.at ls) }
  | .peer p =>
    let x := { a with fab := some p, status := .waiting, unsup := c.unsupported r.ctx r.kind r.size a.va (.peer p) }
    (set (c.fillFab r.core r.ctx a.va) x).sendAccess r r.ordered x
  | .absent v => let f := c.openFault r.ctx v r.core engine r.kind.need; set f.2 { a with status := .faulted f.1 }
  | .fault k => set c { a with status := .failed k }
  | .off => c

/-- Every access of a request that waited on a fault, by a rule for one access. -/
def Chip.eachWaiting (c : Chip) (ctx num : Nat) (f : Chip → Request → Access → Chip) : Chip :=
  (c.requests.filter fun r => r.ctx == ctx).foldl (fun c r => (r.accs.filter fun a => a.status == .faulted num).foldl (fun c a => f c r a) c) c

/-- Requests of a context that are over are finished where nothing has to land (R13). -/
def Chip.settleAll (c : Chip) (ctx : Nat) : Chip := (c.requests.filter fun r => r.ctx == ctx).foldl (fun c r => c.settleReq r.id) c

/-- A squad whose page has come: it goes on. -/
def Squad.unpark (q : Squad) (num : Nat) : Squad := if q.parked = some num then { q with parked := none } else q

/-- A fault that is resolved: cached translations of the page go, and everything that waited walks again. -/
def Chip.faultResolved (c : Chip) (ctx : Nat) (f : PFault) : Chip :=
  let c := (c.dropTlb ctx fun t => t.within f.page 65536).modCtx ctx fun x => { x with faults := x.faults.filter fun g => g.num != f.num }
  let c := { c with squads := c.squads.map fun (q : Squad) => if q.exe.ctx = ctx then q.unpark f.num else q }
  (c.eachWaiting ctx f.num Chip.retryLane).settleAll ctx

/-- A parked squad whose page was reported unresolvable: at its restart point, at its next clause start, or at once where the word it stands
at cannot be fetched (R174, R179). (DEDUCED, log 25.) -/
def Chip.parkFailed (c : Chip) (q : Squad) : Chip :=
  let put := fun (q : Squad) => c.setSquad { q with parked := none }
  let d : Deferred := { addr := 0, mask := 0, va := q.parkedVa, reason := 3, atStart := true }
  if q.restart then match q.region with
    | some r => put { q with deferred := some { d with addr := if r.pos = 0 then r.hdrAt else r.hdrAt + 8 * (r.pos + 1), mask := r.mask, atStart := r.pos == 0 } }
    | none => put q
  else if q.exe.inClause then
    if (c.fetchWord q.place.core q.exe.ctx q.exe.wordAt).toBool then
      put { q with skip := true, deferred := q.deferred.or (some { d with addr := q.exe.wordAt, mask := q.exe.active }) }
    else
      let turn := c.turn
      { (put q).takeTrap q.uid (accessFault 3 q.parkedVa) with turn := if turn = some (.squad q.uid) then none else turn }
  else match q.pick with
    | none => put q
    | some p =>
      let addr := if (c.fetchWord q.place.core q.exe.ctx p.addr).toBool then p.addr + 8 else p.addr
      put { q with deferred := q.deferred.or (some { d with addr, mask := p.active }) }

/-- Whether a parked squad waits for a page of its join unit's spill: it stands in a join clause and waits there under its name (R273). -/
def Squad.spills (q : Squad) (f : PFault) : Bool := q.parked == some f.num && q.exe.inClause && q.exe.cls == 2 && f.waiters.contains q.uid

/-- Whether an engine's access that waits under a name fails with its page: a squad's own name stands for its spill, or for its exit record; the context
engine's use of a block area tries again (R163, R179). -/
def Chip.waiterFails (c : Chip) (f : PFault) (id : Nat) : Bool :=
  match c.squad? id with
  | some q => q.spills f || c.exitRecords.any fun e => e.id == id
  | none => true

/-- A fault that is reported unresolvable: every access that waited fails (R179). A spill fails as the access of an engine: the step traps when it is
tried again (R273). -/
def Chip.faultFailed (c : Chip) (ctx : Nat) (f : PFault) : Chip :=
  let c := { c with failed := c.failed ++ (f.waiters.filter (c.waiterFails f)).map fun i => (i, f.page) }.modCtx ctx fun x =>
    { x with faults := x.faults.filter fun g => g.num != f.num }
  let waiting := c.squads.filter fun q => q.exe.ctx == ctx && q.parked == some f.num
  let c := waiting.foldl (fun c q => if q.spills f then c.setSquad { q with parked := none } else c.parkFailed q) c
  (c.eachWaiting ctx f.num fun c r a => c.modAccess r.id a.lane fun a => { a with status := .failed 3 }).settleAll ctx

/-- PAGE_FAULT_RESOLUTION, which waits where the walk of the page does (R381). -/
def Chip.resolveFault (c : Chip) (id : Nat) : Chip :=
  match c.begun? id 0x0A with
  | none => c
  | some k => match (c.ctx? k.ctx).bind fun x => x.faults.find? fun f => f.num == k.fld 319 256 with
    | none => c.endCmd id 0x04 0
    | some f => if c.walkHeld k.ctx f.page then c else (if bit k.record 320 then c.faultFailed k.ctx f else c.faultResolved k.ctx f).endCmd id 0 0

/-- PAGE_FAULT_RESOLUTION. -/
def execPageFaultResolution (id : Nat) := fun (s : State) => onChip s (s.chip.resolveFault id)

end Sys2Proof.Machine
end

