-- ==== Sys2Proof/Machine/ContextEngine.lean ====
section
/-! DEFINITION. The context engine when a context leaves a core: pre-emption requests (R354), the save of squads (R355 to R357) and of
muster core state (R358), closed benches (R360), the start and the end of a migration (R361). -/

namespace Sys2Proof.Machine

/-! ### Requests (R354) -/

/-- Form every bin of a core that satisfies p (R36). -/
def Chip.formBins (c : Chip) (n : Nat) (p : Bin → Bool) : Chip := ((c.core n).bins.filter p).foldl (fun c b => c.formBin n b) c

/-- Squads formed on a core, or placed on it, that wait for dispatch while their context or group leaves it: those of the core are saved with it, and no
place on it stays chosen (R36, R361). -/
def Chip.recallFormed (c : Chip) (n : Nat) : Chip :=
  { c with formed := c.formed.map fun f =>
      if c.binLeaves n f.ctx f.launch f.muster then
        if f.core = n then { f with saves := true, place := none } else if f.place.any fun p => p.core == n then { f with place := none } else f
      else f }

/-- Musters that a core set's squads and records name. -/
def Chip.setMusters (c : Chip) (s : CoreSet) : List (Nat × Nat) :=
  ((s.squads.flatMap fun v => (c.savedSlots s.ctx v).filterMap fun m => m.map fun i => (v.launch, i)) ++ s.musters.map fun m => (m.1, m.2.1)).eraseDups

/-- Whether a core meets R31 and R10 for a core set: clusters, and same-core musters of which members are placed elsewhere. -/
def Chip.setMeets (c : Chip) (s : CoreSet) (n : Nat) : Bool :=
  let ms := (c.setMusters s).filterMap fun e => c.muster? e.1 e.2
  c.clusterFits n ms && ms.all fun m => m.place != 2 || m.cores.all fun i => i == n

/-- Core to which a saved core set is bound by its squads' handles (R356). -/
def Chip.boundCore (c : Chip) (s : CoreSet) : Option Nat :=
  s.squads.findSome? fun q => let b := c.dev.le (c.image s.ctx q.slot + 0x6C) 4; if bit b 31 then some (bits b 15 8) else none

/-- Whether a context waits for a core: a unit that cannot be placed yet, or a saved core set, for which it is the first core; or saved state
bound to it. (DEDUCED, log 69.) -/
def Chip.waitsFor (c : Chip) (x n : Nat) : Bool :=
  (c.launches.any fun l => l.ctx == x && (c.placeUnit l).isNone && match l.nextSquad with
    | some i => (c.coreOrder fun m => c.clusterFits m (l.unitMusters (l.unitSquads i))).head? == some n
    | none => false) ||
    c.coreSets.any fun s => s.ctx == x && s.complete && match s.target, c.boundCore s with
      | some t, _ => t == n
      | none, some m => m == n
      | none, none => (c.coreOrder fun m => c.setMeets s m).head? == some n

/-- Whether a move of a context from a core is in progress (R361). -/
def Chip.moving (c : Chip) (x n : Nat) : Bool := c.moves.any fun m => m.core == n && ((c.launch? m.launch).map (·.ctx)) == some x

/-- Slice of a context (R352). -/
def Chip.slice (c : Chip) (x : Nat) : Nat := ((c.ctx? x).map (·.slice)).getD 0

/-- Whether a waiting context pushes a resident one off a core at once, by a higher priority (R354). -/
def Chip.pushesNow (c : Chip) (w x : Nat) : Bool := w != x && decide (c.prio x < c.prio w)

/-- Whether a waiting context pushes a resident one of its own priority off a core once that one's slice has expired (R354). -/
def Chip.pushesLate (c : Chip) (w x : Nat) : Bool := w != x && c.prio x == c.prio w && c.slice x != 0

/-- Contexts that wait for a core. -/
def Chip.waiting (c : Chip) (n : Nat) : List Nat := (List.range 64).filter fun w => (c.ctx? w).isSome && c.waitsFor w n

/-- Resident contexts of a core that some waiting context pushes off it in the way p (R354). -/
def Chip.pushed (c : Chip) (n : Nat) (p : Nat → Nat → Bool) : List Nat :=
  (List.range 64).filter fun x => (c.residents n).contains x && (c.ctx? x).isSome && (c.waiting n).any fun w => p w x

/-- The contexts that a core may choose to pre-empt (R354). Of those that go at once, the lowest priority counts: there the one of the lowest number, or
one whose slice may have expired. Before them, or among them, go those of no higher priority whose slice lets an equal in. When slices expire is
a matter of time (log 7). (DESIGN CHOICE, log 68.) -/
def Chip.victims (c : Chip) (n : Nat) : List Nat :=
  let low := ((c.pushed n c.pushesNow).map c.prio).min?
  let now := (c.pushed n c.pushesNow).filter fun x => low == some (c.prio x)
  let late := (c.pushed n c.pushesLate).filter fun x => low.all fun p => decide (c.prio x ≤ p)
  (now.take 1 ++ now.filter (fun x => c.slice x != 0) ++ late).eraseDups

/-- The first waiting context that may push a resident one off a core. -/
def Chip.pusher (c : Chip) (n x : Nat) : Option Nat := (c.waiting n).find? fun w => c.pushesNow w x || c.pushesLate w x

/-- A pre-emption of a context on a core begins: its bins form, and what waits for dispatch there is saved (R36, R355). -/
def Chip.beginPreempt (c : Chip) (n x w : Nat) : Chip :=
  ((c.modCore n fun k => { k with preempt := some x, preemptBy := w }).formBins n fun b => b.ctx == x).recallFormed n

/-- PREEMPTION_REQUEST of a core: one that a move has left to it; else one of the contexts that may be pushed off it. A request for a context that moves
off the core waits for the end of the move (R354, R361). -/
def Chip.preemptRequest (c : Chip) (n : Nat) : Chip :=
  if (c.core n).preempt.isSome || c.moves.any fun m => m.core == n && m.asked.isSome then c
  else match c.asked.find? fun a => a.1 == n && (c.residents n).contains a.2.1 with
    | some a => ({ c with asked := c.asked.filter fun b => b != a } : Chip).beginPreempt n a.2.1 a.2.2
    | none =>
      let xs := c.victims n
      let v := c.free
      match xs[v.1.toNat % xs.length]? with
      | none => c
      | some x =>
        let w := (c.pusher n x).getD 0
        if c.moving x n then
          { v.2 with moves := c.moves.map fun m => if m.core = n ∧ ((c.launch? m.launch).map (·.ctx)) = some x then { m with asked := some w } else m }
        else v.2.beginPreempt n x w

/-- A move has ended with its group on a core: a pre-emption that was asked for meanwhile is taken there, after the one in progress (R361). -/
def Chip.takeAsked (c : Chip) (m : Move) (n : Nat) : Chip :=
  match m.asked, c.launch? m.launch with
  | some w, some l => if (c.core n).preempt.isSome then { c with asked := c.asked ++ [(n, l.ctx, w)] } else c.beginPreempt n l.ctx w
  | _, _ => c

/-- PREEMPTION_REQUEST. -/
def execPreemptionRequest (core : Nat) := fun (s : State) => onChip s (s.chip.preemptRequest core)

/-! ### Images (R356) -/

/-- Squad-image slots of a context in use. -/
def Chip.imagesUsed (c : Chip) (x : Nat) : List Nat := (c.coreSets.filter fun s => s.ctx == x).flatMap fun s => s.squads.map (·.slot)

/-- The lowest free squad-image slot. -/
def Chip.freeImage (c : Chip) (x : Nat) : Option Nat :=
  (List.range (((c.ctx? x).map (·.imgSlots)).getD 0)).find? fun i => !(c.imagesUsed x).contains i

/-- Code of a lane state in an image. -/
def LaneState.code : LaneState → Nat
  | .eligible => 0
  | .yielded => 1
  | .burgeeWait b => 2 + b
  | .ensignWait _ => 14
  | .exited => 15

/-- Requests of a squad that still bring back registers (R357). -/
def Chip.abroadCount (c : Chip) (uid : Nat) : Nat := (c.requests.filter fun r => r.agent == .squad uid && r.returns).length

/-- Registers that requests of a squad will bring back. -/
def Chip.coming (c : Chip) (uid : Nat) : List Nat := (c.requests.filter fun r => r.agent == .squad uid).flatMap fun r => r.dstRegs ++ r.escort.map (·.1)

/-- Bytes of an image: offset, size, value. (DEDUCED, log 71.) -/
def Chip.imageFields (c : Chip) (q : Squad) (live : Nat) : List (Nat × Nat × Nat) :=
  let bound := q.handles.any Option.isSome
  [(0x000, 4, c.abroadCount q.uid),
   (0x004, 4, 1 + fld 1 (b01 q.trap.hmode) + fld 8 live + fld 16 (q.exe.declared / 8) + fld 24 q.trap.pos),
   (0x008, 4, q.number), (0x00C, 4, q.scfMask.toNat)] ++
  (q.exe.mslots.mapIdx fun i m => (0x010 + 4 * i, 4, match m with
    | some k => fld 31 1 + k
    | none => 0)) ++
  [(0x020, 16, ((q.st.mapIdx fun l s => fld (4 * l) s.code).sum))] ++
  (q.burgees.mapIdx fun i b => (0x030 + 4 * i, 4, b.toNat)) ++
  (q.pennants.mapIdx fun i k => (0x060 + i, 1, k)) ++
  [(0x06C, 4, if bound then fld 31 1 + fld 8 q.place.core + q.place.bench else 0)] ++
  ((List.range 32).map fun l => (0x070 + l, 1, ((q.exe.flags.mapIdx fun k f => fld k (b01 (f.getLsbD l))).sum))) ++
  (q.ensigns.mapIdx fun i e => (0x090 + 24 * i, 24, fld 128 e.cont + fld 64 e.signed.toNat + fld 32 e.set.toNat + fld 1 (b01 e.armed) + b01 e.isOpen)) ++
  (q.handles.mapIdx fun h b => (0x0F0 + h, 1, match b with
    | some k => 0x80 + k
    | none => 0)) ++
  [(0x100, 4, q.trap.cause), (0x104, 4, q.trap.mask.toNat), (0x108, 8, q.trap.addr), (0x110, 8, q.trap.det)] ++
  (q.lpc.mapIdx fun l a => (0x200 + 8 * l, 8, a)) ++
  ((List.range 64).map fun k => (0x300 + 4 * k, 4, (q.exe.uniReg k).toNat)) ++
  (if q.trap.hmode then (List.range 96).map fun i => (0x400 + 8 * i, 8, (Sparse.get (0 : DWord) q.savedLatch i).toNat) else [])

/-- The register map of an image. -/
def Chip.imageMap (c : Chip) (q : Squad) (live : Nat) : List Nat :=
  (List.range (8 * live)).filter fun n => (c.coming q.uid).contains n || (List.range 32).any fun l => q.exe.reg n l != 0

/-- Write a squad's image (R356). -/
def Chip.writeImage (c : Chip) (base : Nat) (q : Squad) (live : Nat) : Chip :=
  let ns := c.imageMap q live
  let fs := c.imageFields q live
  let c := { c with dev := Sparse.clearRange c.dev base (base + 32768) }
  let c := fs.foldl (fun c f => c.devPut (base + f.1) f.2.1 f.2.2) c
  let c := c.devPut (base + 0x700) 32 ((ns.map fun n => 2 ^ n).sum)
  (ns.mapIdx fun i n => (i, n)).foldl (fun c e => c.devWrite (base + 0x800 + 128 * e.1) ((List.range 32).flatMap fun l => leBytes 4 (q.exe.reg e.2 l).toNat)) c

/-! ### Saving a squad (R355) -/

/-- Header where a squad stands or will stand, if it is at a safe point: for a squad that restarts its region, the restart point (R174). -/
def Chip.safeHeader (c : Chip) (q : Squad) : Option DWord :=
  let at_ := match q.region, q.restart with
    | some r, true => some r.hdrAt
    | _, _ => q.pick.map Pick.addr
  at_.bind fun a => if a % 8 ≠ 0 ∨ 2 ^ 57 ≤ a then none else match c.fetchWord q.place.core q.exe.ctx a with
    | .ok h => if headerOk h.toNat q.exe.declared && bit h.toNat 35 then some h else none
    | .error _ => none

/-- A squad that waits to restart a region takes its restart step (R174). -/
def Squad.restartNow (q : Squad) : Squad :=
  match q.region, q.restart with
  | some r, true =>
    let m := r.mask &&& q.liveMask
    { (((q.setPc m r.hdrAt r.pos false true).setStates m .eligible).dropLatch m) with region := none, restart := false, parked := none }
  | _, _ => q

/-- Bring a squad's registers together: from its block area where it is evicted, and from the landing buffer; none while the block area does not
translate (R355). What landed for lanes that have exited is discarded (R141). -/
def Chip.gather (c : Chip) (q : Squad) : Option Squad :=
  let q? := if q.evicted.isNone then some q
    else
      let here := (List.range q.exe.declared).filter fun n => !(c.abroad q.uid).contains n
      (here.mapM fun n => ((List.range 32).mapM fun l => (c.blockAreaRead q (128 * n + 4 * l) 4).map (BitVec.ofNat 32)).map fun vs => (n, vs)).map
        fun (rf : RegFile) => { q with exe := q.exe.putRegs rf }
  q?.map fun q => ((c.benchOf q).landing.filter fun l => l.uid == q.uid).foldl (fun (q : Squad) l => { q with exe := q.exe.putRegs (q.keepLive l.regs) }) q

/-- Whether something of a squad must still happen before its image is written: stores and atomics without return, escorted ones too, arrivals, puts
(R355). -/
def Chip.unsaved (c : Chip) (q : Squad) : Bool :=
  (c.requests.any fun r => r.agent == .squad q.uid && (!r.returns || (r.dst.isNone && !r.isOver))) || (c.updates.any fun u => u.uid == some q.uid) ||
    (c.fab.cmds.any fun f => f.uid == q.uid && f.kind != 1)

/-- What a save image does not hold of a squad. (DESIGN CHOICE, log 72.) -/
def Squad.extras (q : Squad) (slot : Nat) : SavedSquad :=
  { uid := q.uid, slot, launch := q.launch, spawned := q.spawned, entry := q.entry, st := q.st, resume := q.resume
    byResume := q.byResume, trap := q.trap, contLeft := q.contLeft, quota := q.quota, badResponse := q.badResponse, stackNo := q.stackNo
    savedAt := if q.trap.hmode then q.savedAt else List.replicate 32 [none, none, none] }

/-- The core set that takes what a context saves on a core: the one being saved, or a new one. -/
def Chip.coreSetFor (c : Chip) (x n : Nat) (target : Option Nat) : Nat × Chip :=
  match c.coreSets.find? fun s => s.ctx == x && s.core == n && !s.complete && s.target == target with
  | some s => (s.id, c)
  | none => (c.nextId, { c with coreSets := c.coreSets ++ [{ id := c.nextId, ctx := x, core := n, squads := [], musters := [], target }], nextId := c.nextId + 1 })

/-- Change a core set. -/
def Chip.modSet (c : Chip) (id : Nat) (f : CoreSet → CoreSet) : Chip := { c with coreSets := c.coreSets.map fun s => if s.id = id then f s else s }

/-- Write a squad's image into the lowest free slot and take the squad off its bench. -/
def Chip.storeSquad (c : Chip) (q : Squad) (live : Nat) (target : Option Nat) : Chip :=
  match c.freeImage q.exe.ctx with
  | none => c
  | some slot =>
    let c := c.writeImage (c.image q.exe.ctx slot) q live
    let r := c.coreSetFor q.exe.ctx q.place.core target
    let c := r.2.modSet r.1 fun s => { s with squads := s.squads ++ [q.extras slot] }
    { c.modBenchOf q fun b => { b with landing := b.landing.filter fun l => l.uid != q.uid } with squads := c.squads.filter fun x => x.uid != q.uid }

/-- The move that a squad belongs to (R361). -/
def Chip.moveOf (c : Chip) (q : Squad) : Option Move :=
  c.moves.find? fun m => m.core == q.place.core && c.inGroup m q.launch q.exe.mslots

/-- Whether some squad of a move has been saved: from then on the move is not abandoned (R361). -/
def Chip.moveSaves (c : Chip) (m : Move) : Bool :=
  c.coreSets.any fun s => s.core == m.core && s.target == some m.target && ((c.launch? m.launch).map (·.ctx)) == some s.ctx

/-- Whether every squad of a move has stopped. -/
def Chip.allStopped (c : Chip) (m : Move) : Bool := c.squads.all fun q => (c.moveOf q) != some m || q.stopped

/-- Save a squad that is to leave its core (R355): it stops; its region commits and its write-combining entries drain; then its image is written. -/
def Chip.saveSquad (c : Chip) (q : Squad) : Chip :=
  match c.safeHeader q with
  | none => c
  | some h =>
    if q.exe.inClause || q.dead || q.deferred.isSome || !c.stopPending q then c
    else
      let c := c.modSquad q.uid fun q => { q with stopped := true }
      let mv := if (c.core q.place.core).preempt == some q.exe.ctx then none else c.moveOf q
      if mv.any fun m => !c.allStopped m then c
      else if c.regionHeld q then c.commitRegion q.uid
      else
        let c := (if q.restart then c.modSquad q.uid Squad.restartNow else c.commitRegion q.uid).drainWc q.uid
        match c.squad? q.uid with
        | none => c
        | some q => if c.unsaved q then c else match c.gather q with
          | none => c.blockAreaFault q { r := true }
          | some q => c.storeSquad q (bits h.toNat 31 24) (mv.map Move.target)

/-- Save a squad that a bin has formed for a pre-emption or a migration (R36, R361), in a migration once every squad of the group has stopped: all its
declared registers are saved. (DEDUCED, log 70.) -/
def Chip.saveFormed (c : Chip) (f : Formed) : Chip :=
  let pre := (c.core f.core).preempt == some f.ctx
  let mv := if pre then none else c.moves.find? fun m => m.core == f.core && c.inGroup m f.launch [f.muster]
  if !f.saves || !(pre || mv.any c.allStopped) || (c.freeImage f.ctx).isNone then c
  else match c.launch? f.launch with
    | none => c
    | some l =>
      let uid := c.nextId
      let c := c.startSquad l { core := f.core } 0 f.entry f.declared [f.muster, none, none, none] (some f.threads)
      match c.squad? uid with
      | none => c
      | some q => ({ c with formed := c.formed.filter fun g => g.id != f.id } : Chip).storeSquad q (f.declared / 8) (mv.map Move.target)

/-- SQUAD_SAVE. -/
def execSquadSave (uid : Nat) := fun (s : State) =>
  onChip s (match s.chip.squad? uid with
    | some q => s.chip.saveSquad q
    | none => match s.chip.formed.find? fun f => f.id == uid with
      | some f => s.chip.saveFormed f
      | none => s.chip)

/-- SAVED_REPLY: a reply of a saved squad is written into its image (R357). -/
def execSavedReply (id : Nat) := fun (s : State) =>
  onChip s (match s.chip.request? id with
    | some r => match r.agent with
      | .squad uid => if (s.chip.saved? uid).isSome then s.chip.landReq id else s.chip
      | .thread _ _ => s.chip
    | none => s.chip)

/-! ### Muster core state (R358) -/

/-- Musters of some launches that hold a window, a timeline slot or a bound queue on a core. -/
def Chip.mustersOn (c : Chip) (n : Nat) (p : Launch → Muster → Bool) : List (Launch × Muster) :=
  c.launches.flatMap fun l => (l.musters.filter fun m => p l m && m.cores.contains n &&
    (((c.core n).window? l.id m.idx).isSome || (c.core n).slots.any (fun s => s.owners.contains (l.id, m.idx)) ||
      (c.core n).queues.any fun q => q.state != .free && q.launch == l.id && q.muster == m.idx)).map fun m => (l, m)

/-- Quarry threads of a muster on a core. -/
def Chip.threadsOf (c : Chip) (n launch muster : Nat) : List (Nat × QThread) :=
  (List.range 16).filterMap fun t => (c.thread? n t).bind fun th => if th.launch = launch ∧ th.muster = muster then some (t, th) else none

/-- Queues of a muster on a core. -/
def Chip.queuesOf (c : Chip) (n launch muster : Nat) : List (Nat × Queue) :=
  (List.range 16).filterMap fun i => let q := c.queue n i; if q.state ≠ .free ∧ q.launch = launch ∧ q.muster = muster then some (i, q) else none

/-- Numbers of a slot that are not complete. -/
def Slot.open_ (s : Slot) : List Nat := ((List.range (s.issue - s.done)).map fun i => s.done + 1 + i).filter fun k => !s.finished.contains k

/-- Whether the commands of a muster's slots on a core are complete, but for start commands whose threads are saved with it; every `fget` has
written its responses, and every ring round has drained (R358). (DEDUCED, log 74.) -/
def Chip.slotsQuiet (c : Chip) (n : Nat) (l : Launch) (m : Muster) : Bool :=
  (List.range 64).all fun i =>
    let s := (c.core n).slots.getD i {}
    !s.owners.contains (l.id, m.idx) ||
      (s.open_.all (fun k => (List.range 16).any fun t => ((c.thread? n t).any fun th => th.launch == l.id && th.slot == i && th.num == k)) &&
        !(c.fab.cmds.any fun f => f.kind == 1 && f.core == n && f.slot == i) && !(c.rings.any fun r => r.core == n && r.slot == i))

/-- Whether the quarry threads of a muster have stopped at a clause start, with their reads and stores over (R228). A thread that is parked inside a clause
has not stopped, and holds the save open. (DEDUCED, log 95.) -/
def Chip.threadsQuiet (c : Chip) (n launch muster : Nat) : Bool :=
  (c.threadsOf n launch muster).all fun t => !t.2.exe.inClause && !(c.requests.any fun r => r.agent == .thread n t.1)

/-- Whether scratch accesses of saved squads of a context are still under way on a core: its windows are written and freed after them. (DEDUCED, log 74.) -/
def Chip.scratchOpen (c : Chip) (x n : Nat) : Bool :=
  c.requests.any fun r => r.scratch && r.core == n && r.ctx == x && !r.isOver && match r.agent with
    | .squad uid => (c.saved? uid).isSome
    | .thread _ _ => false

/-- Muster-record slots of a context in use. -/
def Chip.recordsUsed (c : Chip) (x : Nat) : List Nat := (c.coreSets.filter fun s => s.ctx == x).flatMap fun s => s.musters.map (·.2.2)

/-- The lowest k free muster-record slots; none where there are fewer. -/
def Chip.freeRecords (c : Chip) (x k : Nat) : Option (List Nat) :=
  let fs := (List.range (((c.ctx? x).map (·.musSlots)).getD 0)).filter fun i => !(c.recordsUsed x).contains i
  if k ≤ fs.length then some (fs.take k) else none

/-- Code of a queue state in a record. -/
def QState.code : QState → Nat
  | .free => 0
  | .loadOpen => 1
  | .loadClosed => 2
  | .faulted => 3
  | .scatterOpen => 4
  | .draining => 5
  | .closed => 6

/-- 512 bytes of a quarry thread in a record, in an order of the model's: x0 to x63, s0 to s7, m0 to m3, program counter, flags, queues it
feeds and drains, start number, slot. (DESIGN CHOICE, log 73.) -/
def threadBytes (k : Core) (t : Nat) (th : QThread) : List Byte :=
  let mask := fun (qs : List Nat) => ((qs.map fun i => 2 ^ i).sum)
  ((List.range 64).flatMap fun n => leBytes 4 (th.exe.reg n 0).toNat) ++ ((List.range 8).flatMap fun i => leBytes 4 (th.exe.uniReg i).toNat) ++
    (th.exe.mslots.flatMap fun m => leBytes 4 (match m with
      | some i => fld 31 1 + i
      | none => 0)) ++ leBytes 8 th.exe.hdrAt ++ leBytes 8 ((th.exe.flags.mapIdx fun i f => fld i (b01 (f.getLsbD 0))).sum) ++
    leBytes 4 (mask (k.feeds t)) ++ leBytes 4 (mask (k.drains t)) ++ leBytes 8 th.num ++ leBytes 8 th.slot

/-- 8,256 bytes of a queue in a record, in an order of the model's: state, thread, read position, next number, number of entries, fill position of
the last, closed entries, and the entries. (DESIGN CHOICE, log 73.) -/
def queueBytes (q : Queue) : List Byte :=
  let hd := leBytes 1 q.state.code ++ leBytes 1 q.thread ++ leBytes 2 q.readPos ++ leBytes 4 q.next ++ leBytes 1 q.entries.length ++
    leBytes 1 ((q.entries.getLast?.map (·.fill)).getD 0) ++ leBytes 2 0 ++ leBytes 8 ((q.entries.mapIdx fun i e => fld i (b01 e.shut)).sum) ++ leBytes 44 0
  hd ++ (q.entries.flatMap fun (e : QEntry) => e.bytes)

/-- Write a muster's record (R358). -/
def Chip.writeRecord (c : Chip) (x n set slot : Nat) (l : Launch) (m : Muster) : Chip :=
  let k := c.core n
  let base := ((c.ctx? x).map (·.musBase)).getD 0 + 0x230000 * slot
  let w := k.window? l.id m.idx
  let lo := (w.map (·.base)).getD 0
  let lines := (w.map (·.lines)).getD 0
  let mask := fun (p : Nat → Bool) => (((List.range 64).filter p).map fun i => 2 ^ i).sum
  let lineMask := fun (p : Nat → Bool) => (((List.range lines).filter p).map fun i => 2 ^ i).sum
  let held := (List.range 64).filter fun i => bit m.timelines i
  let c := { c with dev := Sparse.clearRange c.dev base (base + 0x230000) }
  let c := c.devPut base 64 (fld 224 (set % 65536) + fld 160 l.number + fld 152 m.idx + fld 144 m.check + fld 128 m.lines +
    fld 64 (mask fun i => bit m.timelines i && (k.slots.getD i {}).fault) + m.timelines)
  let c := held.foldl (fun c i => c.devPut (base + 0x40 + 16 * i) 16 (fld 64 (k.slots.getD i {}).done + (k.slots.getD i {}).issue)) c
  let c := c.devPut (base + 0x440) 2048 (lineMask fun i => !Sparse.get false k.absent (lo + i))
  let c := c.devPut (base + 0xC40) 2048 (lineMask fun i => Sparse.get false k.written (lo + i))
  let c := c.devWrite (base + 0x1440) ((List.range lines).flatMap fun i => leBytes 2 (Sparse.get (0xFF00 : BitVec 16) k.race (lo + i)).toNat)
  let c := (c.threadsOf n l.id m.idx).foldl (fun (c : Chip) t => c.devWrite (base + 0x9440 + 512 * t.1) (threadBytes k t.1 t.2)) c
  let c := (c.queuesOf n l.id m.idx).foldl (fun (c : Chip) q => c.devWrite (base + 0xB440 + 8256 * q.1) (queueBytes q.2)) c
  c.devWrite (base + 0x30000) (k.scratch.bytes (128 * lo) (128 * lines))

/-- Save one muster's core state: its record is written and its window, slots, queues and threads are freed (R358). -/
def Chip.saveMuster (c : Chip) (x n set slot : Nat) (l : Launch) (m : Muster) : Chip :=
  let ts := c.threadsOf n l.id m.idx
  let qs := c.queuesOf n l.id m.idx
  let c := c.writeRecord x n set slot l m
  let c := c.modCore n fun (k : Core) => { (k.freeMuster l.id m.idx) with threads := k.threads.mapIdx fun t th => if ts.any fun e => e.1 == t then none else th }
  let c := c.modMuster l.id m.idx fun m => { m with cores := m.cores.filter fun i => i != n }
  c.modSet set fun s => { s with musters := s.musters ++ [(l.id, m.idx, slot)], threads := s.threads ++ ts, queues := s.queues ++ qs }

/-- Save the core state of the musters that satisfy p, where nothing of theirs is under way and records are free. -/
def Chip.saveCore (c : Chip) (x n : Nat) (target : Option Nat) (p : Launch → Muster → Bool) : Option Chip :=
  let ms := c.mustersOn n p
  if c.scratchOpen x n || !ms.all fun e => c.slotsQuiet n e.1 e.2 && c.threadsQuiet n e.1.id e.2.idx then none
  else (c.freeRecords x ms.length).map fun slots =>
    let r := c.coreSetFor x n target
    let c := (ms.zip slots).foldl (fun c e => c.saveMuster x n r.1 e.2 e.1.1 e.1.2) r.2
    c.modSet r.1 fun s => { s with complete := true }

/-- MUSTER_CORE_SAVE: once every squad of the context on the core, or of a group that moves, is saved, with those that are placed there and those that
bins still form (R36, R358). Ring rounds that have not started fail then (R243). -/
def Chip.musterSave (c : Chip) (n : Nat) : Chip :=
  match (c.core n).preempt with
  | some x =>
    let c := (c.formBins n fun b => b.ctx == x).recallFormed n
    if !c.emptied n x || c.launches.any fun l => l.ctx == x && l.placing.any fun p => p.2.core == n then c
    else
      let c := c.failRounds fun r => r.ctx == x && c.ringCore n r
      match c.saveCore x n none fun l _ => l.ctx == x with
      | none => c
      | some c =>
        let off := fun (m : Muster) => { m with cores := m.cores.filter fun i => i != n }
        let c := { c with launches := c.launches.map fun (l : Launch) => if l.ctx = x then { l with musters := l.musters.map off } else l }
        c.modCore n fun k => { k with preempt := none }
  | none => match c.moves.find? fun m => m.core == n with
    | none => c
    | some m => match c.launch? m.launch with
      | none => c
      | some l =>
        let g := l.groupOf m.muster
        let ours := fun (o : Option Nat) => o.any g.contains
        let c := (c.formBins n fun b => b.launch == l.id && ours b.muster).recallFormed n
        let placing := l.placing.any fun p => p.2.core == n && l.musters.any fun x => g.contains x.idx && x.has p.1
        if !c.leftCore m || placing || c.coreSets.any fun s => s.ctx == l.ctx && s.core == n && s.complete && s.target == some m.target then c
        else
          let off := fun (m : Muster) => if g.contains m.idx then { m with cores := m.cores.filter fun i => i != n } else m
          let c := c.failRounds (c.ringMoves m)
          match c.saveCore l.ctx n (some m.target) fun k mu => k.id == l.id && g.contains mu.idx with
          | none => c
          | some c => c.modLaunch l.id fun l => { l with musters := l.musters.map off }

/-- MUSTER_CORE_SAVE. -/
def execMusterCoreSave (core : Nat) := fun (s : State) => onChip s (s.chip.musterSave core)

/-! ### Closed benches (R360, R381) -/

/-- BENCH_CLOSE_SPILL: a closed bench without resident squads spills its owner's banks, its owner word is invalid, and it is retired. (DEDUCED, log 77.) -/
def Chip.closeSpill (c : Chip) (n b : Nat) : Chip :=
  let x := c.bench n b
  if !x.closed || !(c.onBench n b).isEmpty || !x.drains.isEmpty then c
  else
    let c := if x.accValid then c.spillBench n b else c
    c.modBench n b fun b => { b with accValid := false, accCtx := 0, service := none, enabled := false }

/-- BENCH_CLOSE_SPILL. -/
def execBenchCloseSpill (core bench : Nat) := fun (s : State) => onChip s (s.chip.closeSpill core bench)

/-! ### Migration (R361) -/

/-- Whether a placement group may move from a core to another (R361): its context allows it, it is placed there, the other core is enabled and meets
R31 and R10. -/
def Chip.mayMove (c : Chip) (l : Launch) (m : Muster) (n n' : Nat) : Bool :=
  let g := l.groupOf m.idx
  let squads := (List.range l.squads).filter fun i => l.musters.any fun x => g.contains x.idx && x.has i
  ((c.ctx? l.ctx).map (·.migrate)).getD false && m.place == 2 && m.cores.contains n && n != n' && (c.core n').enabled && decide (n' < c.cores.length) &&
    (c.core n).preempt.isNone && (c.core n').preempt.isNone && !(c.moves.any fun k => k.core == n || k.target == n') &&
    c.clusterFits n' (l.unitMusters squads)

/-- MIGRATION: the move begins; the group's squads stop at their next safe points, and its bins form (R36). -/
def Chip.migrate (c : Chip) (launch muster n n' : Nat) : Chip :=
  match c.launch? launch, c.muster? launch muster with
  | some l, some m =>
    if !c.mayMove l m n n' then c
    else
      let g := l.groupOf muster
      (({ c with moves := c.moves ++ [{ launch, muster, core := n, target := n' }] } : Chip).formBins n fun b =>
        b.launch == launch && b.muster.any g.contains).recallFormed n
  | _, _ => c

/-- MIGRATION. -/
def execMigration (launch muster core target : Nat) := fun (s : State) => onChip s (s.chip.migrate launch muster core target)

/-- MIGRATION_ABANDON: a move in which some squad has not stopped, and none is saved yet, ends, and its squads resume; those that bins formed for it wait for
dispatch again (R361). -/
def Chip.abandonMove (c : Chip) : Chip :=
  match c.moves.find? fun m => !c.allStopped m && !c.moveSaves m with
  | none => c
  | some m =>
    Chip.takeAsked
      { c with
        squads := c.squads.map fun q => if c.moveOf q = some m then { q with stopped := false } else q
        formed := c.formed.map fun f => if f.core = m.core ∧ c.inGroup m f.launch [f.muster] = true then { f with saves := false } else f
        moves := c.moves.filter fun x => x != m } m m.core

/-- MIGRATION_ABANDON. -/
def execMigrationAbandon := fun (s : State) => onChip s s.chip.abandonMove

end Sys2Proof.Machine
end

