-- ==== Sys2Proof/Machine/Restore.lean ====
section
/-! DEFINITION. The restore of a core set (R359): its muster records, its squads (R356), and the banks of squads whose bench is closed or whose
group moves (R360, R361). -/

namespace Sys2Proof.Machine

/-! ### Banks that move to another bench (R360, R361) -/

/-- Physical banks that a core set's squads map on a bench, from their images. -/
def Chip.boundBanks (c : Chip) (s : CoreSet) (n k : Nat) : List Nat :=
  (s.squads.flatMap fun q =>
    let img := c.image s.ctx q.slot
    let b := c.dev.le (img + 0x6C) 4
    if bit b 31 ∧ bits b 15 8 = n ∧ bits b 2 0 = k then
      (List.range 16).filterMap fun h => let v := c.dev.le (img + 0xF0 + h) 1; if bit v 7 then some (bits v 3 0) else none
    else []).eraseDups

/-- Benches to which a core set is bound. -/
def Chip.bindings (c : Chip) (s : CoreSet) : List (Nat × Nat) :=
  (s.squads.filterMap fun q => let b := c.dev.le (c.image s.ctx q.slot + 0x6C) 4; if bit b 31 then some (bits b 15 8, bits b 2 0) else none).eraseDups

/-- The masks of a bench record (R267): allocated and hash banks. -/
def Chip.recordWord (c : Chip) (x n k : Nat) : Nat := c.dev.le (c.saveArea x n k + 0x20000) 8

/-- Banks that a context holds on a bench: allocated there while it owns the bench, else recorded as saved. -/
def Chip.banksHeld (c : Chip) (x n k : Nat) : List Nat :=
  let b := c.bench n k
  if b.accValid && b.accCtx == x then (List.range 16).filter fun i => b.modes.getD i .free != .free
  else if c.hasSaved x n k then (List.range 16).filter fun i => bit (c.recordWord x n k) i
  else []

/-- Put a saved bank into a physical bank of a bench that the context owns. -/
def Chip.bankIn (c : Chip) (src i n k j : Nat) (hash : Bool) : Chip :=
  let b := (c.bench n k).clearBanks [j] (if hash then .hash else .dense)
  let b := (List.range 1024).foldl (fun (b : Bench) w => b.setVal j w (c.dev.le (src + 8192 * i + 4 * w) 4)) b
  let b := if hash then (List.range 1024).foldl (fun (b : Bench) w => b.setKey j w (c.dev.le (src + 8192 * i + 4096 + 4 * w) 4)) b else b
  let b := match (if hash then Table.ofDesc j (c.dev.le (src + 0x20040 + 64 * i) 64) else none) with
    | some t => { b with tables := b.tables ++ [t] }
    | none => b
  c.modBench n k fun _ => b

/-- Put a saved bank into the save block of another bench. -/
def Chip.bankAway (c : Chip) (src i dst j : Nat) (hash : Bool) : Chip :=
  let c := c.devWrite (dst + 8192 * j) (c.dev.bytes (src + 8192 * i) 8192)
  let c := c.devPut (dst + 0x20040 + 64 * j) 64 (c.dev.le (src + 0x20040 + 64 * i) 64)
  let w := if bit (c.dev.le (dst + 0x20000) 8) 48 then c.dev.le (dst + 0x20000) 8 else 0
  c.devPut (dst + 0x20000) 8 (fld 48 1 + fld 16 (bankMask fun b => bit w (16 + b) || (hash && b == j)) + bankMask fun b => bit w b || b == j)

/-- Rewrite handle maps and bindings from one bench to another (R360, step 4): of a core set that a move brings, else of every core set of the context,
whose banks have all left the bench. -/
def Chip.rebind (c : Chip) (s : CoreSet) (n k n' k' : Nat) (map : List (Nat × Nat)) : Chip :=
  ((if s.target.isSome then [s] else c.coreSets.filter fun o => o.ctx == s.ctx).flatMap fun o => o.squads).foldl (fun c q =>
    let img := c.image s.ctx q.slot
    let b := c.dev.le (img + 0x6C) 4
    if bit b 31 ∧ bits b 15 8 = n ∧ bits b 2 0 = k then
      let c := (List.range 16).foldl (fun (c : Chip) h =>
        let v := c.dev.le (img + 0xF0 + h) 1
        match (if bit v 7 then map.find? fun e => e.1 == bits v 3 0 else none) with
        | some e => c.devPut (img + 0xF0 + h) 1 (0x80 + e.2)
        | none => c) c
      c.devPut (img + 0x6C) 4 (fld 31 1 + fld 8 n' + k')
    else c) c

/-- Move banks of a core set's context from bench (n, k) to bench (n', k'): the banks named, or none where they do not fit there. A bench that the
context owns is spilled first, and so is another owner of the new bench, each once no drain and no `jrun` is under way on it (R266, R360, R361). -/
def Chip.moveBanks (c : Chip) (s : CoreSet) (n k n' k' : Nat) (banks : List Nat) : Option Chip :=
  let x := s.ctx
  let free := (List.range 16).filter fun i => !(c.banksHeld x n' k').contains i
  let b := c.bench n k
  let d := c.bench n' k'
  let busy := fun (y : Bench) => y.service.isSome || !y.drains.isEmpty || y.tables.any fun t => t.running.isSome
  if free.length < banks.length || busy b || busy d then none
  else
    let c := if b.accValid && b.accCtx == x then c.spillBench n k else c
    let c := if d.accValid && d.accCtx != x then c.spillBench n' k' else c
    let owns := d.accValid && d.accCtx == x
    let src := c.saveArea x n k
    let w := c.recordWord x n k
    let map := banks.zip free
    let c := map.foldl (fun c e => if owns then c.bankIn src e.1 n' k' e.2 (bit w (16 + e.1)) else c.bankAway src e.1 (c.saveArea x n' k') e.2 (bit w (16 + e.1))) c
    let left := bankMask fun i => bit w i && !banks.contains i
    let c := c.devPut (src + 0x20000) 8 (if left = 0 then 0 else fld 48 1 + fld 16 (bankMask fun i => bit w (16 + i) && !banks.contains i) + left)
    some (c.rebind s n k n' k' map)

/-- Squads of a core set that are bound to a bench: how many they are, and the blocks they need. -/
def Chip.boundNeed (c : Chip) (s : CoreSet) (n k : Nat) : Nat × Nat :=
  let ds := s.squads.filterMap fun q =>
    let img := c.image s.ctx q.slot
    let b := c.dev.le (img + 0x6C) 4
    if bit b 31 ∧ bits b 15 8 = n ∧ bits b 2 0 = k then some (bits (c.dev.le (img + 4) 4) 23 16) else none
  (ds.length, ds.sum)

/-- A bench of a core that takes the banks of a binding and its squads: a free slot for each and their blocks, then most free register blocks, then the
lowest number (R343, R360). -/
def Chip.bankBench (c : Chip) (s : CoreSet) (n k n' : Nat) (banks : List Nat) : Option Chip :=
  let need := c.boundNeed s n k
  let room := fun b => decide (need.1 + (c.onBench n' b).length + (c.reserved n' b).length ≤ 32) && c.benchTakes n' b (8 * need.2)
  let open_ := (List.range 6).filter fun b => room b && !(n == n' && b == k)
  let best := (List.range 257).reverse.flatMap fun f => open_.filter fun b => c.freeBlocks n' b == f
  best.findSome? fun b => c.moveBanks s n k n' b banks

/-- Bring the banks of a core set to the core where it is restored: bindings to open benches of that core stay. Banks leave a closed bench once no squad
of the context is left there and the bench has spilled them (R360). -/
def Chip.bringBanks (c : Chip) (s : CoreSet) (n' : Nat) : List (Nat × Nat) → Option Chip
  | [] => some c
  | (n, k) :: rest =>
    if n = n' ∧ !(c.bench n k).closed then c.bringBanks s n' rest
    else if s.target = none ∧ (((c.bench n k).accValid && (c.bench n k).accCtx == s.ctx) || (c.onBench n k).any fun q => q.exe.ctx == s.ctx) then none
    else
      let banks := if s.target.isSome then c.boundBanks s n k else c.banksHeld s.ctx n k
      (c.bankBench s n k n' banks).bind fun c => c.bringBanks s n' rest

/-! ### Muster records (R358, R359) -/

/-- Base of a muster record. -/
def Chip.musterRecord (c : Chip) (x slot : Nat) : Nat := ((c.ctx? x).map (·.musBase)).getD 0 + 0x230000 * slot

/-- A slot as a record holds it: numbers above done are complete but for those of the threads that come back. -/
def Chip.savedSlot (c : Chip) (base i : Nat) (owner : Nat × Nat) (busy : List Nat) : Slot :=
  let issue := c.dev.le (base + 0x40 + 16 * i) 8
  let done := c.dev.le (base + 0x48 + 16 * i) 8
  { issue, done, finished := ((List.range (issue - done)).map fun k => done + 1 + k).filter fun k => !busy.contains k
    fault := bit (c.dev.le (base + 8) 8) i, owners := [owner] }

/-- The window lines that a core gives a muster of a record, with their contents. (DESIGN CHOICE, log 75.) -/
def Chip.restoreWindow (c : Chip) (base n launch idx lines check lo : Nat) : Chip :=
  let phase := match c.launch? launch, c.muster? launch idx with
    | some l, some m => if m.barrier = 0 then 0 else match c.uncopied.xl n l.ctx {} m.barrier 16 with
      | .ok ls => (c.barObj ls).phase
      | .error _ => bits c.free.1.toNat 31 0
    | _, _ => 0
  let c := c.modCore n fun k => k.openWindow { launch, muster := idx, base := lo, lines, check, phase }
  let present := c.dev.le (base + 0x440) 2048
  let written := c.dev.le (base + 0xC40) 2048
  { c.modCore n fun k =>
      { k with
        scratch := k.scratch.setBytes (128 * lo) (c.dev.bytes (base + 0x30000) (128 * lines))
        absent := (List.range lines).foldl (fun (m : Sparse Bool) i => m.set false (lo + i) (!bit present i)) k.absent
        written := (List.range lines).foldl (fun (m : Sparse Bool) i => m.set false (lo + i) (bit written i)) k.written
        race := (List.range lines).foldl (fun (m : Sparse (BitVec 16)) i => m.set 0xFF00 (lo + i) (BitVec.ofNat 16 (c.dev.le (base + 0x1440 + 2 * i) 2))) k.race } with
    fresh := c.fresh + 1 }

/-- Whether a core has free what a core set's records name: slots, queues, a thread for every thread (R359). -/
def Chip.hasRoom (c : Chip) (s : CoreSet) (n : Nat) : Bool :=
  s.musters.all (fun m => match c.muster? m.1 m.2.1 with
    | some mu => (List.range 64).all fun i => !bit mu.timelines i || ((c.core n).slots.getD i {}).owners.isEmpty
    | none => false) &&
    s.queues.all (fun q => (c.queue n q.1).state == .free) &&
    decide (s.threads.length ≤ ((List.range 16).filter fun t => (c.thread? n t).isNone).length)

/-- Restore one muster record of a core set; none where its window does not fit. -/
def Chip.restoreMuster (c : Chip) (s : CoreSet) (n : Nat) (m : Nat × Nat × Nat) : Option Chip :=
  let base := c.musterRecord s.ctx m.2.2
  let hdr := c.dev.le base 64
  let lines := bits hdr 143 128
  let put := fun (c : Chip) =>
    let own := (m.1, m.2.1)
    let busy := fun i => (s.threads.filter fun t => t.2.slot == i && t.2.launch == m.1).map fun t => t.2.num
    let back := fun (i : Nat) (x : Slot) =>
      if !bit hdr i then x else if x.owners.isEmpty then c.savedSlot base i own (busy i) else { x with owners := x.owners ++ [own] }
    let c := c.modCore n fun k => { k with slots := k.slots.mapIdx back }
    c.modMuster m.1 m.2.1 fun mu => { mu with cores := mu.cores ++ [n] }
  if lines = 0 then some (put c)
  else ((c.core n).findLines lines).map fun lo => put (c.restoreWindow base n m.1 m.2.1 lines (bits hdr 151 144) lo)

/-- The musters of a core set that have no record are on the core again with its squads (R358). -/
def Chip.rejoin (c : Chip) (s : CoreSet) (n : Nat) : Chip :=
  (c.setMusters s).foldl (fun c e => c.modMuster e.1 e.2 fun m => if m.cores.contains n then m else { m with cores := m.cores ++ [n] }) c

/-- Restore the muster records in order. -/
def Chip.restoreMusters (c : Chip) (s : CoreSet) (n : Nat) : List (Nat × Nat × Nat) → Option Chip
  | [] => some c
  | m :: ms => (c.restoreMuster s n m).bind fun c => c.restoreMusters s n ms

/-- Bind the queues again and resume the quarry threads in free threads of the core; a thread that stood at a header reaches it by the restore (R80,
R228, R359). -/
def Chip.restoreThreads (c : Chip) (s : CoreSet) (n : Nat) : Chip :=
  let free := (List.range 16).filter fun t => (c.thread? n t).isNone
  let map := (s.threads.zip free).map fun e => (e.1.1, e.2)
  let c := (s.threads.zip free).foldl (fun (c : Chip) e =>
    c.modCore n fun k => { k with threads := k.threads.set e.2 (some { e.1.2 with byTransfer := false, exe := { e.1.2.exe with core := n, thread := some e.2 } }) }) c
  s.queues.foldl (fun c q => c.modQueue n q.1 fun _ =>
    if q.2.ended then q.2 else { q.2 with thread := ((map.find? fun e => e.1 == q.2.thread).map (·.2)).getD q.2.thread }) c

/-! ### Squads (R356, R359) -/

/-- Lane state of an image code; which ensign a lane waits on the image does not say. -/
def LaneState.ofCode (v : Nat) (ens : LaneState) : LaneState :=
  if v = 0 then .eligible else if v = 1 then .yielded else if v = 14 then ens else if v = 15 then .exited else .burgeeWait (v - 2)

/-- The squad that an image holds, with what the image leaves out; its lanes reach their headers by the restore (R80). -/
def Chip.squadOf (c : Chip) (x : Nat) (v : SavedSquad) (pl : Place) : Squad :=
  let b := c.image x v.slot
  let f := fun (off n : Nat) => c.dev.le (b + off) n
  let word := f 4 4
  let d := 8 * bits word 23 16
  let rmap := f 0x700 32
  let regs := ((List.range 240).filter fun n => bit rmap n).foldl (fun (m : Sparse Word) n =>
    (List.range 32).foldl (fun (m : Sparse Word) l => m.set 0 (32 * n + l) (BitVec.ofNat 32 (f (0x800 + 128 * mapRank rmap n + 4 * l) 4))) m) []
  let uni := (List.range 64).foldl (fun (m : Sparse Word) k => m.set 0 k (BitVec.ofNat 32 (f (0x300 + 4 * k) 4))) []
  let lane := f 0x20 16
  { uid := v.uid, place := pl, launch := v.launch, number := f 8 4, spawned := v.spawned, entry := v.entry, dispatched := c.order
    stackNo := v.stackNo, lastIssue := c.order
    exe :=
      { ctx := x, core := pl.core, regs, uni, declared := d, mslots := c.savedSlots x v
        flags := (List.range 7).map fun k => maskOf fun l => bit (f (0x70 + l) 1) k }
    lpc := (List.range 32).map fun l => f (0x200 + 8 * l) 8
    st := (List.range 32).map fun l => LaneState.ofCode (bits lane (4 * l + 3) (4 * l)) (v.st.getD l (.ensignWait 0))
    resume := v.resume, byResume := v.byResume, deferred := v.deferred
    burgees := (List.range 12).map fun i => BitVec.ofNat 32 (f (0x30 + 4 * i) 4)
    ensigns := (List.range 4).map fun i =>
      let e := f (0x90 + 24 * i) 24
      { isOpen := bit e 0, armed := bit e 1, set := BitVec.ofNat 32 (bits e 63 32), signed := BitVec.ofNat 32 (bits e 95 64), cont := bits e 191 128 }
    pennants := (List.range 12).map fun i => f (0x60 + i) 1
    handles := (List.range 16).map fun h => let k := f (0xF0 + h) 1; if bit k 7 then some (bits k 3 0) else none
    trap := { v.trap with hmode := bit word 1, cause := f 0x100 4, mask := BitVec.ofNat 32 (f 0x104 4), addr := f 0x108 8, det := f 0x110 8 }
    savedLatch := if bit word 1 then (List.range 96).foldl (fun (m : Sparse DWord) i => m.set 0 i (BitVec.ofNat 64 (f (0x400 + 8 * i) 8))) [] else []
    savedAt := v.savedAt, contLeft := v.contLeft, scfMask := BitVec.ofNat 32 (f 12 4), quota := v.quota, badResponse := v.badResponse
    resident := List.range (d / 8) }

/-- Bench for a saved squad on a core: its bound bench, else the one R343 picks. -/
def Chip.benchFor (c : Chip) (x n : Nat) (v : SavedSquad) : Option Nat :=
  let b := c.dev.le (c.image x v.slot + 0x6C) 4
  let d := 8 * bits (c.dev.le (c.image x v.slot + 4) 4) 23 16
  if bit b 31 then (if c.benchTakes n (bits b 2 0) d then some (bits b 2 0) else none) else c.pickBench n d

/-- Restore a squad on a core: an acquire at system scope (R57). -/
def Chip.restoreSquad (c : Chip) (x n : Nat) (v : SavedSquad) : Option Chip :=
  (c.benchFor x n v).map fun b =>
    let q := c.squadOf x v { core := n, bench := b, slot := (c.freeSlot n b).getD 0 }
    { c.dropL1 n with squads := c.squads ++ [q], order := c.order + 1 }

/-- Restore squads in the order given. -/
def Chip.restoreSquads (c : Chip) (x n : Nat) : List SavedSquad → Option Chip
  | [] => some c
  | v :: vs => (c.restoreSquad x n v).bind fun c => c.restoreSquads x n vs

/-! ### The core set (R359) -/

/-- Squads of a core set in ascending squad number. -/
def Chip.setOrder (c : Chip) (s : CoreSet) : List SavedSquad :=
  let num := fun (v : SavedSquad) => c.dev.le (c.image s.ctx v.slot + 8) 4
  let rec ins (v : SavedSquad) : List SavedSquad → List SavedSquad
    | [] => [v]
    | w :: ws => if num v < num w then v :: w :: ws else w :: ins v ws
  s.squads.foldl (fun xs v => ins v xs) []

/-- Whether a core may take a core set (R31, R354, R359). -/
def Chip.setFits (c : Chip) (s : CoreSet) (n : Nat) : Bool := c.coreOpen n s.ctx && c.mayReside n s.ctx && c.setMeets s n

/-- Cores on which a core set may be restored, in order: the target of a move, the core it is bound to, or any (R359, R360, R361). -/
def Chip.setCores (c : Chip) (s : CoreSet) : List Nat :=
  match s.target with
  | some t => [t]
  | none => match c.boundCore s with
    | none => c.coreOrder fun _ => true
    | some n => if (List.range 6).any fun b => (c.bench n b).enabled && !(c.bench n b).closed then [n] else c.coreOrder fun m => m != n

/-- Restore a core set on a core as one unit; none where it does not fit. -/
def Chip.setOnto (c : Chip) (s : CoreSet) (n : Nat) : Option Chip :=
  if !c.setFits s n || !c.hasRoom s n then none
  else
    (c.bringBanks s n (c.bindings s)).bind fun c => (c.restoreMusters s n s.musters).bind fun c =>
      (((c.restoreThreads s n).rejoin s n).restoreSquads s.ctx n (c.setOrder s)).map fun c =>
        let c := { c with coreSets := c.coreSets.filter fun x => x.id != s.id }
        match c.moves.find? fun m => m.core == s.core && s.target == some m.target with
        | none => c
        | some m => { c with moves := c.moves.filter fun x => x != m }.takeAsked m n

/-- CORE_SET_RESTORE: once every reply of its squads has landed (R357). A core whose cluster is not On is woken and serves the restore when it is
(R346). -/
def restoreStep (s : State) (id : Nat) : State :=
  match s.chip.coreSets.find? fun k => k.id == id with
  | none => s
  | some k =>
    let waits := k.squads.any fun v => s.chip.dev.le (s.chip.image k.ctx v.slot) 4 != 0
    if !k.complete || waits then s
    else match (s.chip.setCores k).findSome? fun n => (s.chip.setOnto k n).map fun d => (n, d) with
      | none => s
      | some (n, d) => if s.chip.coreOn n then { s with chip := d } else s.wakeFor n

/-- CORE_SET_RESTORE. -/
def execCoreSetRestore (id : Nat) := fun (s : State) => (.next (restoreStep s id) : Host.Outcome State Fault Refusal)

end Sys2Proof.Machine
end

