-- ==== Sys2Proof/Machine/QuarryEvents.lean ====
section
/-! DEFINITION. What the quarry does on its own: clause starts of quarry threads (R210, R211), start commands (R221, R222), landing reads (R218). -/

namespace Sys2Proof.Machine

/-- Whether a quarry thread may run under a header (R210). -/
def threadHeaderOk (h : Nat) : Bool :=
  bits h 63 60 == 3 && bits h 55 44 == 0 && bits h 43 40 == 15 && bits h 39 36 == 15 && bits h 35 32 == 0 && bits h 31 24 == 0 && bits h 23 0 == 0

/-- Whether a thread is to stop at its next clause start: its context leaves the core, or its muster's group moves, and the last squad concerned has
been saved (R228, R358, R361). -/
def Chip.threadStops (c : Chip) (n : Nat) (th : QThread) : Bool :=
  c.emptied n th.exe.ctx || c.moves.any fun m => m.core == n && c.inGroup m th.launch [some th.muster] && c.leftCore m

/-- The condition that a thread's header raises: an illegal target where a transfer led to it, else an illegal clause (R210). -/
def QThread.headerTrap (th : QThread) (hdr : DWord) : Trap :=
  if th.byTransfer then { cause := 3, det := th.exe.hdrAt } else { cause := 2, det := hdr.toNat }

/-- The word of a thread at an address: a fetch whose page was reported unresolvable fails (R179). -/
def Chip.threadWord (c : Chip) (n : Nat) (th : QThread) (va : Nat) : Except XErr DWord :=
  if c.failedIn th.id va 8 then .error (.access 3) else c.fetchWord n th.exe.ctx va

/-- A page of a thread's code is not present: the thread waits (R178, R179), for a copy to end where that is all (R381). -/
def Chip.threadFetchFault (c : Chip) (n : Nat) (th : QThread) (va : Nat) : Chip :=
  if c.fetchHeld n th.exe.ctx va then c else c.engineFault th.exe.ctx va n th.id { x := true }

/-- A quarry thread between clauses starts its next clause, or faults at it (R209 to R212). -/
def Chip.quarryStart (c : Chip) (n t : Nat) (th : QThread) : Chip :=
  let a := th.exe.hdrAt
  if a % 8 ≠ 0 ∨ 2 ^ 57 ≤ a then c.quarryFault n t (if th.byTransfer then { cause := 3, det := a } else threadFault 0 a)
  else match c.threadWord n th a with
    | .error (.absent va) => c.threadFetchFault n th va
    | .error (.access r) => c.quarryFault n t (threadFault r a)
    | .ok hdr =>
      if !threadHeaderOk hdr.toNat then c.quarryFault n t (th.headerTrap hdr)
      else
        { (c.fillTlb n th.exe.ctx a).modThread n t (fun th => { th with
            byTransfer := false
            exe := { th.exe with hdr, pos := 0, active := 1, inClause := true, latch := [], latchAt := [none, none, none] } }) with
          turn := some (.thread n t) }

/-- QUARRY_ISSUE: a thread between clauses starts one; a thread inside a clause goes on with its next instruction. -/
def Chip.quarryIssue (c : Chip) (n t : Nat) : Chip :=
  match c.thread? n t with
  | none => c
  | some th =>
    if th.exe.inClause then { c with turn := some (.thread n t) }
    else if c.threadStops n th then c
    else c.quarryStart n t th

/-- QUARRY_ISSUE. -/
def execQuarryIssue (core thread : Nat) := fun (s : State) => onChip s (s.chip.quarryIssue core thread)

/-- QUARRY_START_TAKEN. -/
def execQuarryStartTaken (core : Nat) := fun (s : State) => onChip s (s.chip.takeStart core)

/-- QUARRY_READ_LANDING: a performed access of a thread is over. -/
def execQuarryReadLanding (id : Nat) := fun (s : State) => onChip s (s.chip.landThread id)

/-- QUARRY_START_COMPLETION. -/
def execQuarryStartCompletion (core id : Nat) := fun (s : State) => onChip s (s.chip.completeStart core id)

end Sys2Proof.Machine
end

