-- ==== Sys2Proof/Machine/Platform.lean ====
section
/-! DEFINITION. The platform: remap and swaps of the capacity tier (R366 to R368), refresh (R371), the status block (R372), host accesses
(R373), boot and recovery (R374, R375), clocks and power (R20, R379, R380), error counters and retirements (R381, R382). -/

namespace Sys2Proof.Machine

/-- An event of the platform. -/
def onState (t : State) : Host.Outcome State Fault Refusal := .next t

/-- The next free value of the machine. -/
def State.free (s : State) : Nat × State := ((s.chip.free).1.toNat, { s with chip := (s.chip.free).2 })

/-- The device writes a field of the status block, once it is Running (R372). -/
def State.statusPut (s : State) (off n v : Nat) : State :=
  if s.chip.running then { s with chip := s.chip.devPut (s.chip.status + off) n v } else s

/-! ### The capacity tier (R366 to R368) -/

/-- The member that holds slot k. -/
def memberAt (e : BitVec 16) (k : Nat) : Nat := ((List.range 4).find? fun m => slotIn e m == k).getD 0

/-- The entry with the slots of members a and b exchanged. -/
def swapSlots (e : BitVec 16) (a b : Nat) : BitVec 16 :=
  let put := fun (m : Nat) => if m = a then slotIn e b else if m = b then slotIn e a else slotIn e m
  BitVec.ofNat 16 (fld 8 (bits e.toNat 15 8) + fld 6 (put 3) + fld 4 (put 2) + fld 2 (put 1) + put 0)

/-- Whether a member of a group exists (R366). -/
def Chip.memberExists (c : Chip) (g m : Nat) : Bool := decide (g < c.fast / 65536) && decide (m < 4) && c.exists (m * c.fast + 65536 * g)

/-- TIER_COUNT_HALVING (R368). -/
def execTierCountHalving := fun (s : State) =>
  onState { s with plat := { s.plat with counts := s.plat.counts.filterMap fun e => if e.2 / 2 = 0 then none else some (e.1, e.2 / 2) } }

/-- Whether the launches in progress reach a member as a page of a streaming range, and no access that counts has reached it (R369). -/
def Chip.streamed (c : Chip) (key : Nat) : Bool :=
  (c.launches.any fun l => l.hints.any fun h => h.hint == 1 && h.members.contains key) && !c.reached.contains key

/-- The DRAM accesses since the counts were last looked at are added to a member's count: none where accesses to streaming ranges alone have reached
it (R369). How many there are rests on what the caches hold: a free value. (DESIGN CHOICE, log 65.) -/
def State.countAccesses (s : State) (g m : Nat) : State :=
  if s.chip.streamed (4 * g + m) then s
  else
    let v := s.free
    { v.2 with plat := { s.plat with counts := s.plat.counts.set 0 (4 * g + m) (min 255 (s.plat.counts.get 0 (4 * g + m) + v.1 % 256)) } }

/-- The hint ranges of the launches in progress once a member has moved into a capacity slot (R370). -/
def Chip.slowed (c : Chip) (key : Nat) : Chip :=
  { c with launches := c.launches.map fun l => { l with hints := l.hints.map fun h => { h with slow := h.slow || h.members.contains key } } }

/-- TIER_SWAP of a member held in a capacity slot with the fast member of its group. Where the group is not pinned and the member's count
exceeds the fast member's by 16 or more, the two pages and the two slot fields are exchanged, so no address reads otherwise (R368). Where it does
not, nothing is exchanged and both counts are brought up to date. (DESIGN CHOICE, log 66.) -/
def State.tierSwap (s : State) (g m : Nat) : State :=
  let e := s.plat.entry g
  let f := memberAt e 0
  if s.chip.cap = 0 ∨ !s.chip.memberExists g m ∨ bit e.toNat 8 ∨ slotIn e m = 0 then s
  else if s.plat.counts.get 0 (4 * g + f) + 16 ≤ s.plat.counts.get 0 (4 * g + m) then
    { s with chip := s.chip.slowed (4 * g + f), plat := { s.plat with remap := s.plat.remap.set 0xE4 g (swapSlots e f m) } }
  else (s.countAccesses g f).countAccesses g m

/-- TIER_SWAP. -/
def execTierSwap (group member : Nat) := fun (s : State) => onState (s.tierSwap group member)

/-! ### Refresh (R371) -/

/-- Whether a DRAM channel works, by its kind-4 code: of a fitted stack or of the capacity tier, and not retired (R1, R2, R94, R381). -/
def Chip.channelWorks (c : Chip) (code : Nat) : Bool :=
  !c.retired.contains code && ((decide (code < 256) && c.fitted.contains (code / 32)) || (c.cap != 0 && decide (512 ≤ code) && decide (code < 576)))

/-- Kind-4 code of the channel with an index in the status block's refresh field (R94, R372). -/
def channelCode (ch : Nat) : Nat := if ch < 256 then ch else 256 + ch

/-- Give a working channel a balance and report it. -/
def State.setBalance (s : State) (ch : Nat) (f : Int → Int) : State :=
  match s.plat.refresh[ch]? with
  | none => s
  | some b =>
    if !s.chip.channelWorks (channelCode ch) then s else ({ s with plat := { s.plat with refresh := s.plat.refresh.set ch (f b) } }).statusPut (0x100 + ch) 1 (pattern 8 (f b))

/-- REFRESH_TICK: the balance falls by 1; at −8 the channel refreshes at once and the balance stays. -/
def execRefreshTick (channel : Nat) := fun (s : State) => onState (s.setBalance channel fun b => max (-8) (b - 1))

/-- REFRESH_PULL_IN: an idle channel with a balance below 8 refreshes and the balance rises by 1. -/
def execRefreshPullIn (channel : Nat) := fun (s : State) => onState (s.setBalance channel fun b => if b < 8 then b + 1 else b)

/-! ### Clocks and energy (R20, R379, R380) -/

/-- The clocks of a core, in MHz (R5). -/
def clockSteps : List Nat := [1000, 1600, 2000, 2500]

/-- One step up. -/
def clockUp (f : Nat) : Nat := if f < 1600 then 1600 else if f < 2000 then 2000 else 2500

/-- One step down. -/
def clockDown (f : Nat) : Nat := if f ≤ 1600 then 1000 else if f ≤ 2000 then 1600 else 2000

/-- The clock after a window with I issuing cycles and M held ones (R379): s = I / (I + M). -/
def clockNext (f i m : Nat) : Nat := if i + m = 0 then clockUp f else if 4 * i < i + m then clockDown f else if i + m ≤ 2 * i then clockUp f else f

/-- The clock that a core's benches run at: its controller's, held lower by the package limiter (R20, R379). -/
def Plat.clock (p : Plat) (n : Nat) : Nat := min (p.clocks.getD n 2500) (p.limits.getD n 2500)

/-- Report a core's clock. -/
def State.clockReport (s : State) (n : Nat) : State := s.statusPut (0x300 + 4 * n) 4 (s.plat.clock n)

/-- The power statistics move on: array reads and writes suppressed on a core since the last time are free values, since zero flags have no
other visible effect (R91, R372). -/
def State.countSuppressed (s : State) (n : Nat) : State :=
  let v := s.free
  let x := s.plat.suppressed.getD n (0, 0)
  let y := ((x.1 + bits v.1 31 0) % 2 ^ 64, (x.2 + bits v.1 63 32) % 2 ^ 64)
  (({ v.2 with plat := { s.plat with suppressed := modAt s.plat.suppressed n fun _ => y } }).statusPut (0x400 + 16 * n) 8 y.1).statusPut
    (0x408 + 16 * n) 8 y.2

/-- Energy is added to a context: how much is a free value (R372, R380). (DESIGN CHOICE, log 67.) -/
def State.addEnergy (s : State) (x : Nat) : State :=
  let v := s.free
  let e := (s.plat.energy.getD x 0 + bits v.1 31 0) % 2 ^ 64
  ({ v.2 with plat := { s.plat with energy := modAt s.plat.energy x fun _ => e } }).statusPut (0x800 + 8 * x) 8 e

/-- Energy is added to each of some contexts. -/
def State.addEnergies (s : State) (xs : List (Option Nat)) : State := (xs.filterMap id).foldl State.addEnergy s

/-- CLOCK_WINDOW_END of a core. Its power statistics are brought up to date with it. -/
def State.windowEnd (s : State) (n i m : Nat) : State :=
  if !(s.chip.core n).enabled || !decide (n < s.plat.clocks.length) then s
  else
    let t : State := { s with plat := { s.plat with clocks := modAt s.plat.clocks n fun f => clockNext f i m } }
    let t := (t.clockReport n).countSuppressed n
    (List.range 6).foldl (fun s b => s.addEnergies (s.chip.bench n b).lastCtx) t

/-- CLOCK_WINDOW_END. -/
def execClockWindowEnd (core issued stalled : Nat) := fun (s : State) => onState (s.windowEnd core issued stalled)

/-- PACKAGE_LIMITER: the limiter holds an enabled core at or below one of the clocks of R5 (R20). -/
def execPackageLimiter (core mhz : Nat) := fun (s : State) =>
  onState (if clockSteps.contains mhz ∧ (s.chip.core core).enabled ∧ core < s.plat.limits.length then
      ({ s with plat := { s.plat with limits := modAt s.plat.limits core fun _ => mhz } } : State).clockReport core
    else s)

/-- FILLER_INJECTION: fillers write nothing visible; the energy of those that an engine of the bench takes goes to the context that issued that
engine's last real operation (R380). When the busy engines have fallen by more than half is a matter of cycles. (DESIGN CHOICE, log 7.) -/
def execFillerInjection (core bench : Nat) := fun (s : State) => onState (s.addEnergies (s.chip.bench core bench).lastCtx)

/-! ### Errors and retirements (R381, R382) -/

/-- Source of an error, the kind and the value of its place field (R94, R382). -/
def Chip.errPlace (c : Chip) : ErrPlace → Nat × Nat × Nat
  | .row p => (1, 5, p.toNat)
  | .channel p => (2, 4, p.toNat)
  | .wavelength p => (3, 6, p.toNat)
  | .bench n b => (4, 2, fld 3 (((c.sites[n]?).join).getD 0) + b)

/-- The counter of a place. -/
def Plat.counter (p : Plat) (e : ErrPlace) : ErrCounter := (p.errors.find? fun k => k.place == e).getD { place := e, count := 0 }

/-- The threshold that a counter has just reached, if it has: the counted value (R381). (DEDUCED, log 81.) -/
def ErrCounter.reached (k : ErrCounter) (uncorrectable : Bool) : Option Nat :=
  match k.place with
  | .row _ => if k.count = 4 then some k.count else none
  | .channel _ => if uncorrectable then (if k.bad = 2 then some k.bad else none) else if k.count = 64 then some k.count else none
  | .wavelength _ => if k.count = 1024 then some k.count else none
  | .bench _ _ => if k.count = 16 then some k.count else none

/-- Append a record to the retirement log; a full log drops it (R372, R382). -/
def State.logAppend (s : State) (rec : Nat) : State :=
  if !s.chip.running || decide (127 ≤ s.plat.log) then s
  else (({ s with plat := { s.plat with log := s.plat.log + 1 } } : State).statusPut (0x1000 + 32 * (s.plat.log + 1)) 32 rec).statusPut 0x1000 8 (s.plat.log + 1)

/-- Retire a wavelength of a port: the width falls with the full width, and a retired port leaves every route (R310). -/
def Chip.retireWave (c : Chip) (place : Nat) : Chip :=
  let c := c.modPort (place / 8) fun p =>
    let p := { p with working := modAt p.working (place % 8) fun _ => false }
    { p with width := min p.width p.full }
  { c with fab := { c.fab with routes := c.fab.routes.filterMap fun e => let v := e.2 &&& ~~~c.retiredPorts; if v = 0 then none else some (e.1, v) } }

/-- The lasting action of a place (R381). (DESIGN CHOICE, log 80.) -/
def State.lasting (s : State) (e : ErrPlace) : State :=
  match e with
  | .row p => { s with chip := { s.chip with copying := s.chip.copying ++ [p.toNat] } }
  | .channel p => { s with plat := { s.plat with retiring := s.plat.retiring ++ [p.toNat] } }
  | .wavelength p => { s with chip := s.chip.retireWave p.toNat }
  | .bench n b => { s with chip := s.chip.modBench n b fun x => { x with closed := true } }

/-- A measurement has changed: no session has a current attestation any more (R376, R377). (DEDUCED, log 83.) -/
def Spdm.changed (p : Spdm) : Spdm := { p with sessions := p.sessions.map fun x => { x with attested := false } }

/-- A fault has become lasting: repair table, retirement log, lasting action (R381, R382). -/
def State.markLasting (s : State) (e : ErrPlace) (cycle counter : Nat) : State :=
  let x := s.chip.errPlace e
  if s.plat.repair.contains (x.1, x.2.2) then s
  else
    let s : State := { s with plat := { s.plat with repair := s.plat.repair ++ [(x.1, x.2.2)], spdm := s.plat.spdm.changed } }
    (s.logAppend (fld 128 x.2.2 + fld 64 (cycle % 2 ^ 64) + fld 32 (counter % 2 ^ 32) + fld 8 x.2.1 + x.1)).lasting e

/-- Count an error on one place (R381). -/
def State.countAt (s : State) (e : ErrPlace) (uncorrectable : Bool) (cycle : Nat) : State :=
  let k := s.plat.counter e
  let k := if uncorrectable then { k with bad := k.bad + 1 } else { k with count := k.count + 1 }
  let s : State := { s with plat := { s.plat with errors := (s.plat.errors.filter fun x => x.place != e) ++ [k] } }
  match k.reached uncorrectable with
  | some v => s.markLasting e cycle v
  | none => s

/-- Device bytes of a line become uncorrectable (R383). -/
def Chip.spoil (c : Chip) (line : Nat) : Chip :=
  { c with bad := Sparse.setList false c.bad (line / 128 * 128) (List.replicate 128 true) }

/-- ERROR_COUNTED: a corrected error of a DRAM row is one of its channel too; an uncorrectable error is its channel's, and its data are lost. A channel
that the part has not, or has retired, holds no data and counts nothing (R2). -/
def State.errorCounted (s : State) (e : ErrPlace) (uncorrectable : Bool) (cycle line : Nat) : State :=
  match e with
  | .row p =>
    let ch := ErrPlace.channel (BitVec.ofNat 10 (bits p.toNat 39 30))
    if !s.chip.channelWorks (bits p.toNat 39 30) then s
    else if uncorrectable then ({ s with chip := s.chip.spoil line } : State).countAt ch true cycle
    else (s.countAt e false cycle).countAt ch false cycle
  | .channel p =>
    if !s.chip.channelWorks p.toNat then s
    else if uncorrectable then ({ s with chip := s.chip.spoil line } : State).countAt e true cycle else s.countAt e false cycle
  | .wavelength p => if p.toNat < 160 then s.countAt e false cycle else s
  | .bench n b => if n < 64 ∧ b < 6 then s.countAt e false cycle else s

/-- ERROR_COUNTED. -/
def execErrorCounted (place : ErrPlace) (uncorrectable : Bool) (cycle : DWord) (line : Nat) := fun (s : State) =>
  onState (s.errorCounted place uncorrectable cycle.toNat line)

/-- ERROR_WINDOW_END: the counter clears. -/
def execErrorWindowEnd (place : ErrPlace) := fun (s : State) =>
  onState { s with plat := { s.plat with errors := s.plat.errors.filter fun x => x.place != place } }

/-- ROW_COPY_COMPLETE: the spare row holds the data. -/
def execRowCopyComplete (place : BitVec 40) := fun (s : State) =>
  onState { s with chip := { s.chip with copying := s.chip.copying.filter fun x => x != place.toNat } }

/-! ### Boot and recovery (R374, R375) -/

/-- Code of a boot state. -/
def Boot.code : Boot → Nat
  | .reset => 0
  | .ready => 1
  | .recovery => 2
  | .verify => 3
  | .running => 4

/-- The first field of the status block, and the value of Kelesh configuration offset 0x40 (R372, R374). -/
def Plat.bootField (p : Plat) : Nat := fld 8 p.bootCause + p.boot.code

/-- A bench after Reset: a closed bench is retired. -/
def Bench.fresh (b : Bench) : Bench := { enabled := b.enabled && !b.closed, closed := b.closed }

/-- A port after Reset. -/
def Port.fresh (p : Port) : Port := let q : Port := { working := p.working }; { q with width := q.full }

/-- The chip after Reset: every context, launch, squad and access is gone; memory, the part's units and the model's own counters stay. -/
def Chip.afterReset (c : Chip) : Chip :=
  { Chip.resetOf .m64 with
    dev := c.dev, host := c.host, bad := c.bad, fitted := c.fitted, sites := c.sites, clusters := c.clusters
    cores := c.cores.map fun (k : Core) => { enabled := k.enabled }
    benches := c.benches.map Bench.fresh
    fab := { ports := c.fab.ports.map Port.fresh }
    nextId := c.nextId, order := c.order, fresh := c.fresh }

/-- The device enters Reset: released keys are discarded, and channels that wait for it are retired (R374, R377, R381). (DEDUCED, log 78.) -/
def State.enterReset (s : State) : State :=
  let p := s.plat
  { s with
    chip := { s.chip.afterReset with retired := s.chip.retired ++ p.retiring }
    plat :=
      { boot := .reset, bootCause := 0, part := p.part, layby := p.layby, images := p.images, flash := p.flash, completion := p.completion
        repair := p.repair } }

/-- What an invalid image gives as boot cause; 0 for a valid one (R374). -/
def imageCause (signed version : Bool) : Nat := if !signed then 1 else if !version then 2 else 0

/-- The check of the flash image in Reset (R374). An image that was posted and verified is valid. -/
def State.checkFlash (s : State) : State :=
  let k := if s.plat.flash ≠ 0 then 0 else imageCause Config.flashSigned Config.flashVersionOk
  { s with plat := { s.plat with boot := if k = 0 then .ready else .recovery, bootCause := k } }

/-- RESET: from any state; the flash image is then checked. -/
def execReset := fun (s : State) => onState s.enterReset.checkFlash

/-- Fields of the boot parameter block (R375). -/
structure BootBlock where
  image : Nat
  len : Nat
  window : Nat
  journal : Nat
  c : Nat
  status : Nat
  cap : Nat
  reserved : Nat
  deriving DecidableEq, Repr

/-- The block in its 512 bits. -/
def BootBlock.read (b : Nat) : BootBlock :=
  { image := bits b 511 448, len := bits b 447 416, window := bits b 415 352, journal := bits b 351 288, c := bits b 287 280, status := bits b 279 216
    cap := bits b 215 152, reserved := bits b 151 1 }

/-- Whether a block is within its limits (R375). -/
def BootBlock.ok (x : BootBlock) (module : Bool) : Bool :=
  x.reserved == 0 && x.journal % 4096 == 0 && decide (7 ≤ x.c) && decide (x.c ≤ 16) && x.status % 65536 == 0 &&
    if module then x.cap == 3 * 2 ^ 39
    else x.cap == 0 || (x.cap % 65536 == 0 && decide (2 ^ 25 ≤ x.cap) && decide (x.cap ≤ 2 ^ 42))

/-- Site of core n in the status block's map (R372). -/
def Chip.siteByte (c : Chip) (n : Nat) : Nat := if (c.core n).enabled then ((c.sites[n]?).join).getD 0xFF else 0xFF

/-- Cluster of core n in the status block's map (R372). -/
def Chip.clusterByte (c : Chip) (n : Nat) : Nat := match (c.clusters[n]?).join with
  | some p => fld 2 p.1 + p.2
  | none => 0xFF

/-- The 64 KiB of the status block when the device enters Running (R372). -/
def State.statusImage (s : State) : List Byte :=
  let put := fun (n : Nat) (vs : List Nat) => vs.flatMap (leBytes n)
  let low := leBytes 8 s.plat.bootField ++ List.replicate 0xF8 0 ++ put 1 (s.plat.refresh.map (pattern 8)) ++
    put 1 ((List.range 64).map s.chip.siteByte) ++ put 1 ((List.range 64).map s.chip.clusterByte) ++ List.replicate 64 0 ++
    put 4 ((List.range 64).map s.plat.clock) ++ put 8 (s.plat.suppressed.flatMap fun x => [x.1, x.2]) ++ put 8 s.plat.energy
  low ++ List.replicate (65536 - low.length) 0

/-- Kelesh configuration bytes 0 to 63 hold a block, with Go as it reads (R375). -/
def Plat.setBlock (p : Plat) (b : Nat) (go : Bool) : Plat := { p with config := p.config.setLe 0 64 (b / 2 * 2 + b01 go) }

/-- The device enters Running and applies a block: bases, capacity size, journal control block, status block (R374, R375, R340). -/
def State.apply (s : State) (b : Nat) : State :=
  let x := BootBlock.read b
  let p := (s.plat.setBlock b false)
  let s : State := { s with
    chip := { s.chip with cmdWindow := x.window, journal := x.journal, journalC := x.c, status := x.status, cap := x.cap, running := true }
    plat := { p with boot := .running, log := 0, spdm := if x.cap = s.chip.cap then p.spdm else p.spdm.changed } }
  { s with chip := (s.chip.devPut x.journal 64 (controlBlock x.c)).devWrite x.status s.statusImage }

/-- A block is refused: the boot cause is set and Go reads 0 again. -/
def State.refuse (s : State) (b cause : Nat) : State := { s with plat := { s.plat.setBlock b false with bootCause := cause } }

/-- BOOT_GO: the host has written the block, Go last. -/
def State.bootGo (s : State) (b : Nat) : State :=
  let go := fun (s : State) =>
    if !bit b 0 then { s with plat := s.plat.setBlock b false }
    else if !(BootBlock.read b).ok s.plat.part.module then s.refuse b 3
    else if (BootBlock.read b).len = 0 then (if s.plat.boot = .ready then s.apply b else s.refuse b 4)
    else
      let p := s.plat.setBlock b true
      { s with plat := { p with boot := .verify, goFrom := s.plat.boot, block := BitVec.ofNat 512 b, images := s.plat.images + 1 } }
  match s.plat.boot with
  | .ready => go s
  | .recovery => go s
  | .reset => s
  | .verify => s
  | .running => s

/-- BOOT_GO. -/
def execBootGo (block : BitVec 512) := fun (s : State) => onState (s.bootGo block.toNat)

/-- VERIFY_COMPLETE: a valid posted image replaces the flash copy and runs; an invalid one leaves the state in which Go was written (R374). -/
def State.verified (s : State) : State :=
  if s.plat.boot ≠ .verify then s
  else
    let x := BootBlock.read s.plat.block.toNat
    let k := imageCause (Config.postedSigned s.plat.images (BitVec.ofNat 64 x.image) (BitVec.ofNat 32 x.len))
      (Config.postedVersionOk s.plat.images (BitVec.ofNat 64 x.image) (BitVec.ofNat 32 x.len))
    if k = 0 then ({ s with plat := { s.plat with flash := s.plat.images, spdm := s.plat.spdm.changed } } : State).apply s.plat.block.toNat
    else
      let t := s.refuse s.plat.block.toNat k
      { t with plat := { t.plat with boot := s.plat.goFrom } }

/-- VERIFY_COMPLETE. -/
def execVerifyComplete := fun (s : State) => onState s.verified

/-- RECOVERY_REQUEST (R374). -/
def execRecoveryRequest := fun (s : State) =>
  onState (match s.plat.boot with
    | .ready => { s with plat := { s.plat with boot := .recovery } }
    | .running => s.enterReset
    | .reset => s
    | .recovery => s
    | .verify => s)

/-- FATAL_ERROR (R374). -/
def execFatalError := fun (s : State) => onState (if s.plat.boot = .reset then s else s.enterReset)

/-! ### Host accesses (R372, R373, R377) -/

/-- What a host read of bytes returns: poisoned where a byte does not exist, its key is not released, or its data are lost. (DEDUCED, log 82.) -/
def Chip.hostRead (c : Chip) (pa n : Nat) : Option (List Byte) :=
  if (List.range n).all fun i => c.exists (pa + i) && !c.isLocked (pa + i) && !Sparse.get false c.bad (pa + i) then some (c.dev.bytes pa n) else none

/-- The host has written bytes of the command window: a discarded slot whose posting word it has written is live again (R333, R335). -/
def Chip.revive (c : Chip) (pa n : Nat) : Chip :=
  { c with queues := c.queues.mapIdx fun i q =>
      { q with dead := q.dead.filter fun k => !overlap pa n (c.cmdWindow + 8192 * i + 128 * k + 4) 4 } }

/-- A host write of bytes: those of locked ranges, of the status block and of addresses that do not exist are discarded. -/
def Chip.hostWrite (c : Chip) (pa : Nat) (bs : List Byte) : Chip :=
  ((bs.mapIdx fun i b => (pa + i, b)).foldl (fun c e => if c.exists e.1 && !c.isLocked e.1 then c.putByte (.dev e.1) e.2 else c) c).revive pa bs.length

/-- Whether a host access meets a row whose copy is in progress (R381). -/
def Chip.hostWaits (c : Chip) (pa n : Nat) : Bool := c.inCopy ((List.range n).map fun i => .dev (pa + i))

/-- A host atomic of 4 or 8 aligned bytes: one access at home. -/
def State.hostAtomic (s : State) (pa n : Nat) (f : Nat → Option Nat) : State :=
  if (n ≠ 4 ∧ n ≠ 8) ∨ pa % n ≠ 0 then s
  else
    let old := s.chip.hostRead pa n
    let c := match old with
      | some bs => match f (ofLe bs) with
        | some v => s.chip.hostWrite pa (leBytes n v)
        | none => s.chip
      | none => s.chip
    { s with chip := c, plat := { s.plat with completion := old } }

/-- The device bytes that a host access names: first and number. -/
def hostSpan : HostOp → Nat × Nat
  | .read pa n => (pa, n)
  | .write pa data => (pa, data.length)
  | .atomAdd pa n _ => (pa, n)
  | .atomSwap pa n _ => (pa, n)
  | .atomCas pa n _ _ => (pa, n)
  | .own _ _ => (0, 0)

/-- What a host access does; one to a row whose copy is in progress waits (R381). (DEDUCED, log 88.) -/
def State.hostAccess (s : State) (op : HostOp) : State :=
  match op with
  | .read pa n => { s with plat := { s.plat with completion := s.chip.hostRead pa n } }
  | .write pa data => { s with chip := s.chip.hostWrite pa data, plat := { s.plat with completion := some [] } }
  | .atomAdd pa n v => s.hostAtomic pa n fun old => some (old + v.toNat)
  | .atomSwap pa n v => s.hostAtomic pa n fun _ => some v.toNat
  | .atomCas pa n cmp v => s.hostAtomic pa n fun old => if old = cmp.toNat % 256 ^ n then some v.toNat else none
  | .own pa data => { s with chip := { s.chip with host := s.chip.host.setBytes pa data } }

/-- HOST_ACCESS. -/
def execHostAccess (op : HostOp) := fun (s : State) => onState (if s.chip.hostWaits (hostSpan op).1 (hostSpan op).2 then s
    else { s with chip := s.chip.reachLocs ((List.range (hostSpan op).2).map fun i => .dev ((hostSpan op).1 + i)) }.hostAccess op)

/-- HOST_REGISTER_WRITE: bytes of the boot parameter block are written while it may be, Go as it stands; every other device register discards
what the host writes (R372, R375). -/
def State.hostRegister (s : State) (r : HostReg) (v : Nat) : State :=
  match r with
  | .config off =>
    if off % 8 = 0 ∧ off < 64 ∧ (s.plat.boot = .ready ∨ s.plat.boot = .recovery) then
      { s with plat := { s.plat with config := s.plat.config.setLe off 8 (if off = 0 then v / 2 * 2 else v) } }
    else s
  | .device _ => s

/-- HOST_REGISTER_WRITE. -/
def execHostRegisterWrite (r : HostReg) (v : DWord) := fun (s : State) => onState (s.hostRegister r v.toNat)

end Sys2Proof.Machine
end

