-- ==== Sys2Proof/Machine/Spdm.lean ====
section
/-! DEFINITION. The attestation responder (R376) and memory-key release (R377). The order of requests, the response codes and the error
codes are those of DMTF DSP0274 version 1.2, which the spec names; bytes that rest on keys, digests or random numbers are open. -/

namespace Sys2Proof.Machine

/-- Answer a request. -/
def Spdm.answer (p : Spdm) (code : Nat) (reply : List Byte) : Spdm := { p with code, reply }

/-- Answer with an error: 0x01 invalid request, 0x02 invalid session, 0x04 unexpected request, 0x06 decrypt error, 0x0A session limit. (PRESUMED, log 18.) -/
def Spdm.error (p : Spdm) (e : Nat) : Spdm := p.answer 0x7F [BitVec.ofNat 8 e, 0]

/-- A session by number. -/
def Spdm.session? (p : Spdm) (i : Nat) : Option Session := p.sessions.find? fun x => x.id == i

/-- A session whose FINISH has succeeded. -/
def Spdm.secured (p : Spdm) (i : Nat) : Bool := (p.session? i).any (·.finished)

/-- Change a session. -/
def Spdm.modSession (p : Spdm) (i : Nat) (f : Session → Session) : Spdm :=
  { p with sessions := p.sessions.map fun x => if x.id = i then f x else x }

/-- Change the responder. -/
def State.modSpdm (s : State) (f : Spdm → Spdm) : State := { s with plat := { s.plat with spdm := f s.plat.spdm } }

/-- Bytes of request parameters, which name open response bytes. -/
def paramBytes (xs : List Nat) : List Byte := xs.flatMap (leBytes 8)

/-- Content that a measurement digests (R376): the firmware image; F, C, the reserved regions (the remap table at the top of the capacity tier,
R366, and the lay-bys, R160), the enabled cores and stacks; the repair tables, the sites of the logical cores and the clusters among them (R8, R10);
the memory-key policy. -/
def State.measured (s : State) (i : Nat) : List Byte :=
  let units := (List.range 64).flatMap fun n => [s.chip.siteByte n, s.chip.clusterByte n]
  paramBytes (if i = 1 then [s.plat.flash]
    else if i = 2 then [s.chip.fast, s.chip.cap, s.chip.cap - 2 ^ 24, 2 ^ 24] ++ s.plat.layby ++ (List.range 64).map (fun n => b01 (s.chip.core n).enabled) ++ s.chip.fitted
    else if i = 3 then units ++ s.chip.fitted ++ s.chip.retired ++ s.plat.repair.flatMap fun x => [x.1, x.2]
    else keyRanges.flatMap fun x => [x.1, x.2])

/-- GET_VERSION: the responder supports version 1.2 alone; negotiation starts again. -/
def execGetVersion := fun (s : State) =>
  onState (s.modSpdm fun _ => ({ versioned := true } : Spdm).answer 0x04 [0, 1, 0x00, 0x12])

/-- GET_CAPABILITIES. -/
def execGetCapabilities := fun (s : State) =>
  onState (s.modSpdm fun p =>
    if p.versioned then ({ p with capable := true } : Spdm).answer 0x61 (Config.spdmBytes 0x61 []) else p.error 0x04)

/-- NEGOTIATE_ALGORITHMS: the requester's sets must hold ECDSA on P-521 (bit 8) and SHA-512 (bit 2). -/
def execNegotiateAlgorithms (asym hash : Nat) := fun (s : State) =>
  onState (s.modSpdm fun p =>
    if !p.capable then p.error 0x04
    else if bit asym 8 && bit hash 2 then ({ p with negotiated := true } : Spdm).answer 0x63 (leBytes 4 0x100 ++ leBytes 4 4)
    else p.error 0x01)

/-- GET_DIGESTS. -/
def execGetDigests := fun (s : State) =>
  onState (s.modSpdm fun p => if p.negotiated then p.answer 0x01 (Config.spdmBytes 0x01 []) else p.error 0x04)

/-- GET_CERTIFICATE: the chain of slot 0. -/
def execGetCertificate (slot offset length : Nat) := fun (s : State) =>
  onState (s.modSpdm fun p =>
    if !p.negotiated then p.error 0x04
    else if slot = 0 then p.answer 0x02 (Config.spdmBytes 0x02 (paramBytes [offset, length]))
    else p.error 0x01)

/-- A signed answer has succeeded in a session: its attestation is current (R377). -/
def Spdm.attest (p : Spdm) (session : Option Nat) : Spdm :=
  match session with
  | some i => p.modSession i fun x => { x with attested := x.finished }
  | none => p

/-- CHALLENGE. -/
def execChallenge (slot : Nat) (nonce : List Byte) (measure : Nat) (session : Option Nat) := fun (s : State) =>
  onState (s.modSpdm fun p =>
    if !p.negotiated then p.error 0x04
    else if session.any fun i => !p.secured i then p.error 0x02
    else if slot ≠ 0 then p.error 0x01
    else (p.attest session).answer 0x03 (Config.spdmBytes 0x03 (paramBytes [measure] ++ nonce ++ [1, 2, 3, 4].flatMap s.measured)))

/-- GET_MEASUREMENTS: index 0 asks for their number, 255 for all. -/
def execGetMeasurements (signed : Bool) (index : Nat) (nonce : List Byte) (session : Option Nat) := fun (s : State) =>
  onState (s.modSpdm fun p =>
    if !p.negotiated then p.error 0x04
    else if session.any fun i => !p.secured i then p.error 0x02
    else if 4 < index ∧ index ≠ 255 then p.error 0x01
    else
      let p := if signed then p.attest session else p
      let contents := if index = 0 then [4] else if index = 255 then [1, 2, 3, 4].flatMap s.measured else s.measured index
      p.answer 0x60 (Config.spdmBytes 0x60 (paramBytes [index, b01 signed] ++ (if signed then nonce else []) ++ contents)))

/-- KEY_EXCHANGE: a session opens; the responder's half of its number is a free value. -/
def State.keyExchange (s : State) (slot reqSession : Nat) (exchange : List Byte) : State :=
  let p := s.plat.spdm
  if !p.negotiated then s.modSpdm fun p => p.error 0x04
  else if slot ≠ 0 then s.modSpdm fun p => p.error 0x01
  else
    let v := s.free
    let i := reqSession % 65536 + 65536 * (v.1 % 65536)
    v.2.modSpdm fun p =>
      if (p.session? i).isSome then p.error 0x0A
      else ({ p with sessions := p.sessions ++ [{ id := i }] } : Spdm).answer 0x64 (leBytes 2 (i / 65536) ++ Config.spdmBytes 0x64 (paramBytes [i] ++ exchange))

/-- KEY_EXCHANGE. -/
def execKeyExchange (slot reqSession : Nat) (exchange : List Byte) := fun (s : State) => onState (s.keyExchange slot reqSession exchange)

/-- FINISH: the session is secured where the request's authentication code verifies; otherwise it ends. -/
def execFinish (session : Nat) (hmac : List Byte) := fun (s : State) =>
  onState (s.modSpdm fun p =>
    match p.session? session with
    | none => p.error 0x02
    | some x =>
      if x.finished then p.error 0x04
      else if Config.finishOk session hmac then (p.modSession session fun x => { x with finished := true }).answer 0x65 (Config.spdmBytes 0x65 (paramBytes [session]))
      else ({ p with sessions := p.sessions.filter fun x => x.id != session } : Spdm).error 0x06)

/-- END_SESSION. -/
def execEndSession (session : Nat) := fun (s : State) =>
  onState (s.modSpdm fun p =>
    if p.secured session then ({ p with sessions := p.sessions.filter fun x => x.id != session } : Spdm).answer 0x6C [] else p.error 0x02)

/-- Ranges whose slot is not filled (R377). -/
def lockedRanges (keys : List KeySlot) : List (Nat × Nat) := ((keyRanges.zip keys).filter fun x => !x.2.filled).map (·.1)

/-- VENDOR_DEFINED_REQUEST: a key release fills its slot only in a secured session with a current attestation (R377). (DESIGN CHOICE, log 16.) -/
def State.release (s : State) (session : Option Nat) (slot : Nat) (key : List Byte) : State :=
  match session.bind s.plat.spdm.session? with
  | none => s.modSpdm fun p => p.error 0x02
  | some x =>
    if x.finished && x.attested && decide (slot < 16) then
      let keys := modAt s.plat.keys slot fun _ => { key, filled := true }
      { s with chip := { s.chip with locked := lockedRanges keys }, plat := { s.plat with keys, spdm := s.plat.spdm.answer 0x7E [] } }
    else s.modSpdm fun p => p.error 0x01

/-- VENDOR_DEFINED_REQUEST. -/
def execVendorDefinedRequest (session : Option Nat) (slot : Nat) (key : List Byte) := fun (s : State) => onState (s.release session slot key)

end Sys2Proof.Machine
end

