-- ==== Sys2Proof/Machine/System.lean ====
section
/-! DEFINITION. The system instructions, opcodes 0x3A0 to 0x3A3 (R152 to R155), and `illegalInstruction`, the meaning of every
unassigned word (R92). -/

namespace Sys2Proof.Machine

/-- `trap`: the software trap for the active lanes whose guard is true (R153). -/
def squadTrap (f : FormI) (c : Chip) (q : Squad) : Res :=
  let m := q.exe.acting f.g
  if m = 0 then .done c else .trap { cause := 0x0D, det := f.imm.toNat % 65536, lanes := some m }

/-- `trap`. -/
def execTrap (f : FormI) := fun (s : State) => onSquad s [5] (fun _ => []) (squadTrap f)

/-- Where returning lanes resume (R154): header address and word position. -/
def TrapState.resumeAt (t : TrapState) (mode : RteMode) : Nat × Nat :=
  let count := bits t.hdr.toNat 59 56
  let next := t.hdrAt + 8 * (count + 2)
  match mode with
  | .skip => (next, 0)
  | .retry => (t.hdrAt, if t.atStart then 0 else t.pos)
  | .next => if t.atStart then (t.hdrAt, 0) else if t.pos < count then (t.hdrAt, t.pos + 1) else (next, 0)

/-- Return lanes from the handler: the one place where an exception is left (R154). -/
def Squad.returnFrom (q : Squad) (mode : RteMode) (m : LaneMask) : Squad :=
  let at_ := q.trap.resumeAt mode
  let q := (q.setPc m at_.1 at_.2 false (mode != .skip && at_.1 == q.trap.hdrAt)).leave m
  Squad.testHandler { q with trap := { q.trap with left := q.trap.left &&& ~~~m } }

/-- `rte` (R154): outside handler mode it is an illegal instruction. -/
def Squad.runRte (f : FormR) (mode : RteMode) (q : Squad) : Except Trap Squad := do
  q.exe.chkHold f {}
  if !q.trap.hmode then throw (q.exe.illegalInstr 0x3A1)
  return q.returnFrom mode (q.exe.acting f.g)

/-- `rte`. -/
def execRte (f : FormR) (mode : RteMode) := fun (s : State) => onSquad s [5] (fun _ => []) (squadRes (Squad.runRte f mode))

/-! ### Control words (R155) -/

/-- Whether a control word is 64 bits wide. -/
def cwWide (n : BitVec 12) : Bool := n == 0x000 || n == 0x002 || n == 0x004

/-- The owner word of a bench (R264). -/
def Bench.owner (b : Bench) : Nat := fld 31 (b01 b.accValid) + b.accCtx

/-- A muster slot as a control word (R30). -/
def mslotWord (m : Option Nat) : Nat := m.elim 0 fun i => 2 ^ 31 + i

/-- Value of a control word for a squad. -/
def Chip.cwRead (c : Chip) (q : Squad) (n : BitVec 12) : Nat :=
  let x := (c.ctx? q.exe.ctx).getD {}
  match n.toNat with
  | 0x000 => x.trapvec
  | 0x001 => q.trap.cause
  | 0x002 => q.trap.addr
  | 0x003 => q.trap.mask.toNat
  | 0x004 => q.trap.det
  | 0x005 => b01 q.trap.hmode
  | 0x00C => ((List.range 4).map fun k => fld (8 * k) (q.quota.getD k 0)).sum
  | 0x00D => q.scfMask.toNat
  | 0x010 => (c.bench q.place.core q.place.bench).owner
  | 0x011 => x.binwait
  | 0x012 => x.probelimit
  | 0x013 => x.extwait
  | k => mslotWord (q.exe.mslots.getD (k - 8) none)

/-- Operand use of `rdcw` and `wrcw`. -/
def useRdcw (n : BitVec 12) : RUse := { dst := .gen (cwWide n) }
def useWrcw (n : BitVec 12) : RUse := { a := .gen (cwWide n) }

/-- `rdcw`. -/
def squadRdcw (f : FormR) (n : BitVec 12) (c : Chip) (q : Squad) : Res :=
  match q.exe.chkR f (useRdcw n) with
  | .error t => .trap t
  | .ok _ =>
    let v := c.cwRead q n
    .done (c.setSquad { q with exe := q.exe.each (q.exe.acting f.g) fun e l => e.put (cwWide n) f.dst l v })

/-- `rdcw`. -/
def execRdcw (f : FormR) (n : BitVec 12) := fun (s : State) => onSquad s [5] (fun _ => regsR f (useRdcw n)) (squadRdcw f n)

/-- Whether a control word may be written: in any mode, or in handler mode only (R155). -/
def cwWritable (n : BitVec 12) (hmode : Bool) : Bool :=
  n == 0x011 || n == 0x012 || n == 0x013 || ((n == 0x000 || n == 0x010) && hmode)

/-- Whether a value lies within a control word's limits (R155). -/
def cwLimits (n : BitVec 12) (v : Nat) : Bool :=
  if n = 0x000 then v % 8 == 0 else if n = 0x012 then decide (1 ≤ v) && decide (v ≤ 64) else true

/-- Write a control word (R155, R264). -/
def Chip.cwWrite (c : Chip) (q : Squad) (n : BitVec 12) (v : Nat) : Chip :=
  let x := q.exe.ctx
  match n.toNat with
  | 0x000 => c.modCtx x fun k => { k with trapvec := v }
  | 0x010 => c.modBench q.place.core q.place.bench fun b => { b with accValid := bit v 31, accCtx := v % 64 }
  | 0x011 => c.modCtx x fun k => { k with binwait := v % 65536 }
  | 0x012 => c.modCtx x fun k => { k with probelimit := v }
  | _ => c.modCtx x fun k => { k with extwait := v }

/-- `wrcw`: the value of the lowest-numbered active lane whose guard is true (R155). -/
def squadWrcw (f : FormR) (n : BitVec 12) (c : Chip) (q : Squad) : Res :=
  match q.exe.chkR f (useWrcw n) with
  | .error t => .trap t
  | .ok _ =>
    if !cwWritable n q.trap.hmode then .trap (q.exe.operand 6)
    else
      let c := c.setSquad { q with exe := q.exe.capture f (useWrcw n) q.exe }
      match lowestLane (q.exe.acting f.g) with
      | none => .done c
      | some l =>
        let v := q.exe.src (cwWide n) f.a l
        if cwLimits n v then .done (c.cwWrite q n v) else .trap (q.exe.operand 1)

/-- `wrcw`. -/
def execWrcw (f : FormR) (n : BitVec 12) := fun (s : State) => onSquad s [5] (fun _ => regsR f (useWrcw n)) (squadWrcw f n)

/-- An unassigned word raises the illegal-instruction trap in every clause class (R92, R349). -/
def execIllegalInstruction (w : DWord) := fun (s : State) =>
  onAgent s (fun c q => c.takeTrap q.uid (q.exe.illegalInstr (bits w.toNat 63 54)))
    (fun c n t th => c.quarryFault n t (th.exe.illegalInstr (bits w.toNat 63 54)))

end Sys2Proof.Machine
end

