-- ==== Sys2Proof/Machine/Dispatch.lean ====
section
/-! DEFINITION. The dispatch: one arm per constructor of Instr, each one call of its meaning. -/

namespace Sys2Proof.Machine

/-- What an instruction or an event does at a state. -/
def exec (i : Instr) (s : State) : Host.Outcome State Fault Refusal :=
  match i with
  | .iadd f t sat => Sys2Proof.Machine.execIadd f t sat s
  | .isub f t sat => Sys2Proof.Machine.execIsub f t sat s
  | .imul f t sat => Sys2Proof.Machine.execImul f t sat s
  | .imulh f t => Sys2Proof.Machine.execImulh f t s
  | .imad f t sat => Sys2Proof.Machine.execImad f t sat s
  | .imin f t => Sys2Proof.Machine.execImin f t s
  | .imax f t => Sys2Proof.Machine.execImax f t s
  | .iabs f t sat => Sys2Proof.Machine.execIabs f t sat s
  | .ineg f t sat => Sys2Proof.Machine.execIneg f t sat s
  | .and f t => Sys2Proof.Machine.execAnd f t s
  | .or f t => Sys2Proof.Machine.execOr f t s
  | .xor f t => Sys2Proof.Machine.execXor f t s
  | .andn f t => Sys2Proof.Machine.execAndn f t s
  | .not f t => Sys2Proof.Machine.execNot f t s
  | .shl f t imm cnt => Sys2Proof.Machine.execShl f t imm cnt s
  | .shr f t imm cnt => Sys2Proof.Machine.execShr f t imm cnt s
  | .sar f t imm cnt => Sys2Proof.Machine.execSar f t imm cnt s
  | .rot f t imm cnt => Sys2Proof.Machine.execRot f t imm cnt s
  | .shf f left => Sys2Proof.Machine.execShf f left s
  | .popc f t => Sys2Proof.Machine.execPopc f t s
  | .clz f t => Sys2Proof.Machine.execClz f t s
  | .brev f t => Sys2Proof.Machine.execBrev f t s
  | .bfx f t => Sys2Proof.Machine.execBfx f t s
  | .bfi f t => Sys2Proof.Machine.execBfi f t s
  | .perm f => Sys2Proof.Machine.execPerm f s
  | .icmp f t comb cond => Sys2Proof.Machine.execIcmp f t comb cond s
  | .sel f t inv flag => Sys2Proof.Machine.execSel f t inv flag s
  | .mov f t du au => Sys2Proof.Machine.execMov f t du au s
  | .movx f t => Sys2Proof.Machine.execMovx f t s
  | .movxw f t => Sys2Proof.Machine.execMovxw f t s
  | .lea f t sh => Sys2Proof.Machine.execLea f t sh s
  | .movi f w64 => Sys2Proof.Machine.execMovi f w64 s
  | .iaddImm f w64 => Sys2Proof.Machine.execIaddImm f w64 s
  | .imulImm f w64 => Sys2Proof.Machine.execImulImm f w64 s
  | .andImm f w64 => Sys2Proof.Machine.execAndImm f w64 s
  | .orImm f w64 => Sys2Proof.Machine.execOrImm f w64 s
  | .xorImm f w64 => Sys2Proof.Machine.execXorImm f w64 s
  | .fadd f r => Sys2Proof.Machine.execFadd f r s
  | .fsub f r => Sys2Proof.Machine.execFsub f r s
  | .fmul f r => Sys2Proof.Machine.execFmul f r s
  | .ffma f r => Sys2Proof.Machine.execFfma f r s
  | .fmin f => Sys2Proof.Machine.execFmin f s
  | .fmax f => Sys2Proof.Machine.execFmax f s
  | .fcmp f comb cond => Sys2Proof.Machine.execFcmp f comb cond s
  | .frcp f r => Sys2Proof.Machine.execFrcp f r s
  | .frsq f r => Sys2Proof.Machine.execFrsq f r s
  | .fsqrt f r => Sys2Proof.Machine.execFsqrt f r s
  | .fex2 f => Sys2Proof.Machine.execFex2 f s
  | .flg2 f => Sys2Proof.Machine.execFlg2 f s
  | .fsin f => Sys2Proof.Machine.execFsin f s
  | .fcos f => Sys2Proof.Machine.execFcos f s
  | .fcvt f df r sf el => Sys2Proof.Machine.execFcvt f df r sf el s
  | .frnd f r => Sys2Proof.Machine.execFrnd f r s
  | .fcls f sf mask => Sys2Proof.Machine.execFcls f sf mask s
  | .f2i f t r sf el => Sys2Proof.Machine.execF2i f t r sf el s
  | .i2f f df r t => Sys2Proof.Machine.execI2f f df r t s
  | .hadd2 f m r => Sys2Proof.Machine.execHadd2 f m r s
  | .hmul2 f m r => Sys2Proof.Machine.execHmul2 f m r s
  | .hfma2 f m r => Sys2Proof.Machine.execHfma2 f m r s
  | .shfl f w64 mode => Sys2Proof.Machine.execShfl f w64 mode s
  | .vote f mode inv flag => Sys2Proof.Machine.execVote f mode inv flag s
  | .lred f t op => Sys2Proof.Machine.execLred f t op s
  | .matchLanes f w64 => Sys2Proof.Machine.execMatchLanes f w64 s
  | .flg f wr => Sys2Proof.Machine.execFlg f wr s
  | .bra f => Sys2Proof.Machine.execBra f s
  | .brx f => Sys2Proof.Machine.execBrx f s
  | .call f ind => Sys2Proof.Machine.execCall f ind s
  | .ret f => Sys2Proof.Machine.execRet f s
  | .exit f => Sys2Proof.Machine.execExit f s
  | .yield f => Sys2Proof.Machine.execYield f s
  | .nop f => Sys2Proof.Machine.execNop f s
  | .region f endOnly => Sys2Proof.Machine.execRegion f endOnly s
  | .spawn f argc ms => Sys2Proof.Machine.execSpawn f argc ms s
  | .bjoin f => Sys2Proof.Machine.execBjoin f s
  | .bleave f => Sys2Proof.Machine.execBleave f s
  | .bwait f => Sys2Proof.Machine.execBwait f s
  | .bset f => Sys2Proof.Machine.execBset f s
  | .bget f => Sys2Proof.Machine.execBget f s
  | .esign f e => Sys2Proof.Machine.execEsign f e s
  | .eclr f e => Sys2Proof.Machine.execEclr f e s
  | .trap f => Sys2Proof.Machine.execTrap f s
  | .rte f mode => Sys2Proof.Machine.execRte f mode s
  | .rdcw f n => Sys2Proof.Machine.execRdcw f n s
  | .wrcw f n => Sys2Proof.Machine.execWrcw f n s
  | .ld f t => Sys2Proof.Machine.execLd f t s
  | .ldTry f t => Sys2Proof.Machine.execLdTry f t s
  | .st f t => Sys2Proof.Machine.execSt f t s
  | .stTry f t => Sys2Proof.Machine.execStTry f t s
  | .lds f t => Sys2Proof.Machine.execLds f t s
  | .ldsTry f t => Sys2Proof.Machine.execLdsTry f t s
  | .sts f t => Sys2Proof.Machine.execSts f t s
  | .stsTry f t => Sys2Proof.Machine.execStsTry f t s
  | .ldk f t => Sys2Proof.Machine.execLdk f t s
  | .stk f t => Sys2Proof.Machine.execStk f t s
  | .pref f => Sys2Proof.Machine.execPref f s
  | .cas f w64 => Sys2Proof.Machine.execCas f w64 s
  | .casScr f w64 => Sys2Proof.Machine.execCasScr f w64 s
  | .casTry f scr w64 => Sys2Proof.Machine.execCasTry f scr w64 s
  | .atom f k => Sys2Proof.Machine.execAtom f k s
  | .red f k => Sys2Proof.Machine.execRed f k s
  | .atomScr f k => Sys2Proof.Machine.execAtomScr f k s
  | .redScr f k => Sys2Proof.Machine.execRedScr f k s
  | .fence f => Sys2Proof.Machine.execFence f s
  | .barArr f o => Sys2Proof.Machine.execBarArr f o s
  | .barWait f o => Sys2Proof.Machine.execBarWait f o s
  | .barx f o noArr => Sys2Proof.Machine.execBarx f o noArr s
  | .twait f ext => Sys2Proof.Machine.execTwait f ext s
  | .tget f mode => Sys2Proof.Machine.execTget f mode s
  | .wext f scope cond => Sys2Proof.Machine.execWext f scope cond s
  | .alp f => Sys2Proof.Machine.execAlp f s
  | .agen f uns sh => Sys2Proof.Machine.execAgen f uns sh s
  | .aidx f mode => Sys2Proof.Machine.execAidx f mode s
  | .aload f scr size => Sys2Proof.Machine.execAload f scr size s
  | .ascat f scr size => Sys2Proof.Machine.execAscat f scr size s
  | .qpop f => Sys2Proof.Machine.execQpop f s
  | .qpush f => Sys2Proof.Machine.execQpush f s
  | .qpushClose f => Sys2Proof.Machine.execQpushClose f s
  | .qpushStart f ms => Sys2Proof.Machine.execQpushStart f ms s
  | .qpeek f => Sys2Proof.Machine.execQpeek f s
  | .hoist f => Sys2Proof.Machine.execHoist f s
  | .rrot f ms => Sys2Proof.Machine.execRrot f ms s
  | .mma f m => Sys2Proof.Machine.execMma f m s
  | .mmas f m => Sys2Proof.Machine.execMmas f m s
  | .mldt f es => Sys2Proof.Machine.execMldt f es s
  | .acqb f n1 => Sys2Proof.Machine.execAcqb f n1 s
  | .relb f n1 => Sys2Proof.Machine.execRelb f n1 s
  | .azero f n1 => Sys2Proof.Machine.execAzero f n1 s
  | .ard f n1 col => Sys2Proof.Machine.execArd f n1 col s
  | .awr f n1 col => Sys2Proof.Machine.execAwr f n1 col s
  | .accst f scr fmt scope order => Sys2Proof.Machine.execAccst f scr fmt scope order s
  | .jopen f block n => Sys2Proof.Machine.execJopen f block n s
  | .jins f v => Sys2Proof.Machine.execJins f v s
  | .jrun f v => Sys2Proof.Machine.execJrun f v s
  | .jdrain f => Sys2Proof.Machine.execJdrain f s
  | .jstat f item => Sys2Proof.Machine.execJstat f item s
  | .jclose f => Sys2Proof.Machine.execJclose f s
  | .fget f dScr bScr => Sys2Proof.Machine.execFget f dScr bScr s
  | .fput f ord cnt sig scr => Sys2Proof.Machine.execFput f ord cnt sig scr s
  | .fatom f ord w64 noRet order op => Sys2Proof.Machine.execFatom f ord w64 noRet order op s
  | .fcas f ord w64 order => Sys2Proof.Machine.execFcas f ord w64 order s
  | .fflush f => Sys2Proof.Machine.execFflush f s
  | .fmcast f ord cnt sig scr => Sys2Proof.Machine.execFmcast f ord cnt sig scr s
  | .fred f cnt scr op => Sys2Proof.Machine.execFred f cnt scr op s
  | .fwinOpen f => Sys2Proof.Machine.execFwinOpen f s
  | .fwinRevoke f => Sys2Proof.Machine.execFwinRevoke f s
  | .clauseStart core bench => Sys2Proof.Machine.execClauseStart core bench s
  | .spawnBinTimerExpiry core bin => Sys2Proof.Machine.execSpawnBinTimerExpiry core bin s
  | .spawnedSquadDispatch id => Sys2Proof.Machine.execSpawnedSquadDispatch id s
  | .squadRetirement uid => Sys2Proof.Machine.execSquadRetirement uid s
  | .exitRecordWrite id => Sys2Proof.Machine.execExitRecordWrite id s
  | .musterRetirement launch muster => Sys2Proof.Machine.execMusterRetirement launch muster s
  | .requestPerform id lanes fromL1 merge => Sys2Proof.Machine.execRequestPerform id lanes fromL1 merge s
  | .escortLanding id => Sys2Proof.Machine.execEscortLanding id s
  | .landingBufferMove core bench => Sys2Proof.Machine.execLandingBufferMove core bench s
  | .eviction core bench => Sys2Proof.Machine.execEviction core bench s
  | .rehousing core bench => Sys2Proof.Machine.execRehousing core bench s
  | .pageFaultRecordAppend ctx => Sys2Proof.Machine.execPageFaultRecordAppend ctx s
  | .regionRestart uid => Sys2Proof.Machine.execRegionRestart uid s
  | .barrierUpdate id => Sys2Proof.Machine.execBarrierUpdate id s
  | .unsupportedAtomicService id => Sys2Proof.Machine.execUnsupportedAtomicService id s
  | .externalWaitExpiry uid => Sys2Proof.Machine.execExternalWaitExpiry uid s
  | .wextRetest uid => Sys2Proof.Machine.execWextRetest uid s
  | .quarryIssue core thread => Sys2Proof.Machine.execQuarryIssue core thread s
  | .quarryStartTaken core => Sys2Proof.Machine.execQuarryStartTaken core s
  | .quarryReadLanding id => Sys2Proof.Machine.execQuarryReadLanding id s
  | .quarryStartCompletion core id => Sys2Proof.Machine.execQuarryStartCompletion core id s
  | .hoistLineLanding id line => Sys2Proof.Machine.execHoistLineLanding id line s
  | .hoistCompletion id => Sys2Proof.Machine.execHoistCompletion id s
  | .hoistFault id => Sys2Proof.Machine.execHoistFault id s
  | .ringRoundStart launch muster => Sys2Proof.Machine.execRingRoundStart launch muster s
  | .ringRoundFailure launch muster => Sys2Proof.Machine.execRingRoundFailure launch muster s
  | .ownershipService core bench => Sys2Proof.Machine.execOwnershipService core bench s
  | .drainCompletion id => Sys2Proof.Machine.execDrainCompletion id s
  | .fabricRequestArrival p => Sys2Proof.Machine.execFabricRequestArrival p s
  | .fabricPlacement id => Sys2Proof.Machine.execFabricPlacement id s
  | .fabricForward p => Sys2Proof.Machine.execFabricForward p s
  | .fabricResponse id cause data late => Sys2Proof.Machine.execFabricResponse id cause data late s
  | .responseTimeout id => Sys2Proof.Machine.execResponseTimeout id s
  | .packetInjection id => Sys2Proof.Machine.execPacketInjection id s
  | .reductionCombine group round => Sys2Proof.Machine.execReductionCombine group round s
  | .writeCombiningAgeExpiry core entry => Sys2Proof.Machine.execWriteCombiningAgeExpiry core entry s
  | .wavelengthPark port => Sys2Proof.Machine.execWavelengthPark port s
  | .wavelengthWake port => Sys2Proof.Machine.execWavelengthWake port s
  | .wavelengthWakeComplete port => Sys2Proof.Machine.execWavelengthWakeComplete port s
  | .commandAcceptance => Sys2Proof.Machine.execCommandAcceptance s
  | .commandStart id => Sys2Proof.Machine.execCommandStart id s
  | .launch id => Sys2Proof.Machine.execLaunch id s
  | .codeLoad id => Sys2Proof.Machine.execCodeLoad id s
  | .viewRegistration id => Sys2Proof.Machine.execViewRegistration id s
  | .groupConfiguration id => Sys2Proof.Machine.execGroupConfiguration id s
  | .fabricTableInvalidation id => Sys2Proof.Machine.execFabricTableInvalidation id s
  | .tlbInvalidation id => Sys2Proof.Machine.execTlbInvalidation id s
  | .contextCreate id => Sys2Proof.Machine.execContextCreate id s
  | .contextTeardown id => Sys2Proof.Machine.execContextTeardown id s
  | .queueConfiguration id => Sys2Proof.Machine.execQueueConfiguration id s
  | .pageFaultResolution id => Sys2Proof.Machine.execPageFaultResolution id s
  | .unitPlacement => Sys2Proof.Machine.execUnitPlacement s
  | .barrierInitWrite id => Sys2Proof.Machine.execBarrierInitWrite id s
  | .clusterGateRequest cluster => Sys2Proof.Machine.execClusterGateRequest cluster s
  | .clusterGatingComplete cluster => Sys2Proof.Machine.execClusterGatingComplete cluster s
  | .clusterGatingAbandon cluster => Sys2Proof.Machine.execClusterGatingAbandon cluster s
  | .clusterWakeComplete cluster => Sys2Proof.Machine.execClusterWakeComplete cluster s
  | .watchdogReport uid => Sys2Proof.Machine.execWatchdogReport uid s
  | .preemptionRequest core => Sys2Proof.Machine.execPreemptionRequest core s
  | .squadSave uid => Sys2Proof.Machine.execSquadSave uid s
  | .savedReply id => Sys2Proof.Machine.execSavedReply id s
  | .musterCoreSave core => Sys2Proof.Machine.execMusterCoreSave core s
  | .coreSetRestore id => Sys2Proof.Machine.execCoreSetRestore id s
  | .benchCloseSpill core bench => Sys2Proof.Machine.execBenchCloseSpill core bench s
  | .migration launch muster core target => Sys2Proof.Machine.execMigration launch muster core target s
  | .migrationAbandon => Sys2Proof.Machine.execMigrationAbandon s
  | .tierCountHalving => Sys2Proof.Machine.execTierCountHalving s
  | .tierSwap group member => Sys2Proof.Machine.execTierSwap group member s
  | .refreshTick channel => Sys2Proof.Machine.execRefreshTick channel s
  | .refreshPullIn channel => Sys2Proof.Machine.execRefreshPullIn channel s
  | .clockWindowEnd core issued stalled => Sys2Proof.Machine.execClockWindowEnd core issued stalled s
  | .fillerInjection core bench => Sys2Proof.Machine.execFillerInjection core bench s
  | .errorCounted place uncorrectable cycle line => Sys2Proof.Machine.execErrorCounted place uncorrectable cycle line s
  | .errorWindowEnd place => Sys2Proof.Machine.execErrorWindowEnd place s
  | .rowCopyComplete place => Sys2Proof.Machine.execRowCopyComplete place s
  | .reset => Sys2Proof.Machine.execReset s
  | .bootGo block => Sys2Proof.Machine.execBootGo block s
  | .verifyComplete => Sys2Proof.Machine.execVerifyComplete s
  | .recoveryRequest => Sys2Proof.Machine.execRecoveryRequest s
  | .fatalError => Sys2Proof.Machine.execFatalError s
  | .hostAccess op => Sys2Proof.Machine.execHostAccess op s
  | .hostRegisterWrite r v => Sys2Proof.Machine.execHostRegisterWrite r v s
  | .getVersion => Sys2Proof.Machine.execGetVersion s
  | .getCapabilities => Sys2Proof.Machine.execGetCapabilities s
  | .negotiateAlgorithms asym hash => Sys2Proof.Machine.execNegotiateAlgorithms asym hash s
  | .getDigests => Sys2Proof.Machine.execGetDigests s
  | .getCertificate slot offset length => Sys2Proof.Machine.execGetCertificate slot offset length s
  | .challenge slot nonce measure session => Sys2Proof.Machine.execChallenge slot nonce measure session s
  | .getMeasurements signed index nonce session => Sys2Proof.Machine.execGetMeasurements signed index nonce session s
  | .keyExchange slot reqSession exchange => Sys2Proof.Machine.execKeyExchange slot reqSession exchange s
  | .finish session hmac => Sys2Proof.Machine.execFinish session hmac s
  | .endSession session => Sys2Proof.Machine.execEndSession session s
  | .vendorDefinedRequest session slot key => Sys2Proof.Machine.execVendorDefinedRequest session slot key s
  | .illegalInstruction w => Sys2Proof.Machine.execIllegalInstruction w s
  | .ringTileLanding id line => Sys2Proof.Machine.execRingTileLanding id line s
  | .packageLimiter core mhz => Sys2Proof.Machine.execPackageLimiter core mhz s

end Sys2Proof.Machine
end

