-- ==== Sys2Proof/Machine/Run.lean ====
section
/-! DEFINITION. What one step runs: the instruction at the position of the agent in turn, an item of the schedule, or, where nothing is
scheduled, the first event of a fixed list that changes the state. Also where a host or a test places an instruction word so that the next
step runs it. -/

namespace Sys2Proof.Machine

/-! ### The agent in turn -/

/-- The word at the position of an agent inside a clause (R78, R81): the agent's core, context and word address. -/
def Chip.wordOf (c : Chip) (a : Agent) : Option (Nat × Nat × Nat) :=
  match a with
  | .squad uid => (c.squad? uid).bind fun q => if q.exe.inClause then some (q.place.core, q.exe.ctx, q.exe.wordAt) else none
  | .thread n t => (c.thread? n t).bind fun th => if th.exe.inClause then some (n, th.exe.ctx, th.exe.wordAt) else none

/-- Whether an agent may issue its next instruction: it is inside a clause, and a squad has its bench, and is not evicted, waiting for a page, stopped
by a double trap, or awaiting a response (R82). -/
def Chip.mayRun (c : Chip) (a : Agent) : Bool :=
  (c.wordOf a).isSome &&
    match a with
    | .squad uid => (c.squad? uid).any fun q => q.evicted.isNone && q.parked.isNone && !q.dead && q.awaiting.isNone && c.hasBench q
    | .thread _ _ => true

/-- A word that cannot be fetched: the agent waits for the page, or takes the access fault (R178, R179, R212). -/
def Chip.wordFault (c : Chip) (a : Agent) (e : XErr) (va : Nat) : Chip :=
  match a with
  | .squad uid => match c.squad? uid, e with
    | some q, .absent page => { c.fetchFault q page with turn := none }
    | some q, .access r => c.takeTrap q.uid (accessFault r va)
    | none, _ => c
  | .thread n t => match c.thread? n t, e with
    | some th, .absent page => { c.threadFetchFault n th page with turn := none }
    | some _, .access r => c.quarryFault n t (threadFault r va)
    | none, _ => c

/-- The word that an agent in turn has before it. -/
def Chip.turnWord (c : Chip) (a : Agent) (core ctx va : Nat) : Except XErr DWord :=
  match a with
  | .squad _ => c.fetchWord core ctx va
  | .thread n t => match c.thread? n t with
    | some th => c.threadWord n th va
    | none => c.fetchWord core ctx va

/-- Run one instruction of the agent in turn: what its word decodes to (R93), or the fault that fetching it meets. -/
def runTurn (s : State) : Host.Outcome State Fault Refusal :=
  match s.chip.turn with
  | none => .next s
  | some a => match s.chip.wordOf a with
    | none => .next { s with chip := { s.chip with turn := none } }
    | some w => match s.chip.turnWord a w.1 w.2.1 w.2.2 with
      | .ok x => exec (decodeOrIllegal x) s
      | .error e => onChip s (s.chip.wordFault a e w.2.2)

/-! ### The schedule -/

/-- Whether a constructor is an engine event: it has no encoding and is not the row of unassigned words. -/
def isEvent (i : Instr) : Bool :=
  match i with
  | .illegalInstruction _ => false
  | i => (encode i).isNone

/-- An item of the schedule: an event happens, or an agent issues its next instruction. An agent that may not is passed over, and an
instruction never stands for itself. (DESIGN CHOICE, log 6.) -/
def Item.act (x : Item) (s : State) : Host.Outcome State Fault Refusal :=
  match x with
  | .event i => if isEvent i then exec i s else .next s
  | .run a => if s.chip.mayRun a then runTurn { s with chip := { s.chip with turn := some a } } else .next s

/-- Commands, requests and packets that may go on. -/
def Chip.flowing (c : Chip) : List Instr :=
  let reqs : List Instr := c.requests.flatMap fun r =>
    [.requestPerform r.id (2 ^ 32 - 1) false none, .unsupportedAtomicService r.id, .escortLanding r.id, .quarryReadLanding r.id, .savedReply r.id]
  let fabric : List (List Instr) := [c.fab.cmds.map fun k => .packetInjection k.id, c.fab.out.map fun p => .packetInjection p.id, c.fab.inn.map fun p => .fabricPlacement p.id,
    c.fab.partials.map fun p => .reductionCombine p.group p.round, c.fab.back.map fun x => .fabricResponse x.1 0 [] false,
    c.fab.kept.map fun x => .fabricResponse x.1 0 [] false]
  List.flatten ([reqs, c.updates.map fun u => Instr.barrierUpdate u.id, c.squads.map fun q => Instr.regionRestart q.uid,
    ((List.range c.ctxs.length).filter fun x => (c.ctx? x).isSome).map Instr.pageFaultRecordAppend] ++ fabric)

/-- What the engines of a core may do. -/
def Chip.engineEvents (c : Chip) (n : Nat) : List Instr :=
  let k := c.core n
  let hoists : List Instr := k.hoists.flatMap fun h => .hoistFault h.id :: .hoistCompletion h.id :: h.lines.map (Instr.hoistLineLanding h.id)
  let threads : List Instr := (k.threads.mapIdx fun t x => (x.filter fun th => !th.exe.inClause).map fun _ => Instr.quarryIssue n t).filterMap id
  List.flatten [hoists, k.starts.map fun _ => Instr.quarryStartTaken n, k.ends.map fun e => Instr.quarryStartCompletion n e.id, threads]

/-- What a bench may do. -/
def Chip.benchEvents (c : Chip) (n b : Nat) : List Instr :=
  if (c.squads.any fun q => q.place.core == n && q.place.bench == b) || (c.bench n b).closed then
    List.flatten [[.landingBufferMove n b, .eviction n b, .rehousing n b, .ownershipService n b, .benchCloseSpill n b],
      (c.bench n b).drains.map fun d => Instr.drainCompletion d.id, [.clauseStart n b]]
  else []

/-- Rounds of the ring. -/
def Chip.ringEvents (c : Chip) : List Instr :=
  c.rings.flatMap fun r => .ringRoundStart r.launch r.muster :: .ringRoundFailure r.launch r.muster :: (List.range r.lines.length).map (Instr.ringTileLanding r.id)

/-- What ends, and what the distributor may do. -/
def Chip.distributing (c : Chip) : List Instr :=
  let cmds : List Instr := c.cmds.flatMap fun k =>
    [.commandStart k.id, .launch k.id, .codeLoad k.id, .viewRegistration k.id, .groupConfiguration k.id, .fabricTableInvalidation k.id,
      .tlbInvalidation k.id, .contextCreate k.id, .contextTeardown k.id, .queueConfiguration k.id, .pageFaultResolution k.id]
  let ends : List Instr := c.launches.flatMap fun l => l.musters.map fun m => .musterRetirement l.id m.idx
  List.flatten [c.squads.map fun q => Instr.squadRetirement q.uid, c.exitRecords.map fun e => Instr.exitRecordWrite e.id, ends, cmds,
    if c.running then [.commandAcceptance] else [], c.barInits.map fun b => Instr.barrierInitWrite b.id,
    c.formed.map fun f => Instr.spawnedSquadDispatch f.id, if c.launches.isEmpty then [] else [.unitPlacement],
    c.squads.map fun q => Instr.squadSave q.uid, (c.formed.filter fun f => f.saves).map fun f => Instr.squadSave f.id, (List.range c.cores.length).map Instr.musterCoreSave,
    c.coreSets.map fun x => Instr.coreSetRestore x.id]

/-- What happens when waiting has lasted long enough: external waits, packets without a response, contexts that wait for a core. (DESIGN CHOICE, log 7.) -/
def Chip.lateEvents (c : Chip) : List Instr :=
  List.flatten [c.squads.map fun q => Instr.wextRetest q.uid, c.squads.map fun q => Instr.externalWaitExpiry q.uid,
    c.fab.out.map fun p => Instr.responseTimeout p.id, (List.range c.cores.length).map Instr.preemptionRequest]

/-- Timers of a core that may expire. (DESIGN CHOICE, log 7.) -/
def Chip.timerEvents (c : Chip) (n : Nat) : List Instr :=
  List.flatten [(c.core n).bins.mapIdx fun i _ => Instr.spawnBinTimerExpiry n i, (c.core n).wc.map fun w => Instr.writeCombiningAgeExpiry n w.id]

/-- Agents of the chip. -/
def Chip.agents (c : Chip) : List Agent :=
  List.flatten [c.squads.map fun q => Agent.squad q.uid,
    (List.range c.cores.length).flatMap fun n => ((c.core n).threads.mapIdx fun t x => x.map fun _ => Agent.thread n t).filterMap id]

/-- Boot events that wait for nothing. -/
def Plat.bootEvents (p : Plat) : List Instr :=
  match p.boot with
  | .reset => [.reset]
  | .verify => [.verifyComplete]
  | .ready => []
  | .recovery => []
  | .running => []

/-- A list that begins at another place, so that each element comes first in turn. -/
def turned {α : Type} (xs : List α) (k : Nat) : List α := xs.drop (k % max 1 xs.length) ++ xs.take (k % max 1 xs.length)

/-- What may happen where nothing is scheduled, in the order in which it is tried. The benches take turns, and after some clause starts the
distributor and the timers go first, so that no program which waits in a loop holds the rest up. (DESIGN CHOICE, log 6.) -/
def State.candidates (s : State) : List Item :=
  let c := s.chip
  let cores := List.range c.cores.length
  let near : List Instr := List.flatten [s.plat.bootEvents, c.flowing, cores.flatMap c.engineEvents, c.ringEvents,
    (turned ((cores.flatMap fun n => (List.range 6).map (c.benchEvents n)).filter fun xs => !xs.isEmpty) c.order).flatten]
  let far : List Instr := List.flatten [c.distributing, cores.flatMap c.timerEvents,
    (List.range s.plat.power.length).flatMap fun i => [Instr.clusterGatingAbandon i, Instr.clusterWakeComplete i]]
  let events := if c.order % 64 = 63 then c.lateEvents ++ far ++ near else if c.order % 8 = 7 then far ++ near ++ c.lateEvents else near ++ far ++ c.lateEvents
  (turned c.agents c.order).map Item.run ++ events.map Item.event

/-- The first of some items that changes the state; the state itself where none does. -/
def firstChange (s : State) : List Item → Host.Outcome State Fault Refusal
  | [] => .next s
  | x :: xs => match x.act s with
    | .next t => if t = s then firstChange s xs else .next t
    | o => o

/-- Nothing is scheduled and no agent is in turn: the first candidate that changes the state. -/
def idle (s : State) : Host.Outcome State Fault Refusal := firstChange s s.candidates

/-! ### Placing an instruction for the next step -/

/-- Class of a clause that may hold an instruction of an opcode (R82). -/
def classOf (op : Nat) : Nat :=
  if op < 0x280 then 0 else if op < 0x2C0 then 1 else if op < 0x300 then 2
  else if op < 0x310 then 3 else if op < 0x340 then 0 else if op < 0x3A0 then 4 else 5

/-- Page tables that map the page of virtual address 0x10000 to device page 0x50000 with every right, at 0x10000 to 0x4FFFF (R176). (DESIGN CHOICE, log 5.) -/
def bootTables (m : Mem) : Mem :=
  let entry := fun (m : Mem) (a v : Nat) => m.setLe a 8 v
  let zero := fun (m : Mem) => Sparse.clearRange m 0x10000 0x60000
  entry (entry (entry (entry (zero m) 0x10000 (0x20000 + 3)) 0x20000 (0x30000 + 3)) 0x30000 (0x40000 + 3)) 0x40008 (0x50000 + 0x1D)

/-- The context whose page tables those are. -/
def bootCtx : Ctx := { level1 := 0x10000, errBase := 0x100000, pfBase := 0x110000, accBase := 0x200000, imgBase := 0x1000000, musBase := 0x3000000, trapvec := 0x10800 }

/-- Header of a one-word clause of a class: no pennants for loads and stores (R78). -/
def bootHeader (cls : Nat) : Nat := fld 60 cls + fld 40 15 + fld 36 15

/-- The register side of the agent that runs the placed word: word 0 of a one-word clause at 0x10000. -/
def bootExe (cls : Nat) (thread : Option Nat) : Exe :=
  { declared := if thread.isSome then 16 else 240, active := if thread.isSome then 1 else BitVec.allOnes 32
    hdr := BitVec.ofNat 64 (bootHeader cls), hdrAt := 0x10000, inClause := true, thread }

/-- A machine at which the placed word is the next to run: one context with its code page, and a squad or, for an access clause, a quarry
thread, at the word. -/
def State.placeNew (s : State) (w : Nat) : State :=
  let cls := classOf (bits w 63 54)
  let mem := ((bootTables s.chip.dev).setLe 0x50000 8 (bootHeader cls)).setLe 0x50008 8 w
  let c : Chip := { s.chip with
    dev := mem, bad := [], locked := [], running := false
    ctxs := modAt s.chip.ctxs 0 fun _ => some bootCtx
    tlb2 := s.chip.tlb2.map fun _ => [] }
  let c := c.modCore 0 fun k => { k with tlb := [] }
  let c : Chip :=
    if cls = 3 then
      { (c.modCore 0 fun k => { k with threads := modAt k.threads 0 fun _ => some { id := 0, exe := bootExe 3 (some 0), launch := 0, slot := 0, num := 1 } }) with
        turn := some (.thread 0 0) }
    else
      { c with squads := [{ uid := 0, place := {}, exe := bootExe cls none }], turn := some (.squad 0) }
  { s with chip := c, agenda := [] }

/-- Where the agent in turn fetches its next word from, if it can. -/
def State.nextWord (s : State) : Option (List Loc) :=
  match s.chip.turn with
  | none => none
  | some a => if s.chip.mayRun a then (s.chip.wordOf a).bind fun w => (s.chip.xl w.1 w.2.1 { x := true } w.2.2 8).toOption else none

/-- The state with a word placed where the next step fetches: under the agent in turn, or, where none can fetch, under a new one. (DESIGN CHOICE, log 5.) -/
def State.placeWord (s : State) (w : Nat) : State :=
  match s.nextWord with
  | some ls => { s with chip := s.chip.writeLocs ls (leBytes 8 w), agenda := [] }
  | none => s.placeNew w

end Sys2Proof.Machine
end

