-- ==== Sys2Proof/Machine/Step.lean ====
section
/-! DEFINITION. One step of the machine, and the state with an instruction placed for the next step. -/

namespace Sys2Proof.Machine

/-- One step: the next item of the schedule; where nothing is scheduled, the next instruction of the agent in turn; where no agent is in turn
or it may not run, what the machine does by itself. -/
def step (s : State) : Host.Outcome State Fault Refusal :=
  match s.agenda with
  | x :: xs => x.act { s with agenda := xs }
  | [] => match s.chip.turn with
    | some a => if s.chip.mayRun a then runTurn s else idle { s with chip := { s.chip with turn := none } }
    | none => idle s

/-- The state with an instruction word placed where step fetches its next instruction. -/
def State.withFetchWord (s : State) (nbits w : Nat) : State := s.placeWord (w % 2 ^ nbits)

end Sys2Proof.Machine
end

