-- ==== Sys2Proof/Safety.lean ====
section
/-! DEFINITION. The terms in which claims about the machine are stated: an agent at an instruction that it may run, the state in which an
instruction is done, what one squad's instruction leaves alone, and the conditions that every state of the platform meets. -/

namespace Sys2Proof.Machine

/-! ### An agent at an instruction -/

/-- Squad q is in turn, inside a clause of one of some classes (R82), owes nothing to an earlier instruction (R179, R316), and none of the
registers in `uses` is away (R159). -/
def State.ready (s : State) (q : Squad) (classes uses : List Nat) : Bool :=
  s.chip.turn == some (.squad q.uid) && s.chip.squad? q.uid == some q && q.exe.inClause && classes.contains q.exe.cls && !q.skip &&
    q.awaiting.isNone && !s.chip.blocked q.uid uses

/-- Quarry thread t of core n is in turn and inside a clause (R209). -/
def State.readyThread (s : State) (n t : Nat) (th : QThread) : Bool :=
  s.chip.turn == some (.thread n t) && s.chip.thread? n t == some th && th.exe.inClause

/-- The state in which an instruction of squad uid is done: its effect c on the chip, and the squad at its next position, or out of its clause
where this was the last word or no lane is left (R25). -/
def State.after (s : State) (uid : Nat) (c : Chip) : State := { s with chip := c.advance uid }

/-- The state in which an instruction of a quarry thread is done. -/
def State.afterThread (s : State) (n t : Nat) (c : Chip) : State := { s with chip := c.advanceThread n t }

/-- The state in which a squad has taken a trap at its instruction (R153, R351). -/
def State.trapped (s : State) (uid : Nat) (t : Trap) : State := { s with chip := s.chip.takeTrap uid t }

/-- Whether a check passes. -/
def passes {α : Type} (x : Except Trap α) : Bool := x.toBool

/-- Whether a lane takes part in an instruction with a guard (R24, R83). -/
def Exe.takesPart (e : Exe) (g : Guard) (l : Nat) : Bool := decide (l < 32) && e.active.getLsbD l && e.guard g l

/-! ### What an instruction leaves alone -/

/-- Two states differ only in the squads and in whose turn it is, and in the squads only at uid: memory, scratch, caches, queues, banks,
contexts, requests, the fabric, the platform and the schedule are the same. -/
def State.onlySquad (s t : State) (uid : Nat) : Prop :=
  t.plat = s.plat ∧ t.agenda = s.agenda ∧ { t.chip with squads := s.chip.squads, turn := s.chip.turn } = s.chip ∧
    (∀ u, u ≠ uid → t.chip.squad? u = s.chip.squad? u) ∧ ∀ l, t.chip.byteAt l = s.chip.byteAt l

/-- A squad after a register instruction: everything but its registers, flags and latch, and what the end of a clause changes (R25, R149,
R166): its lanes' next headers, an ensign whose continuation ended, its credits. -/
def Squad.keeps (q p : Squad) : Prop :=
  p = { q with
    exe := p.exe, lpc := p.lpc, resume := p.resume, byTransfer := p.byTransfer, byResume := p.byResume, st := p.st, ensigns := p.ensigns
    contEns := p.contEns, contLeft := p.contLeft, credit := p.credit, creditRegs := p.creditRegs, stall := p.stall }

/-- The register side after an instruction: identity, declared count, muster slots and header are as before. -/
def Exe.keeps (e d : Exe) : Prop :=
  d = { e with regs := d.regs, flags := d.flags, uni := d.uni, latch := d.latch, latchAt := d.latchAt, active := d.active, pos := d.pos, inClause := d.inClause }

/-! ### Instructions that compute lane by lane -/

/-- What a lane-by-lane instruction of format R computes: fields, their use, whether quarry threads may run it too, the bits of a lane's result
from its three sources. -/
structure LaneOp where
  f : FormR
  u : RUse
  threads : Bool
  fn : Nat → Nat → Nat → Nat

/-- The lane-by-lane instructions with the result that their rules give (R99 to R130). -/
def laneOp : Instr → Option LaneOp
  | .iadd f t sat => some ⟨f, use2 t, true, fun a b _ => intResult t sat (VAL t a + VAL t b)⟩
  | .isub f t sat => some ⟨f, use2 t, true, fun a b _ => intResult t sat (VAL t a - VAL t b)⟩
  | .imul f t sat => some ⟨f, use2 t, true, fun a b _ => intResult t sat (VAL t a * VAL t b)⟩
  | .imulh f t => some ⟨f, use2 t, true, fun a b _ => intResult t false (VAL t a * VAL t b / 2 ^ tyW t)⟩
  | .imad f t sat => some ⟨f, use3 t, true, fun a b c => intResult t sat (VAL t a * VAL t b + VAL t c)⟩
  | .imin f t => some ⟨f, use2 t, true, fun a b _ => intResult t false (min (VAL t a) (VAL t b))⟩
  | .imax f t => some ⟨f, use2 t, true, fun a b _ => intResult t false (max (VAL t a) (VAL t b))⟩
  | .iabs f t sat => some ⟨f, use1 t, true, fun a _ _ => intResult t sat (VAL t a).natAbs⟩
  | .ineg f t sat => some ⟨f, use1 t, true, fun a _ _ => intResult t sat (-VAL t a)⟩
  | .and f t => some ⟨f, use2 t, true, fun a b _ => PUT t (VAL t (a % 2 ^ tyW t &&& b % 2 ^ tyW t))⟩
  | .or f t => some ⟨f, use2 t, true, fun a b _ => PUT t (VAL t (a % 2 ^ tyW t ||| b % 2 ^ tyW t))⟩
  | .xor f t => some ⟨f, use2 t, true, fun a b _ => PUT t (VAL t ((a % 2 ^ tyW t) ^^^ (b % 2 ^ tyW t)))⟩
  | .andn f t => some ⟨f, use2 t, true, fun a b _ => PUT t (VAL t (a % 2 ^ tyW t &&& (2 ^ tyW t - 1 - b % 2 ^ tyW t)))⟩
  | .not f t => some ⟨f, use1 t, true, fun a _ _ => PUT t (VAL t (2 ^ tyW t - 1 - a % 2 ^ tyW t))⟩
  | .shl f t imm cnt => some ⟨f, useShift t imm, true, fun a b _ => PUT t (VAL t (shlW (tyW t) (a % 2 ^ tyW t) (if imm then cnt.toNat else b % 256)))⟩
  | .shr f t imm cnt => some ⟨f, useShift t imm, true, fun a b _ => PUT t (VAL t (shrW (tyW t) (a % 2 ^ tyW t) (if imm then cnt.toNat else b % 256)))⟩
  | .sar f t imm cnt => some ⟨f, useShift t imm, true, fun a b _ => PUT t (VAL t (sarW (tyW t) (a % 2 ^ tyW t) (if imm then cnt.toNat else b % 256)))⟩
  | .rot f t imm cnt => some ⟨f, useShift t imm, true, fun a b _ => PUT t (VAL t (rotW (tyW t) (a % 2 ^ tyW t) (if imm then cnt.toNat else b % 256)))⟩
  | .popc f t => some ⟨f, use1 t, true, fun a _ _ => PUT t (VAL t (popcW (tyW t) (a % 2 ^ tyW t)))⟩
  | .clz f t => some ⟨f, use1 t, true, fun a _ _ => PUT t (VAL t (clzW (tyW t) (a % 2 ^ tyW t)))⟩
  | .brev f t => some ⟨f, use1 t, true, fun a _ _ => PUT t (VAL t (brevW (tyW t) (a % 2 ^ tyW t)))⟩
  | .shf f left => some ⟨f, useSingle3, true, funnel left⟩
  | .bfx f t => some ⟨f, useBfx t, true, fun a b c => PUT t (bfxW t a b c)⟩
  | .bfi f t => some ⟨f, useBfi t, true, fun a b c => PUT t (bfiW t a b c)⟩
  | .perm f => some ⟨f, useSingle3, true, permW⟩
  | .lea f t sh => some ⟨f, useLea, true, fun a b _ => pattern 64 ((a : Int) + VAL t b * 2 ^ sh.toNat)⟩
  | .fadd f r => some ⟨f, useF2, false, fun a b _ => ROUND (fAdd (val32 a) (val32 b) r) .f32 r⟩
  | .fsub f r => some ⟨f, useF2, false, fun a b _ => ROUND (fAdd (val32 a) (fNeg (val32 b)) r) .f32 r⟩
  | .fmul f r => some ⟨f, useF2, false, fun a b _ => ROUND (fMul (val32 a) (val32 b)) .f32 r⟩
  | .ffma f r => some ⟨f, useF3, false, fun a b c => ROUND (fFma (val32 a) (val32 b) (val32 c) r) .f32 r⟩
  | .fmin f => some ⟨f, useF2, false, fun a b _ => fMinMax false a b⟩
  | .fmax f => some ⟨f, useF2, false, fun a b _ => fMinMax true a b⟩
  | .frcp f r => some ⟨f, useF1, false, fun a _ _ => ROUND (fRcp (val32 a)) .f32 r⟩
  | .frsq f r => some ⟨f, useF1, false, fun a _ _ => ROUND (fRsq (val32 a)) .f32 r⟩
  | .fsqrt f r => some ⟨f, useF1, false, fun a _ _ => ROUND (fSqrt (val32 a)) .f32 r⟩
  | .fex2 f => some ⟨f, useF1, false, fun a _ _ => fex2W a⟩
  | .flg2 f => some ⟨f, useF1, false, fun a _ _ => flg2W a⟩
  | .fsin f => some ⟨f, useF1, false, fun a _ _ => fsinW a⟩
  | .fcos f => some ⟨f, useF1, false, fun a _ _ => fcosW a⟩
  | .frnd f r => some ⟨f, useF1, false, fun a _ _ => fRound (val32 a) r⟩
  | .fcvt f df r sf el => some ⟨f, useF1, false, fun a _ _ => ROUND (unpack sf (element sf a el.toNat)) df r⟩
  | .f2i f t r sf el => some ⟨f, useF2i t, false, fun a _ _ => PUT t (SATF (unpack sf (element sf a el.toNat)) t r)⟩
  | .i2f f df r t => some ⟨f, useI2f t, false, fun a _ _ => ROUND (fOfInt (VAL t a)) df r⟩
  | .hadd2 f m r => some ⟨f, useF2, false, packed m fun a b _ => ROUND (fAdd a b r) m r⟩
  | .hmul2 f m r => some ⟨f, useF2, false, packed m fun a b _ => ROUND (fMul a b) m r⟩
  | .hfma2 f m r => some ⟨f, useF3, false, packed m fun a b c => ROUND (fFma a b c r) m r⟩
  | _ => none

end Sys2Proof.Machine
end

