-- ==== Sys2Proof/Certificates/Slice0/Obligations.lean ====
section
/-! DEFINITION. The statements about the model that the provers are asked to prove. -/

open Sys2Proof Sys2Proof.Machine

/-! ### Encoding -/

/-- Words written out from the encoding tables stand for the instructions that the tables give: the four worked encodings of R139 and R313. -/
def Obligations.EncodedWords : Prop :=
  (decode 0x7005E60000019E00).toOption = some (.bra ⟨⟨false, 2⟩, 0xF3, 12, 15⟩) ∧
    (decode 0x72CFE60000000600).toOption = some (.bwait ⟨⟨false, 7⟩, 0xF3, 0, 3⟩) ∧
    (decode 0xD8CE0C04080A0000).toOption = some (.fcas ⟨⟨false, 7⟩, 6, 2, 4, 5, 0, false⟩ false false 0) ∧
    (decode 0xD84E14181C202180).toOption = some (.fput ⟨⟨false, 7⟩, 10, 12, 14, 16, 4, false⟩ false true true false)

/-- Decoding an encoded well-formed instruction gives it back, with every operand at every value the encoding admits. -/
def Obligations.DecodeEncode : Prop := ∀ i w, i.wf = true → encode i = some w → decode w = .ok i

/-- A decoded word is well formed and is the one word of its instruction, and no word decodes to an engine event. -/
def Obligations.EncodeDecode : Prop :=
  (∀ w i, decode w = .ok i → i.wf = true ∧ encode i = some w) ∧ (∀ i, isEvent i = true → ∀ w, decode w ≠ .ok i)

/-! ### Steps -/

/-- A step with nothing scheduled runs the instruction whose word stands at the position of the agent in turn: exec of it at that state; a word
that is no instruction runs as the row ILLEGAL_INSTRUCTION. (A quarry thread's word is fetched so unless its page was reported unresolvable, R179.)
A step with a scheduled event runs that event; a scheduled turn of an agent that may run gives the agent the turn and runs its word. -/
def Obligations.StepRuns : Prop :=
  (∀ (s : State) (a : Agent) (w : Nat × Nat × Nat) (x : DWord), s.agenda = [] → s.chip.turn = some a → s.chip.mayRun a = true →
    s.chip.wordOf a = some w → s.chip.fetchWord w.1 w.2.1 w.2.2 = .ok x →
    (∀ n t th, a = .thread n t → s.chip.thread? n t = some th → s.chip.failedIn th.id w.2.2 8 = false) →
    (∀ i, decode x = .ok i → step s = exec i s) ∧ (∀ e, decode x = .error e → step s = exec (.illegalInstruction x) s)) ∧
  ((∀ (s : State) (i : Instr) (xs : List Item), s.agenda = .event i :: xs → isEvent i = true → step s = exec i { s with agenda := xs }) ∧
    ∀ (s : State) (a : Agent) (xs : List Item) (w : Nat × Nat × Nat) (x : DWord) (i : Instr), s.agenda = .run a :: xs → s.chip.mayRun a = true →
      s.chip.wordOf a = some w → s.chip.fetchWord w.1 w.2.1 w.2.2 = .ok x →
      (∀ n t th, a = .thread n t → s.chip.thread? n t = some th → s.chip.failedIn th.id w.2.2 8 = false) → decode x = .ok i →
      step s = exec i { s with chip := { s.chip with turn := some a }, agenda := xs })

/-! ### Registers: instructions that compute lane by lane -/

/-- What an instruction that writes value v l to a general destination leaves: in every lane that takes part the destination holds the value (xz
discards it); every other register of every lane, the flags, the uniform registers, identity and slots are as before. -/
def lanesWritten (g : Guard) (w : Bool) (code : Code) (v : Nat → Nat) (e d : Exe) : Prop :=
  (∀ l, e.takesPart g l = true → code.toNat < 0xF0 →
      (if w then d.regPair code.toNat l else (d.reg code.toNat l).toNat) = v l % 2 ^ (if w then 64 else 32)) ∧
    (∀ n l, l < 32 → (e.takesPart g l = false ∨ n ∉ codeRegs w code) → d.reg n l = e.reg n l) ∧
    d.flags = e.flags ∧ d.uni = e.uni ∧ e.keeps d

/-- The effect of a lane-by-lane instruction: the result of its sources as they stood before. -/
def laneEffect (o : LaneOp) (e d : Exe) : Prop :=
  lanesWritten o.f.g o.u.dst.wide o.f.dst
    (fun l => o.fn (e.src o.u.a.wide o.f.a l) (e.src o.u.b.wide o.f.b l) (e.src o.u.c.wide o.f.c l)) e d

/-- What the operand latch holds after an R-format instruction of an agent: with Hold 0 it is as before; else the entry that Latch slot names holds, in
every active lane and whatever the guard, the source that Hold names as it stood before, captured at this position (R84, R88, R89). -/
def latched (f : FormR) (u : RUse) (e d : Exe) : Prop :=
  let h := if f.hold = 1 then (u.a, f.a) else if f.hold = 2 then (u.b, f.b) else (u.c, f.c)
  d.latchAt = (if f.hold = 0 then e.latchAt else e.latchAt.set f.slot.toNat (some e.pos)) ∧
    ∀ k l, k < 3 → l < 32 → d.latchVal k l =
      if f.hold ≠ 0 ∧ k = f.slot.toNat ∧ e.active.getLsbD l = true then BitVec.ofNat 64 (e.src h.1.wide h.2 l) else e.latchVal k l

/-- The register side stands at the same place of the same clause. -/
def samePlace (e d : Exe) : Prop := d.pos = e.pos ∧ d.active = e.active ∧ d.inClause = e.inClause

/-- An instruction of squad q completes with an effect on the register side alone: the next state is the one in which the squad, with its registers,
flags and latch as `eff` says and its clause as before, has done the instruction; the rest of the squad and all of the rest of the machine are as
before. -/
def Completes (i : Instr) (s : State) (q : Squad) (eff : Exe → Prop) : Prop :=
  ∃ d, let t := s.after q.uid (s.chip.setSquad { q with exe := d });
    exec i s = .next t ∧ eff d ∧ samePlace q.exe d ∧ t.chip.squad? q.uid = some ({ q with exe := d } : Squad).advance ∧
      q.keeps ({ q with exe := d } : Squad).advance ∧ s.onlySquad t q.uid

/-- An R-format instruction completes so, and captures into the latch what its Hold field says. -/
def CompletesR (i : Instr) (s : State) (q : Squad) (f : FormR) (u : RUse) (eff : Exe → Prop) : Prop :=
  Completes i s q fun d => eff d ∧ latched f u q.exe d

/-- An instruction of another format completes so, and leaves the latch as it is. -/
def CompletesI (i : Instr) (s : State) (q : Squad) (eff : Exe → Prop) : Prop :=
  Completes i s q fun d => eff d ∧ d.latch = q.exe.latch ∧ d.latchAt = q.exe.latchAt

/-- An R-format instruction completes for a squad wherever its operand codes pass the checks of R86 to R89, writes fn of its sources in the lanes
that take part, captures what Hold names, and leaves everything else of the squad and all of the rest of the machine as it was. -/
def Writes (i : Instr) (f : FormR) (u : RUse) (fn : Nat → Nat → Nat → Nat) : Prop :=
  ∀ (s : State) (q : Squad), s.ready q [0] (regsR f u) = true → passes (q.exe.chkR f u) = true →
    CompletesR i s q f u (laneEffect ⟨f, u, true, fn⟩ q.exe)

/-- The 46 lane-by-lane instructions complete for a squad, with the result that the rules R99 to R130 give and the latch as R88 and R89 say.
The integer ones among them complete in the same way for a quarry thread, whose one lane is lane 0 (R101, R209). -/
def Obligations.LaneResults : Prop :=
  (∀ (i : Instr) (o : LaneOp), laneOp i = some o → Writes i o.f o.u o.fn) ∧
  (∀ (i : Instr) (o : LaneOp) (s : State) (n t : Nat) (th : QThread), laneOp i = some o → o.threads = true → s.readyThread n t th = true →
    passes (th.exe.chkR o.f o.u) = true →
    ∃ d, exec i s = .next (s.afterThread n t (s.chip.modThread n t fun th => { th with exe := d })) ∧ laneEffect o th.exe d ∧ latched o.f o.u th.exe d ∧ samePlace th.exe d)

/-- An operand code that fails its check raises the precise illegal-operand trap, and no lane's register is written (R93, R153): the trap is
taken at the instruction with the field of the first failing check. R93 gives the fields of one step no order: Dst, A, B, C, Hold is the model's choice
(log 94).
Which general codes an operand field may hold: as a source a declared register (a pair even and wholly declared), a latch entry captured at
one of the two positions before, xz or the lane number; as a destination a declared register or xz (R85, R86, R89). -/
def Obligations.OperandChecks : Prop :=
  (∀ (i : Instr) (o : LaneOp) (s : State) (q : Squad), laneOp i = some o → s.ready q [0] (regsR o.f o.u) = true → passes (q.exe.chkR o.f o.u) = false →
    ∃ field, field ≤ 4 ∧ exec i s = .next (s.trapped q.uid (q.exe.operand field)) ∧
      (field = 0 ↔ passes (q.exe.chkDst o.u.dst o.f.dst) = false) ∧
      (0 < field → (field = 1 ↔ passes (q.exe.chkSrc 1 o.u.a o.f.a) = false)) ∧
      (1 < field → (field = 2 ↔ passes (q.exe.chkSrc 2 o.u.b o.f.b) = false)) ∧
      (2 < field → (field = 3 ↔ passes (q.exe.chkSrc 3 o.u.c o.f.c) = false)) ∧ (field = 4 → passes (q.exe.chkHold o.f o.u) = false)) ∧
  (∀ (e : Exe) (w : Bool) (code : Code),
    (e.srcOk w code = true ↔
      (code.toNat < 0xF0 ∧ (if w then code.toNat % 2 = 0 ∧ code.toNat + 1 < e.declared else code.toNat < e.declared)) ∨
        (∃ k p, k < 3 ∧ code.toNat = 0xF0 + k ∧ e.latchAt[k]? = some (some p) ∧ p < e.pos ∧ e.pos ≤ p + 2) ∨ code.toNat = 0xF3 ∨ code.toNat = 0xF4) ∧
    (e.dstOk w code = true ↔
      (code.toNat < 0xF0 ∧ (if w then code.toNat % 2 = 0 ∧ code.toNat + 1 < e.declared else code.toNat < e.declared)) ∨ code.toNat = 0xF3))

/-- 32-bit arithmetic wraps: the register takes the sum, the difference, the product, the negation of the 32-bit words, whatever the signedness;
`imulh` takes the high half of the product; `imad` the low half of a × b + c; `imin` and `imax` compare as the type says (R99, R104).
The immediate forms (R103, R116): D takes op(A, Imm32) on 32 bits, or on 64 bits with the immediate sign-extended; `movi` takes the immediate.
The shifts (R106): the count is bits 7:0 of B or the immediate; at the width or beyond, `shl` and `shr` give 0, `sar` the sign bit everywhere,
and `rot` rotates by the count modulo the width.
The funnel shift of R107.
The byte permutation of R110: selector nibble i names byte i of the result.
`lea` (R115): the pair A plus the index, extended by type and shifted left, modulo 2^64. -/
def Obligations.WordOperations : Prop :=
  ((∀ (f : FormR) (t : IntTy), t = .s32 ∨ t = .z32 →
    Writes (.iadd f t false) f (use2 t) (fun a b _ => (BitVec.ofNat 32 a + BitVec.ofNat 32 b).toNat) ∧
    Writes (.isub f t false) f (use2 t) (fun a b _ => (BitVec.ofNat 32 a - BitVec.ofNat 32 b).toNat) ∧
    Writes (.imul f t false) f (use2 t) (fun a b _ => (BitVec.ofNat 32 a * BitVec.ofNat 32 b).toNat) ∧
    Writes (.imad f t false) f (use3 t) (fun a b c => (BitVec.ofNat 32 a * BitVec.ofNat 32 b + BitVec.ofNat 32 c).toNat) ∧
    Writes (.ineg f t false) f (use1 t) (fun a _ _ => (-BitVec.ofNat 32 a).toNat) ∧
    Writes (.imulh f .z32) f (use2 .z32) (fun a b _ => a * b / 2 ^ 32) ∧
    Writes (.imin f .s32) f (use2 .s32) (fun a b _ => if (BitVec.ofNat 32 a).toInt ≤ (BitVec.ofNat 32 b).toInt then a else b) ∧
    Writes (.imax f .z32) f (use2 .z32) (fun a b _ => max a b)) ∧
  (∀ (s : State) (q : Squad) (f : FormI) (w : Bool), passes (q.exe.chkDst (.gen w) f.dst) = true →
    let imm := if w then (f.imm.signExtend 64).toNat else f.imm.toNat;
    (s.ready q [0] (codeRegs w f.dst) = true → CompletesI (.movi f w) s q (lanesWritten f.g w f.dst (fun _ => imm) q.exe)) ∧
    (s.ready q [0] (codeRegs w f.dst ++ codeRegs w f.a) = true → passes (q.exe.chkSrc 1 (.gen w) f.a) = true →
      CompletesI (.iaddImm f w) s q (lanesWritten f.g w f.dst (fun l => q.exe.src w f.a l + imm) q.exe) ∧
      CompletesI (.imulImm f w) s q (lanesWritten f.g w f.dst (fun l => q.exe.src w f.a l * imm) q.exe) ∧
      CompletesI (.andImm f w) s q (lanesWritten f.g w f.dst (fun l => q.exe.src w f.a l &&& imm) q.exe) ∧
      CompletesI (.orImm f w) s q (lanesWritten f.g w f.dst (fun l => q.exe.src w f.a l ||| imm) q.exe) ∧
      CompletesI (.xorImm f w) s q (lanesWritten f.g w f.dst (fun l => q.exe.src w f.a l ^^^ imm) q.exe)))) ∧
  (((∀ (f : FormR) (t : IntTy) (imm : Bool) (cnt : BitVec 6), t.is3264 = true →
    Writes (.shl f t imm cnt) f (useShift t imm) (fun a b _ =>
      let n := if imm then cnt.toNat else b % 256
      if n < tyW t then a * 2 ^ n % 2 ^ tyW t else 0) ∧
    Writes (.shr f t imm cnt) f (useShift t imm) (fun a b _ =>
      let n := if imm then cnt.toNat else b % 256
      if n < tyW t then a % 2 ^ tyW t / 2 ^ n else 0) ∧
    Writes (.sar f t imm cnt) f (useShift t imm) (fun a b _ =>
      let n := if imm then cnt.toNat else b % 256
      (((if n < tyW t then signed (tyW t) a / 2 ^ n else if signed (tyW t) a < 0 then -1 else 0) : Int) % 2 ^ tyW t).toNat) ∧
    Writes (.rot f t imm cnt) f (useShift t imm) (fun a b _ =>
      let n := (if imm then cnt.toNat else b % 256) % tyW t
      a * 2 ^ n % 2 ^ tyW t + a % 2 ^ tyW t / 2 ^ (tyW t - n))) ∧
  (∀ (f : FormR) (left : Bool), Writes (.shf f left) f useSingle3 (fun a b c =>
    let v := b * 2 ^ 32 + a
    let n := c % 64
    if left then v * 2 ^ n % 2 ^ 64 / 2 ^ 32 else v / 2 ^ n % 2 ^ 32))) ∧
  ((∀ f : FormR, Writes (.perm f) f useSingle3 (fun a b c =>
    ((List.range 4).map fun i =>
      let n := c / 16 ^ i % 16
      (if n < 4 then a / 256 ^ n % 256 else if n < 8 then b / 256 ^ (n - 4) % 256 else 0) * 256 ^ i).sum)) ∧
  (∀ (f : FormR) (t : IntTy) (sh : BitVec 3), t = .s32 ∨ t = .z32 → Writes (.lea f t sh) f useLea (fun a b _ =>
    (BitVec.ofNat 64 a + (if t = .s32 then (BitVec.ofNat 32 b).signExtend 64 else (BitVec.ofNat 32 b).zeroExtend 64) <<< sh.toNat).toNat))))

/-! ### Flags, selection and moves -/

/-- What an instruction that writes a flag leaves: flag k of each lane that takes part, and nothing else. f7 discards the write. -/
def flagEffect (g : Guard) (k : Nat) (v : Nat → Bool) (e d : Exe) : Prop :=
  (∀ j l, l < 32 → d.flag j l = if j = k ∧ k < 7 ∧ e.takesPart g l = true then v l else e.flag j l) ∧ d.regs = e.regs ∧ d.uni = e.uni ∧ e.keeps d

/-- What a write of v to a uniform destination leaves; code 0xF3 discards it (R87). -/
def uniWritten (w : Bool) (code : Code) (v : Nat) (e d : Exe) : Prop :=
  (∀ k, d.uniReg k =
      if code ≠ 0xF3 ∧ k = code.toNat then BitVec.ofNat 32 v
      else if code ≠ 0xF3 ∧ w = true ∧ k = code.toNat + 1 then BitVec.ofNat 32 (v / 2 ^ 32) else e.uniReg k) ∧
    d.regs = e.regs ∧ d.flags = e.flags ∧ e.keeps d

/-- `icmp`, `fcmp` and `fcls` complete wherever their operands pass and Dst names a flag, f7 included, and set or combine that flag in the lanes
that take part (R111, R122, R126).
`sel` chooses lane by lane by flag k and the invert bit (R112).
`mov` copies A to D; either side may be uniform, and a uniform destination takes the value of the lowest lane that takes part (R113).
`movx` and `movxw` address register k + i, or the pair k + 2i, through a uniform index i (R114). -/
def Obligations.FlagsAndMoves : Prop :=
  (∀ (s : State) (q : Squad) (f : FormR), q.exe.flags.length = 7 → f.dst.toNat ≤ 7 →
    (∀ (t : IntTy) (m : Comb) (cond : Cond), s.ready q [0] (regsR f (useCmp t)) = true → passes (q.exe.chkR f (useCmp t)) = true →
      CompletesR (.icmp f t m cond) s q f (useCmp t) (flagEffect f.g f.dst.toNat (fun l =>
        let x := intCond cond (VAL t (q.exe.src (tyWide t) f.a l)) (VAL t (q.exe.src (tyWide t) f.b l))
        match m with
        | .set => x
        | .and => q.exe.flag f.dst.toNat l && x
        | .or => q.exe.flag f.dst.toNat l || x) q.exe)) ∧
    (∀ (m : Comb) (cond : FCond), s.ready q [0] (regsR f useFcmp) = true → passes (q.exe.chkR f useFcmp) = true →
      CompletesR (.fcmp f m cond) s q f useFcmp (flagEffect f.g f.dst.toNat (fun l =>
        let x := floatCond cond (q.exe.src false f.a l) (q.exe.src false f.b l)
        match m with
        | .set => x
        | .and => q.exe.flag f.dst.toNat l && x
        | .or => q.exe.flag f.dst.toNat l || x) q.exe)) ∧
    ∀ (sf : Fmt) (mask : BitVec 9), s.ready q [0] (regsR f useFcls) = true → passes (q.exe.chkR f useFcls) = true →
      CompletesR (.fcls f sf mask) s q f useFcls (flagEffect f.g f.dst.toNat (fun l => mask.getLsbD (fClass sf (q.exe.src false f.a l % 2 ^ sf.width))) q.exe)) ∧
  ((∀ (s : State) (q : Squad) (f : FormR) (t : IntTy) (inv : Bool) (k : BitVec 3), s.ready q [0] (regsR f (use2 t)) = true →
    passes (q.exe.chkR f (use2 t)) = true →
    CompletesR (.sel f t inv k) s q f (use2 t) (lanesWritten f.g (tyWide t) f.dst
      (fun l => if (q.exe.flag k.toNat l ^^ inv) = true then q.exe.src (tyWide t) f.a l else q.exe.src (tyWide t) f.b l) q.exe)) ∧
  ((∀ (s : State) (q : Squad) (f : FormR) (t : IntTy) (au : Bool),
    passes (if au then q.exe.chkUni 1 (tyWide t) f.a else q.exe.chkSrc 1 (.gen (tyWide t)) f.a) = true →
    (s.ready q [0] (regsR f (useMov t false au) ++ [] ++ if au then uniRegs (tyWide t) f.a else []) = true →
      passes (q.exe.chkDst (.gen (tyWide t)) f.dst) = true → passes (q.exe.chkHold f (useMov t false au)) = true →
      CompletesR (.mov f t false au) s q f (useMov t false au) (lanesWritten f.g (tyWide t) f.dst
        (fun l => if au then q.exe.uniVal (tyWide t) f.a else q.exe.src (tyWide t) f.a l) q.exe)) ∧
    (s.ready q [0] (regsR f (useMov t true au) ++ uniRegs (tyWide t) f.dst ++ if au then uniRegs (tyWide t) f.a else []) = true →
      passes (q.exe.chkUniDst 0 (tyWide t) f.dst) = true → passes (q.exe.chkHold f (useMov t true au)) = true →
      (∀ l, q.exe.takesPart f.g l = true → (∀ m, m < l → q.exe.takesPart f.g m = false) →
        CompletesR (.mov f t true au) s q f (useMov t true au) (uniWritten (tyWide t) f.dst
          (if au then q.exe.uniVal (tyWide t) f.a else q.exe.src (tyWide t) f.a l) q.exe)) ∧
      ((∀ l, q.exe.takesPart f.g l = false) →
        CompletesR (.mov f t true au) s q f (useMov t true au) (fun d => d.uni = q.exe.uni ∧ d.regs = q.exe.regs ∧ d.flags = q.exe.flags ∧ q.exe.keeps d)))) ∧
  (∀ (s : State) (q : Squad) (f : FormR) (t : IntTy), q.exe.declared ≤ 240 → passes (q.exe.chkUni 2 false f.b) = true →
    (let n := f.a.toNat + (if tyWide t then 2 else 1) * q.exe.uniVal false f.b;
      s.ready q [0] (codeRegs (tyWide t) f.dst ++ uniRegs false f.b ++ if tyWide t then [n, n + 1] else [n]) = true → baseOk (tyWide t) f.a = true →
      passes (q.exe.chkDst (.gen (tyWide t)) f.dst) = true → passes (q.exe.chkHold f (useMovx t)) = true → q.exe.regOk (tyWide t) n = true →
      CompletesR (.movx f t) s q f (useMovx t) (lanesWritten f.g (tyWide t) f.dst (fun l => if tyWide t then q.exe.regPair n l else (q.exe.reg n l).toNat) q.exe)) ∧
    let n := f.dst.toNat + (if tyWide t then 2 else 1) * q.exe.uniVal false f.b;
    s.ready q [0] (codeRegs (tyWide t) f.a ++ uniRegs false f.b ++ if tyWide t then [n, n + 1] else [n]) = true → baseOk (tyWide t) f.dst = true →
      passes (q.exe.chkSrc 1 (.gen (tyWide t)) f.a) = true → passes (q.exe.chkHold f (useMovxw t)) = true → q.exe.regOk (tyWide t) n = true →
      CompletesR (.movxw f t) s q f (useMovxw t) (lanesWritten f.g (tyWide t) (BitVec.ofNat 8 n) (fun l => q.exe.src (tyWide t) f.a l) q.exe))))

/-! ### Lanes together -/

/-- `shfl` reads lane j of A, zero where lane j has exited, or C of its own lane where j is out of range (R131, R132).
`vote`, `lred`, `match` and `flg` (R133 to R136): the lanes that take part vote, contribute and receive. -/
def Obligations.CrossLanes : Prop :=
  (∀ (s : State) (q : Squad) (f : FormR) (w : Bool) (mode : ShMode),
    s.ready q [0] (regsR f (useShfl w mode) ++ if mode = .bcast then uniRegs false f.b else []) = true →
    passes (q.exe.chkDst (.gen w) f.dst) = true → passes (q.exe.chkSrc 1 (.gen w) f.a) = true →
    passes (if mode = .bcast then q.exe.chkUni 2 false f.b else q.exe.chkSrc 2 (.gen false) f.b) = true →
    passes (q.exe.chkSrc 3 (.gen w) f.c) = true → passes (q.exe.chkHold f (useShfl w mode)) = true →
    CompletesR (.shfl f w mode) s q f (useShfl w mode) (lanesWritten f.g w f.dst (fun l =>
      let b := if mode = .bcast then q.exe.uniVal false f.b else q.exe.src false f.b l
      let j := match mode with
        | .idx => b
        | .up => if l < b then 32 else l - b
        | .down => l + b
        | .xor => l ^^^ b
        | .bcast => b
      if j < 32 then (if q.live j then q.exe.src w f.a j else 0) else q.exe.src w f.c l) q.exe)) ∧
  (∀ (s : State) (q : Squad) (f : FormR), q.exe.flags.length = 7 →
    (let parts := (List.range 32).filter (fun m => q.exe.takesPart f.g m);
      (∀ (inv : Bool) (k : BitVec 3), passes (q.exe.chkHold f {}) = true →
        (s.ready q [0] [] = true → f.dst.toNat ≤ 7 →
          CompletesR (.vote f .any inv k) s q f {} (flagEffect f.g f.dst.toNat (fun _ => parts.any fun m => q.exe.flag k.toNat m ^^ inv) q.exe) ∧
          CompletesR (.vote f .all inv k) s q f {} (flagEffect f.g f.dst.toNat (fun _ => parts.all fun m => q.exe.flag k.toNat m ^^ inv) q.exe)) ∧
        (s.ready q [0] (codeRegs false f.dst) = true → passes (q.exe.chkDst (.gen false) f.dst) = true →
          CompletesR (.vote f .bal inv k) s q f {}
            (lanesWritten f.g false f.dst (fun _ => ((parts.filter fun m => q.exe.flag k.toNat m ^^ inv).map fun m => 2 ^ m).sum) q.exe))) ∧
      (∀ (t : IntTy) (op : LredOp), s.ready q [0] (regsR f (use1 t)) = true → passes (q.exe.chkR f (use1 t)) = true →
        CompletesR (.lred f t op) s q f (use1 t)
          (lanesWritten f.g (tyWide t) f.dst (fun _ => lredVal t op (parts.map fun m => q.exe.src (tyWide t) f.a m)) q.exe)) ∧
      ∀ (w : Bool), s.ready q [0] (regsR f (useMatch w)) = true → passes (q.exe.chkR f (useMatch w)) = true →
        CompletesR (.matchLanes f w) s q f (useMatch w)
          (lanesWritten f.g false f.dst
            (fun l => ((parts.filter fun m => q.exe.src w f.a m == q.exe.src w f.a l).map fun m => 2 ^ m).sum) q.exe)) ∧
    (s.ready q [0] (regsR f (useFlg true)) = true → passes (q.exe.chkR f (useFlg true)) = true →
      CompletesR (.flg f true) s q f (useFlg true) (fun d =>
        (∀ j l, l < 32 → d.flag j l = if j < 7 ∧ q.exe.takesPart f.g l = true then (q.exe.src false f.a l).testBit j else q.exe.flag j l) ∧
          d.regs = q.exe.regs ∧ d.uni = q.exe.uni ∧ q.exe.keeps d)) ∧
    (s.ready q [0] (regsR f (useFlg false)) = true → passes (q.exe.chkR f (useFlg false)) = true →
      CompletesR (.flg f false) s q f (useFlg false)
        (lanesWritten f.g false f.dst (fun l => ((List.range 8).map fun k => if q.exe.flag k l then 2 ^ k else 0).sum) q.exe)))

/-! ### Control flow -/

/-- `bra`, `brx`, `ret` and `call` (R139, R140): each lane that takes part leaves the active set for its target; `call` reads its target before it
writes NEXT to its link pair. `bra` runs in every clause class, and in access clauses for a quarry thread. -/
def Obligations.Transfers : Prop :=
  (∀ (s : State) (q : Squad) (f : FormB), passes (q.exe.chkBurg f false) = true →
    (s.ready q allClasses [] = true →
      exec (.bra f) s = .next (s.after q.uid (s.chip.setSquad (q.transfer (q.exe.acting f.g) fun _ => target q.exe.hdrAt f.off)))) ∧
    (s.ready q [0] (codeRegs true f.reg) = true → passes (q.exe.chkSrc 0 (.gen true) f.reg) = true →
      exec (.brx f) s = .next (s.after q.uid (s.chip.setSquad (q.transfer (q.exe.acting f.g) fun l => target (q.exe.src true f.reg l) f.off))) ∧
      exec (.ret f) s = .next (s.after q.uid (s.chip.setSquad (q.transfer (q.exe.acting f.g) fun l => target (q.exe.src true f.reg l) f.off)))) ∧
    ∀ ind : Bool, s.ready q [0] (codeRegs true f.reg) = true → (ind = true → passes (q.exe.chkSrc 0 (.gen true) f.reg) = true) →
      passes (q.exe.chkDst (.gen true) f.reg) = true →
      let p := q.transfer (q.exe.acting f.g) (fun l => target (if ind then q.exe.src true f.reg l else q.exe.hdrAt) f.off);
      ∃ d, exec (.call f ind) s = .next (s.after q.uid (s.chip.setSquad { p with exe := d })) ∧
        lanesWritten f.g true f.reg (fun _ => q.exe.nextHdr) q.exe { d with active := q.exe.active } ∧
        samePlace p.exe d ∧ d.latch = q.exe.latch ∧ d.latchAt = q.exe.latchAt) ∧
  ∀ (s : State) (n t : Nat) (th : QThread) (f : FormB), s.readyThread n t th = true → passes (th.exe.chkBurg f false) = true →
    exec (.bra f) s = .next (s.afterThread n t
      (if th.exe.guard f.g 0 then s.chip.modThread n t fun th => th.transfer (target th.exe.hdrAt f.off) else s.chip))

/-- What a control transfer does to the lanes of a squad: those that take it are out of the active set with their target as `lpc`, no resume
position, and the mark that they came by a transfer (R80, R139); every other lane, and everything else of the squad, is as before.
Removing lanes (R23): they are Exited and out of the active set, and gone from every burgee and from every ensign's Set and Signed masks; no
other lane becomes Exited, and registers, flags and pennants are as before.
`exit`, `yield` and `nop` (R141, R142) complete: `exit` commits the open region's stores, drains the squad's write-combining entries and removes
its lanes, or ends a quarry thread; `yield` sets its lanes Yielded with NEXT as `lpc`; `nop` changes nothing. -/
def Obligations.LaneChanges : Prop :=
  ((∀ (q : Squad) (m : LaneMask) (tgt : Nat → Nat), q.lpc.length = 32 → q.resume.length = 32 →
    (∀ l, l < 32 → (q.transfer m tgt).lpc.getD l 0 = (if m.getLsbD l then tgt l else q.lpc.getD l 0) ∧
      (q.transfer m tgt).resume.getD l 0 = (if m.getLsbD l then 0 else q.resume.getD l 0) ∧
      (q.transfer m tgt).byTransfer.getLsbD l = (m.getLsbD l || q.byTransfer.getLsbD l) ∧
      (q.transfer m tgt).byResume.getLsbD l = (!m.getLsbD l && q.byResume.getLsbD l) ∧
      (q.transfer m tgt).exe.active.getLsbD l = (!m.getLsbD l && q.exe.active.getLsbD l)) ∧
    q.transfer m tgt = { q with
      lpc := (q.transfer m tgt).lpc, resume := (q.transfer m tgt).resume, byTransfer := (q.transfer m tgt).byTransfer
      byResume := (q.transfer m tgt).byResume, exe := { q.exe with active := (q.transfer m tgt).exe.active } }) ∧
  (∀ (q : Squad) (m : LaneMask), q.st.length = 32 →
    (∀ l, l < 32 → (((q.remove m).state l = .exited) ↔ (m.getLsbD l = true ∨ q.state l = .exited)) ∧
      ((q.remove m).exe.active.getLsbD l = (!m.getLsbD l && q.exe.active.getLsbD l))) ∧
    (∀ b, b < q.burgees.length → ((q.remove m).burgees.getD b 0) &&& m = 0) ∧
    (∀ k, k < q.ensigns.length → ((q.remove m).ensigns.getD k {}).set &&& m = 0 ∧ ((q.remove m).ensigns.getD k {}).signed &&& m = 0) ∧
    (q.remove m).exe = { q.exe with active := (q.remove m).exe.active } ∧ (q.remove m).pennants = q.pennants ∧ (q.remove m).lpc = q.lpc ∧
    (q.remove m).handles = q.handles)) ∧
  ((∀ (s : State) (q : Squad) (f : FormB), passes (q.exe.chkBurg f false) = true →
    (s.ready q allClasses [] = true → q.exe.acting f.g ≠ 0 → s.chip.regionHeld q = false →
      exec (.exit f) s = .next (s.after q.uid
        (((s.chip.commitRegion q.uid).drainWc q.uid).modSquad q.uid fun q => q.remove (q.exe.acting f.g)))) ∧
    (s.ready q allClasses [] = true → q.exe.acting f.g = 0 → exec (.exit f) s = .next (s.after q.uid s.chip)) ∧
    (s.ready q [0] [] = true → exec (.yield f) s = .next (s.after q.uid (s.chip.setSquad
      (((q.setPc (q.exe.acting f.g) q.exe.nextHdr 0 false false).setStates (q.exe.acting f.g) .yielded).leave (q.exe.acting f.g))))) ∧
    (s.ready q allClasses [] = true → Completes (.nop f) s q (fun d => d = q.exe))) ∧
  ∀ (s : State) (n t : Nat) (th : QThread) (f : FormB), s.readyThread n t th = true → passes (th.exe.chkBurg f false) = true →
    exec (.exit f) s = .next (s.afterThread n t (if th.exe.guard f.g 0 then s.chip.endThread n t false else s.chip)) ∧
    exec (.nop f) s = .next (s.afterThread n t (s.chip.modThread n t fun x => { x with exe := th.exe })))

/-- `region` (R143): it ends the open region, committing its stores, and without the end-only bit opens a new one that restarts at the next word, or
at the next header after the last word, with the active lanes as its mask and the latch empty; with no lane taking part it does nothing. -/
def Obligations.Regions : Prop :=
  ∀ (s : State) (q : Squad) (f : FormB) (endOnly : Bool), s.ready q [0] [] = true → passes (q.exe.chkBurg f false) = true →
    (q.exe.acting f.g = 0 → exec (.region f endOnly) s = .next (s.after q.uid s.chip)) ∧
    (q.exe.acting f.g ≠ 0 → s.chip.regionHeld q = false →
      exec (.region f endOnly) s = .next (s.after q.uid
        (if endOnly then s.chip.commitRegion q.uid else (s.chip.commitRegion q.uid).modSquad q.uid Squad.openRegion))) ∧
    q.openRegion.region = some
      { hdrAt := if q.exe.pos < q.exe.count then q.exe.hdrAt else q.exe.hdrAt + 8 * (q.exe.count + 2)
        pos := if q.exe.pos < q.exe.count then q.exe.pos + 1 else 0
        mask := q.exe.active, buf := [] }

/-- `spawn` completes (R144, R145) with no lane taking part, and wherever every earlier access of the lanes that take part is performed and the muster is
placed, its barrier object written: each lane that takes part, in ascending order, sends one thread with its argument words, and zero in the rest, to
the bin of its entry address and muster on the squad's core; with a `cw.binwait` of 0 no thread stays in a bin that it fed (R33).
A thread enters a bin (R33): that of its key, which forms a squad of its threads in order of entry with the 32nd; else a new one; where all 16 hold
threads of other keys, the one whose first thread entered earliest forms its squad first. That the key names the launch too is the model's choice (log
92). -/
def Obligations.Spawns : Prop :=
  (∀ (s : State) (q : Squad) (f : FormX) (argc ms : BitVec 3),
    s.ready q [0] (codeRegs true f.p ++ blockRegs f.q.toNat argc.toNat) = true → passes (q.chkSpawn f argc ms) = true →
    let m := if ms = 7 then none else q.exe.mslots.getD ms.toNat none;
    let n := q.place.core;
    let lanes := (List.range 32).filter fun l => q.exe.takesPart f.g l;
    let entry := fun (l : Nat) => q.exe.src true f.p l;
    let c := s.chip.commitRegion q.uid;
    (lanes = [] → exec (.spawn f argc ms) s = .next (s.after q.uid s.chip)) ∧
    ∀ d, lanes ≠ [] → n < d.cores.length → s.chip.regionHeld q = false → c.earlier (.squad q.uid) c.nextId (q.exe.acting f.g) = false → c.spawnPlace q m = some d →
      (∀ i k, m = some i → d.muster? q.launch i = some k → k.barInit = true → k.barDone = true) →
      let sent := lanes.foldl (fun c l => c.binAdd n q.exe.ctx q.launch (entry l) m
        { args := (List.range 4).map fun k => if k < argc.toNat then q.exe.reg (f.q.toNat + k) l else 0, declared := 8 * f.s.toNat }) d;
      let fed := fun (b : Bin) => lanes.any fun l => b.launch == q.launch && b.entry == entry l && b.muster == m;
      ∃ e, exec (.spawn f argc ms) s = .next (s.after q.uid e) ∧ e.squads = sent.squads ∧ (∀ a, e.byteAt a = sent.byteAt a) ∧
        (∀ i k, m = some i → sent.muster? q.launch i = some k → e.muster? q.launch i = some { k with spawnedInto := true }) ∧
        ∀ x, sent.ctx? q.exe.ctx = some x →
          (x.binwait ≠ 0 → e.cores = sent.cores ∧ e.formed = sent.formed) ∧
          (x.binwait = 0 → (e.core n).bins = (sent.core n).bins.filter (fun b => !fed b) ∧ ∃ fs, e.formed = sent.formed ++ fs ∧
            ∀ g ∈ fs, ∃ b ∈ (sent.core n).bins, fed b = true ∧ g.core = n ∧ g.launch = b.launch ∧ g.entry = b.entry ∧ g.muster = b.muster ∧ g.threads = b.threads)) ∧
  ∀ (c : Chip) (n ctx launch entry : Nat) (m : Option Nat) (t : Spawned), n < c.cores.length →
    let bins := (c.core n).bins;
    let d := c.binAdd n ctx launch entry m t;
    let keyed := fun (b : Bin) => b.launch == launch && b.entry == entry && b.muster == m;
    let forms := fun (b : Bin) (ts : List Spawned) => ∃ f : Formed, d.formed = c.formed ++ [f] ∧ f.core = n ∧ f.launch = b.launch ∧ f.ctx = b.ctx ∧ f.entry = b.entry ∧
      f.muster = b.muster ∧ f.threads = ts ∧ f.place = none;
    let opened := fun (b : Bin) => b.launch = launch ∧ b.ctx = ctx ∧ b.entry = entry ∧ b.muster = m ∧ b.threads = [t] ∧ b.since = c.order;
    (∀ pre b post, bins = pre ++ b :: post → keyed b = true → (∀ x ∈ pre ++ post, keyed x = false) →
      (b.threads.length ≠ 31 → (d.core n).bins = pre ++ { b with threads := b.threads ++ [t] } :: post ∧ d.formed = c.formed) ∧
      (b.threads.length = 31 → (d.core n).bins = pre ++ post ∧ forms b (b.threads ++ [t]))) ∧
    ((∀ x ∈ bins, keyed x = false) → bins.length < 16 → ∃ b, opened b ∧ (d.core n).bins = bins ++ [b] ∧ d.formed = c.formed) ∧
    ((∀ x ∈ bins, keyed x = false) → 16 ≤ bins.length → ∃ o ∈ bins, ∃ b, (∀ x ∈ bins, o.since ≤ x.since) ∧ opened b ∧
      (d.core n).bins = bins.filter (fun x => x != o) ++ [b] ∧ forms o o.threads) ∧
    (∀ k, k ≠ n → d.core k = c.core k) ∧ d.squads = c.squads ∧ d.launches = c.launches ∧ ∀ a, d.byteAt a = c.byteAt a

/-- Burgee b is complete when its mask is nonzero and every lane whose bit is set waits on b: every lane waiting on b then becomes Eligible and the
mask clears; otherwise nothing changes (R147). -/
def Obligations.BurgeeComplete : Prop :=
  ∀ (q : Squad) (b : Nat), q.st.length = 32 →
    ((q.burgees.getD b 0 ≠ 0 ∧ ∀ l, l < 32 → (q.burgees.getD b 0).getLsbD l = true → q.state l = .burgeeWait b) →
      (∀ l, l < 32 → (q.testBurgee b).state l = (if q.state l = .burgeeWait b then .eligible else q.state l)) ∧
      (q.testBurgee b).burgees = q.burgees.set b 0 ∧ (q.testBurgee b).lpc = q.lpc ∧ (q.testBurgee b).exe = q.exe) ∧
    (¬(q.burgees.getD b 0 ≠ 0 ∧ ∀ l, l < 32 → (q.burgees.getD b 0).getLsbD l = true → q.state l = .burgeeWait b) → q.testBurgee b = q)

/-- Burgees (R146, R147): `bjoin`, `bleave`, `bwait`, `bset` and `bget` complete: `bjoin` and `bleave` set and clear the bits of the lanes that take part,
`bwait` parks the enrolled ones, `bset` and `bget` act once where a lane takes part; and a burgee that is complete after `bleave`, `bwait` or `bset`
releases its lanes and clears.
`esign` and `eclr` (R148, R150) complete where no lane takes part, and `eclr` always: where the declared live set is not empty, agrees with an open
round, and holds every signing lane, those lanes sign; otherwise `esign` is the precise illegal-operand trap.
Signing: the lanes are in Ensign-wait, out of the active set, with NEXT as `lpc`; the first to sign open the round, with the declared set as Set and
NEXT as continuation; Signed takes them in, and the ensign is armed once Signed covers Set. Clearing: every field of the ensign clears, and the lanes
that signed and wait on it are Eligible, with the `lpc` that they have had since they signed. -/
def Obligations.BurgeesAndEnsigns : Prop :=
  (∀ (s : State) (q : Squad) (f : FormB), passes (q.exe.chkBurg f true) = true →
    let b := f.burg.toNat;
    let m := q.exe.acting f.g;
    (s.ready q [0] [] = true →
      exec (.bjoin f) s = .next (s.after q.uid (s.chip.setSquad { q with burgees := modAt q.burgees b fun x => x ||| m })) ∧
      exec (.bleave f) s = .next (s.after q.uid (s.chip.setSquad (Squad.testBurgee { q with burgees := modAt q.burgees b fun x => x &&& ~~~m } b))) ∧
      (m = 0 → exec (.bwait f) s = .next (s.after q.uid s.chip)) ∧
      (m ≠ 0 → s.chip.regionHeld q = false → exec (.bwait f) s = .next (s.after q.uid ((s.chip.commitRegion q.uid).modSquad q.uid fun p =>
        Squad.testBurgee (((p.setPc m p.exe.nextHdr 0 false false).setStates (m &&& p.burgees.getD b 0) (.burgeeWait b)).leave m) b)))) ∧
    (s.ready q [0] (uniRegs false f.reg) = true →
      (passes (q.exe.chkUni 0 false f.reg) = true →
        let v := BitVec.ofNat 32 (q.exe.uniVal false f.reg) &&& q.liveMask;
        exec (.bset f) s = .next (s.after q.uid (s.chip.setSquad (if m = 0 then q else
          Squad.testBurgee { (q.setStates (q.waiting b &&& ~~~v) .eligible) with burgees := q.burgees.set b v } b)))) ∧
      (passes (q.exe.chkUniDst 0 false f.reg) = true →
        CompletesI (.bget f) s q (fun d =>
          if m = 0 then d.uni = q.exe.uni ∧ d.regs = q.exe.regs ∧ d.flags = q.exe.flags ∧ q.exe.keeps d
          else uniWritten false f.reg (q.burgees.getD b 0).toNat q.exe d)))) ∧
  (∀ (s : State) (q : Squad) (f : FormB) (k : BitVec 2),
    let g := q.exe.acting f.g;
    let mlive := BitVec.ofNat 32 (q.exe.uniVal false f.reg) &&& q.liveMask;
    let e := q.ensigns.getD k.toNat {};
    let good := mlive ≠ 0 ∧ (e.isOpen = true → mlive = e.set ∧ q.exe.nextHdr = e.cont) ∧ g &&& ~~~mlive = 0;
    passes (q.exe.chkBurg f false) = true →
    (s.ready q [0] (uniRegs false f.reg) = true → passes (q.exe.chkUni 0 false f.reg) = true →
      (g = 0 → exec (.esign f k) s = .next (s.after q.uid s.chip)) ∧
      (g ≠ 0 → good → s.chip.regionHeld q = false →
        exec (.esign f k) s = .next (s.after q.uid ((s.chip.commitRegion q.uid).modSquad q.uid fun p => p.sign k.toNat g mlive))) ∧
      (g ≠ 0 → ¬good → exec (.esign f k) s = .next (s.trapped q.uid (q.exe.operand 0)))) ∧
    (s.ready q [0] [] = true →
      (g = 0 → exec (.eclr f k) s = .next (s.after q.uid s.chip)) ∧
      (g ≠ 0 → s.chip.regionHeld q = false →
        exec (.eclr f k) s = .next (s.after q.uid ((s.chip.commitRegion q.uid).modSquad q.uid fun p => p.clearEnsign k.toNat))))) ∧
  ∀ (p : Squad) (k : Nat), p.st.length = 32 → p.lpc.length = 32 → p.resume.length = 32 → k < p.ensigns.length →
    let e := p.ensigns.getD k {};
    let same := fun (r : Squad) => (∀ j, j ≠ k → r.ensigns.getD j {} = p.ensigns.getD j {}) ∧ r.exe = { p.exe with active := r.exe.active } ∧
      r.burgees = p.burgees ∧ r.pennants = p.pennants ∧ r.trap = p.trap ∧ r.region = p.region ∧ r.handles = p.handles;
    (∀ (g set : LaneMask),
      let r := p.sign k g set;
      let live := if e.isOpen then e.set else set;
      let signed := (if e.isOpen then e.signed else 0) ||| g;
      (∀ l, l < 32 → r.state l = (if g.getLsbD l then .ensignWait k else p.state l) ∧
        r.lpc.getD l 0 = (if g.getLsbD l then p.exe.nextHdr else p.lpc.getD l 0) ∧ r.exe.active.getLsbD l = (!g.getLsbD l && p.exe.active.getLsbD l)) ∧
      (r.ensigns.getD k {}).isOpen = true ∧ (r.ensigns.getD k {}).set = live ∧ (r.ensigns.getD k {}).signed = signed ∧
      (r.ensigns.getD k {}).cont = (if e.isOpen then e.cont else p.exe.nextHdr) ∧
      ((r.ensigns.getD k {}).armed = true ↔ (e.isOpen = true ∧ e.armed = true) ∨ ∀ l, l < 32 → live.getLsbD l = true → signed.getLsbD l = true) ∧ same r) ∧
    let r := p.clearEnsign k;
    (∀ l, l < 32 → r.state l = if p.state l = .ensignWait k ∧ e.signed.getLsbD l = true then .eligible else p.state l) ∧
    r.ensigns.getD k {} = { isOpen := false, armed := false, cont := 0, set := 0, signed := 0 } ∧ r.lpc = p.lpc ∧ r.exe = p.exe ∧ same r

/-! ### Exceptions and the system instructions -/

/-- Taking a precise trap outside handler mode (R153): the trap words hold cause, mask, detail and the address of the instruction word; the trapping
lanes go to the trap vector; the other active lanes resume at the following word; the clause ends; the latch of every active lane is saved;
the notes of a wait that had not issued are dropped (R196, R201); registers, flags and the rest of the machine are as before. That the latch is saved lane
by lane for every active lane, and not for the trapping lanes alone, is the model's reading (log 26). -/
def Obligations.TakesTrap : Prop :=
  ∀ (s : State) (q : Squad) (t : Trap) (x : Ctx), s.chip.squad? q.uid = some q → s.chip.ctx? q.exe.ctx = some x → q.trap.hmode = false →
    x.trapvec ≠ 0 → q.lpc.length = 32 → q.resume.length = 32 → q.contEns = none →
    let m := t.lanes.getD q.exe.active;
    let last := decide (q.exe.count ≤ q.exe.pos);
    ∃ p, (s.trapped q.uid t).chip.squad? q.uid = some p ∧ (s.trapped q.uid t).chip.turn = none ∧ s.onlySquad (s.trapped q.uid t) q.uid ∧
      p.trap = { hmode := true, cause := t.cause, addr := q.exe.wordAt, mask := m, det := t.det, left := m
                 hdr := q.exe.hdr, hdrAt := q.exe.hdrAt, pos := q.exe.pos, atStart := false } ∧
      (∀ l, l < 32 →
        p.lpc.getD l 0 = (if q.exe.active.getLsbD l && !m.getLsbD l then (if last then q.exe.nextHdr else q.exe.hdrAt)
          else if m.getLsbD l then x.trapvec else q.lpc.getD l 0) ∧
        p.resume.getD l 0 = (if q.exe.active.getLsbD l && !m.getLsbD l then (if last then 0 else q.exe.pos + 1)
          else if m.getLsbD l then 0 else q.resume.getD l 0) ∧
        ∀ k, k < 3 → q.exe.active.getLsbD l = true → Sparse.get 0 p.savedLatch (32 * k + l) = q.exe.latchVal k l) ∧
      p.exe = { q.exe with active := 0, inClause := false } ∧
      p = { q with
        exe := p.exe, trap := p.trap, lpc := p.lpc, resume := p.resume, byTransfer := p.byTransfer, byResume := p.byResume
        savedLatch := p.savedLatch, savedAt := p.savedAt, credit := 0, creditRegs := 0, stall := none
        waitTested := false, waitExpired := false, waitMet := none }

/-- A trap in handler mode or without a handler (R351): the squad stops, a record of kind 0x27 is appended, and the context is torn down, so that
no squad of it is left. -/
def Obligations.DoubleTrap : Prop :=
  ∀ (s : State) (q : Squad) (t : Trap) (x : Ctx), s.chip.squad? q.uid = some q → s.chip.ctx? q.exe.ctx = some x →
    q.trap.hmode = true ∨ x.trapvec = 0 → x.closing = none →
    let dead := s.chip.setSquad { q with dead := true, exe := { q.exe with active := 0, inClause := false } };
    let noted := dead.errAppend q.exe.ctx (record212 0x27 t.cause q.place.slot q.place.bench q.place.core 0 q.exe.hdrAt q.exe.wordAt);
    (s.trapped q.uid t).chip = { noted.teardown q.exe.ctx 0 with turn := none } ∧ (s.trapped q.uid t).plat = s.plat ∧
      ∀ p ∈ (s.trapped q.uid t).chip.squads, p.exe.ctx ≠ q.exe.ctx

/-- `trap` (R153): the software trap, with its code as the detail, for the lanes that take part; with none it does nothing. `rte` (R154): outside
handler mode an illegal instruction; in it the lanes that take part return to the place that the mode names and leave the clause, and handler mode
clears when no trapped lane is left. -/
def Obligations.TrapAndReturn : Prop :=
  ∀ (s : State) (q : Squad), s.ready q [5] [] = true →
    (∀ f : FormI,
      (q.exe.acting f.g = 0 → exec (.trap f) s = .next (s.after q.uid s.chip)) ∧
      (q.exe.acting f.g ≠ 0 → exec (.trap f) s = .next (s.trapped q.uid
        { cause := 0x0D, det := f.imm.toNat % 65536, lanes := some (q.exe.acting f.g) }))) ∧
    ∀ (f : FormR) (mode : RteMode),
      (passes (q.exe.chkHold f {}) = false → exec (.rte f mode) s = .next (s.trapped q.uid (q.exe.operand 4))) ∧
      (q.trap.hmode = false → passes (q.exe.chkHold f {}) = true → exec (.rte f mode) s = .next (s.trapped q.uid (q.exe.illegalInstr 0x3A1))) ∧
      (q.trap.hmode = true → passes (q.exe.chkHold f {}) = true → q.lpc.length = 32 → q.resume.length = 32 →
        let m := q.exe.acting f.g;
        let count := q.trap.hdr.toNat / 2 ^ 56 % 16;
        let next := q.trap.hdrAt + 8 * (count + 2);
        let place := match mode with
          | .skip => (next, 0)
          | .retry => (q.trap.hdrAt, if q.trap.atStart then 0 else q.trap.pos)
          | .next => if q.trap.atStart then (q.trap.hdrAt, 0) else if q.trap.pos < count then (q.trap.hdrAt, q.trap.pos + 1) else (next, 0);
        ∃ p, exec (.rte f mode) s = .next (s.after q.uid (s.chip.setSquad p)) ∧
          (∀ l, l < 32 → (p.lpc.getD l 0, p.resume.getD l 0) = if m.getLsbD l then place else (q.lpc.getD l 0, q.resume.getD l 0)) ∧
          p.trap = { q.trap with left := q.trap.left &&& ~~~m, hmode := q.trap.left &&& ~~~m != 0 } ∧
          p.exe = { q.exe with active := q.exe.active &&& ~~~m } ∧ (q.contLeft = none → p.st = q.st ∧ p.ensigns = q.ensigns) ∧
          p.burgees = q.burgees ∧ p.pennants = q.pennants ∧ p.savedLatch = q.savedLatch)

/-- The value that a control word reads as (R30, R155, R264). -/
def controlWord (x : Ctx) (b : Bench) (q : Squad) (n : Nat) : Nat :=
  if n = 0x000 then x.trapvec else if n = 0x001 then q.trap.cause else if n = 0x002 then q.trap.addr else if n = 0x003 then q.trap.mask.toNat
  else if n = 0x004 then q.trap.det else if n = 0x005 then (if q.trap.hmode then 1 else 0)
  else if 0x008 ≤ n ∧ n ≤ 0x00B then (match q.exe.mslots.getD (n - 8) none with
    | some i => 2 ^ 31 + i
    | none => 0)
  else if n = 0x00C then q.quota.getD 0 0 + 2 ^ 8 * q.quota.getD 1 0 + 2 ^ 16 * q.quota.getD 2 0 + 2 ^ 24 * q.quota.getD 3 0
  else if n = 0x00D then q.scfMask.toNat else if n = 0x010 then (if b.accValid then 2 ^ 31 else 0) + b.accCtx
  else if n = 0x011 then x.binwait else if n = 0x012 then x.probelimit else x.extwait

/-- `rdcw` and `wrcw` (R155): every listed word reads as it stands, 64 bits wide for 0x000, 0x002 and 0x004; a write of a word that the mode may
not write, or of a value outside its limits, is an illegal operand; a permitted write changes that word alone. -/
def Obligations.ControlWords : Prop :=
  ∀ (s : State) (q : Squad) (f : FormR) (n : BitVec 12) (x : Ctx), s.chip.ctx? q.exe.ctx = some x →
    n.toNat ∈ [0, 1, 2, 3, 4, 5, 8, 9, 10, 11, 12, 13, 16, 17, 18, 19] →
    let wide := decide (n.toNat = 0 ∨ n.toNat = 2 ∨ n.toNat = 4);
    (s.ready q [5] (regsR f { dst := .gen wide }) = true → passes (q.exe.chkR f { dst := .gen wide }) = true →
      CompletesR (.rdcw f n) s q f { dst := .gen wide }
        (lanesWritten f.g wide f.dst (fun _ => controlWord x (s.chip.bench q.place.core q.place.bench) q n.toNat) q.exe)) ∧
    (s.ready q [5] (regsR f { a := .gen wide }) = true → passes (q.exe.chkR f { a := .gen wide }) = true →
      let user := decide (n.toNat ∈ [17, 18, 19]);
      let handler := decide (n.toNat ∈ [0, 16]);
      let lane := lowestLane (q.exe.acting f.g);
      ((user || handler && q.trap.hmode) = false → exec (.wrcw f n) s = .next (s.trapped q.uid (q.exe.operand 6))) ∧
      ((user || handler && q.trap.hmode) = true →
        (lane = none → ∃ d, exec (.wrcw f n) s = .next (s.after q.uid (s.chip.setSquad { q with exe := d })) ∧
          d = { q.exe with latch := d.latch, latchAt := d.latchAt } ∧ latched f { a := .gen wide } q.exe d) ∧
        ∀ l, lane = some l →
          let v := q.exe.src wide f.a l;
          let legal := decide ((n.toNat = 0 → v % 8 = 0) ∧ (n.toNat = 18 → 1 ≤ v ∧ v ≤ 64));
          (legal = false → exec (.wrcw f n) s = .next (s.trapped q.uid (q.exe.operand 1))) ∧
          (legal = true → ∃ d c, d = { q.exe with latch := d.latch, latchAt := d.latchAt } ∧ latched f { a := .gen wide } q.exe d ∧
            exec (.wrcw f n) s = .next (s.after q.uid c) ∧
            (n.toNat ≠ 16 → c = (s.chip.setSquad { q with exe := d }).modCtx q.exe.ctx fun k =>
              { k with
                trapvec := if n.toNat = 0 then v else k.trapvec, binwait := if n.toNat = 17 then v % 2 ^ 16 else k.binwait
                probelimit := if n.toNat = 18 then v else k.probelimit, extwait := if n.toNat = 19 then v else k.extwait }) ∧
            (n.toNat = 16 → c = (s.chip.setSquad { q with exe := d }).modBench q.place.core q.place.bench fun b =>
              { b with accValid := v.testBit 31, accCtx := v % 64 }))))

/-- The clause classes in which an instruction of an opcode is legal: the table of R82. -/
def legalClasses (op : Nat) : List Nat :=
  if op = 0x1C0 ∨ op = 0x1C4 ∨ op = 0x1C6 then [0, 1, 2, 3, 4, 5]
  else if op < 0x100 then [0, 3] else if op < 0x280 then [0] else if op < 0x2C0 then [1] else if op < 0x300 then [2]
  else if op < 0x310 then [3] else if op < 0x340 then [0] else if op < 0x3A0 then [4] else [5]

/-- A word that is no instruction traps in every clause class (R92): a squad takes the illegal-instruction trap with its opcode and position, a
quarry thread ends with a quarry fault.
An instruction in a clause whose class does not allow it (R82, R93) has no effect: a squad takes the illegal-clause trap with the header as its
detail, a quarry thread ends with a quarry fault. -/
def Obligations.IllegalWords : Prop :=
  ∀ (s : State) (w : DWord),
    (∀ q : Squad, s.chip.turn = some (.squad q.uid) → s.chip.squad? q.uid = some q → q.exe.inClause = true →
      exec (.illegalInstruction w) s = .next (s.trapped q.uid { cause := 1, det := 1024 * q.exe.pos + w.toNat / 2 ^ 54 }) ∧
      ∀ i, encode i = some w → q.exe.cls ∉ legalClasses (w.toNat / 2 ^ 54) →
        exec i s = .next (s.trapped q.uid { cause := 2, det := q.exe.hdr.toNat })) ∧
    ∀ (n t : Nat) (th : QThread), s.readyThread n t th = true →
      (exec (.illegalInstruction w) s = .next { s with chip := s.chip.quarryFault n t { cause := 1, det := 1024 * th.exe.pos + w.toNat / 2 ^ 54 } } ∧
        (s.chip.quarryFault n t { cause := 1, det := 1024 * th.exe.pos + w.toNat / 2 ^ 54 }).thread? n t = none) ∧
      ∀ i, encode i = some w → 3 ∉ legalClasses (w.toNat / 2 ^ 54) →
        exec i s = .next { s with chip := s.chip.quarryFault n t { cause := 2, det := th.exe.hdr.toNat } }

/-! ### Clauses -/

/-- The next word, or the end of the clause (R25, R81): after the last word, or with no lane left, the remaining lanes go on to the header at
H + 8 × (Count + 2), and the clause is over; otherwise only the position moves. -/
def Obligations.ClauseEnds : Prop :=
  ∀ q : Squad, q.lpc.length = 32 → q.resume.length = 32 → q.contEns = none →
    let finish := decide (q.exe.active = 0) || decide (q.exe.count ≤ q.exe.pos);
    (finish = false → q.advance = { q with exe := { q.exe with pos := q.exe.pos + 1 }, stall := none }) ∧
    (finish = true → q.advance.exe = { q.exe with pos := q.exe.pos + 1, active := 0, inClause := false } ∧
      (∀ l, l < 32 → q.advance.lpc.getD l 0 = (if q.exe.active.getLsbD l then q.exe.hdrAt + 8 * (q.exe.count + 2) else q.lpc.getD l 0) ∧
        q.advance.resume.getD l 0 = (if q.exe.active.getLsbD l then 0 else q.resume.getD l 0) ∧
        q.advance.byTransfer.getLsbD l = (q.byTransfer.getLsbD l && !q.exe.active.getLsbD l)) ∧
      q.advance.st = q.st ∧ q.advance.burgees = q.burgees ∧ q.advance.ensigns = q.ensigns ∧ q.advance.pennants = q.pennants ∧ q.advance.credit = 0)

/-- The lanes that R24 considers: the Eligible ones, or the Yielded ones where none is Eligible; in handler mode only trapped lanes that have not
returned (R153). -/
def selectable (q : Squad) (l : Nat) : Prop :=
  l < 32 ∧ (q.trap.hmode = true → q.trap.left.getLsbD l = true) ∧
    (q.state l = .eligible ∨ (q.state l = .yielded ∧ ∀ m, m < 32 → (q.trap.hmode = true → q.trap.left.getLsbD m = true) → q.state m ≠ .eligible))

/-- Selection of lanes (R24, R154) where no ensign is armed: the issue address is the least `lpc`, the position the least resume position there, and
exactly the lanes at both become active; with no lane to select there is nothing to start. An armed ensign outside handler mode starts its
continuation with the lanes of its Set (R149). -/
def Obligations.LaneSelection : Prop :=
  ∀ q : Squad, (q.trap.hmode = false → q.contLeft = none) →
    ((∀ k, k < 4 → (q.ensigns.getD k {}).armed = false) ∨ q.trap.hmode = true →
      (q.pick = none ↔ ∀ l, ¬selectable q l) ∧
      ∀ p, q.pick = some p →
        (∃ l, selectable q l ∧ q.lpc.getD l 0 = p.addr ∧ q.resume.getD l 0 = p.pos) ∧ (∀ l, selectable q l → p.addr ≤ q.lpc.getD l 0) ∧
        (∀ l, selectable q l → q.lpc.getD l 0 = p.addr → p.pos ≤ q.resume.getD l 0) ∧
        ∀ l, p.active.getLsbD l = true ↔ selectable q l ∧ q.lpc.getD l 0 = p.addr ∧ q.resume.getD l 0 = p.pos) ∧
    ∀ k, k < 4 → q.trap.hmode = false → (q.ensigns.getD k {}).armed = true → (∀ j, j < k → (q.ensigns.getD j {}).armed = false) →
      q.pick = some { addr := (q.ensigns.getD k {}).cont, pos := 0, active := (q.ensigns.getD k {}).set, ens := some k }

/-- The header check of R80 for a squad that declares d registers: class 0, 1, 2, 4 or 5, raise codes 0 to 11 or 15, reserved bits zero, a Live
field that R79 allows. -/
def headerLegal (h d : Nat) : Prop :=
  h / 2 ^ 60 ∈ [0, 1, 2, 4, 5] ∧ h / 2 ^ 40 % 16 ∉ [12, 13, 14] ∧ h / 2 ^ 36 % 16 ∉ [12, 13, 14] ∧ h / 2 ^ 32 % 4 = 0 ∧ h % 2 ^ 24 = 0 ∧
    (if h.testBit 35 then h / 2 ^ 24 % 256 ≤ 30 ∧ 8 * (h / 2 ^ 24 % 256) ≤ d else h / 2 ^ 24 % 256 = 0)

/-- CLAUSE_START (R24, R80, R344) on a bench with one squad that nothing holds back: under a legal header without safe point and region start, with its
wait mask clear and no condition of its first word, the clause starts with the selected lanes and the squad gets the turn; a header that fails the
check traps, as an illegal target where a selected lane came by a control transfer, as an illegal clause otherwise. -/
def Obligations.ClauseStarts : Prop :=
  ∀ (s : State) (n b : Nat) (q : Squad) (p : Pick) (hdr : DWord) (w : DWord) (i : Instr) (x : Ctx), s.chip.squad? q.uid = some q →
    s.chip.onBench n b = [q] → (s.chip.bench n b).enabled = true → s.chip.held q = false → q.deferred = none → q.pick = some p → p.addr % 8 = 0 →
    p.addr < 2 ^ 57 → s.chip.fetchWord q.place.core q.exe.ctx p.addr = .ok hdr → s.chip.ctx? q.exe.ctx = some x →
    (headerLegal hdr.toNat q.exe.declared → hdr.getLsbD 35 = false → hdr.getLsbD 34 = false →
      (∀ k, k < 12 → hdr.getLsbD (44 + k) = true → q.pennants.getD k 0 = 0) → p.pos ≤ hdr.toNat / 2 ^ 56 % 16 →
      (s.chip.clauseWords q.place.core q.exe.ctx p.addr (hdr.toNat / 2 ^ 56 % 16) p.pos).head? = some w → decode w = .ok i →
      s.chip.codeHeld q.place.core q.exe.ctx p.addr (hdr.toNat / 2 ^ 56 % 16) = false →
      demand (s.chip.clauseWords q.place.core q.exe.ctx p.addr (hdr.toNat / 2 ^ 56 % 16) p.pos) = (0, 0) → s.chip.escortRoom q 0 0 = true →
      (∀ f o, i ≠ .barWait f o) → (∀ f e, i ≠ .twait f e) → (∀ f c k, i ≠ .wext f c k) → (∀ f, i ≠ .qpop f) → (∀ f, i ≠ .qpush f) →
      (∀ f k, i ≠ .acqb f k) →
      ∃ t r, exec (.clauseStart n b) s = .next t ∧ t.chip.squad? q.uid = some r ∧ t.chip.turn = some (.squad q.uid) ∧
        r.exe = { q.exe with hdr, hdrAt := p.addr, pos := p.pos, active := p.active, inClause := true, latch := r.exe.latch, latchAt := r.exe.latchAt } ∧
        (p.pos = 0 → r.exe.latchAt = [none, none, none]) ∧ r.st = q.st.map (fun v => if v = .yielded then .eligible else v) ∧ r.age = 0 ∧
        r.lpc = q.lpc ∧ r.pennants = q.pennants ∧ r.burgees = q.burgees ∧ r.region = q.region ∧ t.plat = s.plat ∧
        (∀ u, u ≠ q.uid → t.chip.squad? u = s.chip.squad? u) ∧ ∀ l, t.chip.byteAt l = s.chip.byteAt l) ∧
    (¬headerLegal hdr.toNat q.exe.declared → q.trap.hmode = false → x.trapvec ≠ 0 →
      ∃ t r, exec (.clauseStart n b) s = .next t ∧ t.chip.squad? q.uid = some r ∧ t.chip.turn = none ∧
        r.trap.cause = (if p.active &&& q.byTransfer ≠ 0 then 3 else 2) ∧ r.trap.det = (if p.active &&& q.byTransfer ≠ 0 then p.addr else hdr.toNat) ∧
        r.trap.hmode = true ∧ r.trap.addr = p.addr ∧ r.trap.mask = p.active ∧ r.trap.atStart = true ∧ r.pennants = q.pennants ∧
        r.exe.inClause = false ∧ r.exe.regs = q.exe.regs ∧ ∀ l, t.chip.byteAt l = s.chip.byteAt l)

/-! ### Memory -/

/-- The loads, stores and atomics of R182 and R184 with what each does (R187 to R192). -/
def memOpOf : Instr → Option MemOp
  | .ld f t => some (opM f .glob .load t)
  | .ldTry f t => some (opT f .glob .load t)
  | .st f t => some (opM f .glob .store t)
  | .stTry f t => some (opT f .glob .store t)
  | .lds f t => some (opM f .scr .load t)
  | .ldsTry f t => some (opT f .scr .load t)
  | .sts f t => some (opM f .scr .store t)
  | .stsTry f t => some (opT f .scr .store t)
  | .ldk f t => some (opM f .stack .load t)
  | .stk f t => some (opM f .stack .store t)
  | .cas f w => some (opM f .glob (.cas w) (if w then .z64 else .z32))
  | .casScr f w => some (opM f .scr (.cas w) (if w then .z64 else .z32))
  | .casTry f scr w => some (opT f (if scr then .scr else .glob) (.cas w) (if w then .z64 else .z32))
  | .atom f k => some (opM f .glob (.atom k true) (atomTy k))
  | .red f k => some (opM f .glob (.atom k false) (atomTy k))
  | .atomScr f k => some (opM f .scr (.atom k true) (atomTy k))
  | .redScr f k => some (opM f .scr (.atom k false) (atomTy k))
  | _ => none

/-- A memory instruction of squad q passes its own checks and meets no wait before it issues (R12, R47, R167, R185, R312), with a lane that takes
part. -/
def memReady (s : State) (q : Squad) (m : MemOp) : Prop :=
  s.ready q [0] m.uses = true ∧ passes (m.check q.exe) = true ∧ q.exe.acting m.g ≠ 0 ∧ s.chip.acquiring q (q.exe.acting m.g) = false ∧
    q.pennantFull (q.exe.pennant m.ps) = false ∧ (m.tryFlag.isSome = true → s.chip.escortRoom q 1 m.escortSet.length = true) ∧ s.chip.hasWc q = false

/-- Every lane that takes part reaches locations of this device, host memory or scratch that can perform the access, and no scratch line is raced
for (R59, R171, R178, R181). -/
def lanesReach (s : State) (q : Squad) (m : MemOp) : Prop :=
  ∀ l, q.exe.takesPart m.g l = true → ∃ ls, s.chip.lane q m l = .at ls ∧
    s.chip.unsupported q.exe.ctx m.kind m.size (s.chip.laneVa q m l) (.at ls) = false ∧ s.chip.raceAt q.place ls = none

/-- Loads, stores and atomics issue (R157, R159, R185 to R192): one request goes out with an access for each lane that takes part, to the locations
of its address and with its data; escort registers leave with it, the pennant rises, a try flag is set; no other register or squad changes. A load
changes no byte of memory at issue; an atomic or an escorted store first ends the squad's open region (R175), and changes nothing more. -/
def Obligations.MemoryIssues : Prop :=
  ∀ (i : Instr) (m : MemOp) (s : State) (q : Squad), memOpOf i = some m → memReady s q m → lanesReach s q m → q.exe.flags.length = 7 →
    s.chip.committing q.uid = false → (m.kind ≠ .load → s.chip.regionHeld q = false) → (m.kind = .store → m.escorted = false → q.region = none) →
    let base := if m.kind = .load then s.chip else s.chip.commitRegion q.uid;
    ∃ t r p x, exec i s = .next t ∧ t.chip.requests = s.chip.requests ++ [r] ∧ t.chip.squad? q.uid = some p ∧ base.squad? q.uid = some x ∧
      (r.id = s.chip.nextId ∧ r.agent = .squad q.uid ∧ r.core = q.place.core ∧ r.ctx = q.exe.ctx ∧ r.kind = m.kind ∧ r.size = m.size ∧
        r.order = m.order ∧ r.scope = (if m.space = .scr then min m.scope 1 else m.scope) ∧ r.ty = m.ty ∧
        r.dst = (if m.ret then some m.data else none) ∧ r.pennant = q.exe.pennant m.ps ∧ r.escorted = m.escorted ∧
        r.dstRegs = (if m.escorted then [] else m.dstRegs) ∧
        r.escort = m.escortSet.map fun n => (n, (List.range 32).map fun l => q.exe.reg n l)) ∧
      r.accs.map (·.lane) = (List.range 32).filter (fun l => q.exe.takesPart m.g l) ∧
      (∀ a ∈ r.accs, s.chip.lane q m a.lane = .at a.locs ∧ a.va = s.chip.laneVa q m a.lane ∧ a.data = m.dataOf q.exe a.lane ∧
        a.cmp = m.cmpOf q.exe a.lane ∧ a.fab = none ∧ a.unsup = false ∧ a.status = .waiting ∧ a.parts = [] ∧
        a.elem = (if m.atomic || m.space == .scr then 0 else s.chip.elemOf q.exe.ctx a.va m.size) ∧
        a.onTop = match m.kind, q.region with
          | .load, some y => y.read a.locs
          | _, _ => []) ∧
      (∀ n l, l < 32 → n ∉ m.escortSet → p.exe.reg n l = q.exe.reg n l) ∧ p.exe.uni = q.exe.uni ∧
      (∀ k l, l < 32 → p.exe.flag k l = if (m.tryFlag.map (·.toNat)) = some k ∧ k < 7 ∧ q.exe.takesPart m.g l = true then true else q.exe.flag k l) ∧
      p.pennants = (x.raise (q.exe.pennant m.ps)).pennants ∧ p.region = (if m.kind = .load then q.region else none) ∧ t.plat = s.plat ∧
      (∀ u, u ≠ q.uid → t.chip.squad? u = s.chip.squad? u) ∧ ∀ l, t.chip.byteAt l = base.byteAt l

/-- What R185 turns away: a lane whose address is no multiple of the access size raises the access fault of reason 1 with the address of the lowest
such lane; a lane that does not translate raises it with its own reason; and a `.try` form without room for its escort clears its flag in the lanes
that take part and does nothing else (R167). -/
def Obligations.MemoryTraps : Prop :=
  ∀ (i : Instr) (m : MemOp) (s : State) (q : Squad), memOpOf i = some m → s.ready q [0] m.uses = true →
    (∀ l, passes (m.chkData q.exe) = true → passes (q.exe.chkSrc 1 (.gen true) m.addr) = true → passes (m.chkEscort q.exe) = true → m.scope ≤ 4 →
      passes (m.chkLimits q.exe) = true →
      (∀ k, q.exe.takesPart m.g k = true → (m.space = .scr → (q.exe.mslots.getD (m.ea q.exe k / 2 ^ 30 % 4) none).isSome = true) ∧
        (m.space = .glob → m.ea q.exe k < 2 ^ 57)) →
      q.exe.takesPart m.g l = true → m.ea q.exe l % m.size ≠ 0 → (∀ k, k < l → q.exe.takesPart m.g k = true → m.ea q.exe k % m.size = 0) →
      exec i s = .next (s.trapped q.uid { cause := 5, det := 2 ^ 60 + m.ea q.exe l % 2 ^ 57 })) ∧
    (∀ l r, memReady s q m → m.space ≠ .stack → q.exe.takesPart m.g l = true → s.chip.lane q m l = .fault r →
      (∀ k, k < l → q.exe.takesPart m.g k = true → ∀ x, s.chip.lane q m k ≠ .fault x) →
      exec i s = .next (s.trapped q.uid { cause := 5, det := 2 ^ 60 * r + m.ea q.exe l % 2 ^ 57 })) ∧
    ∀ k, m.tryFlag = some k → q.exe.flags.length = 7 → passes (m.check q.exe) = true → q.exe.acting m.g ≠ 0 →
      s.chip.acquiring q (q.exe.acting m.g) = false → q.pennantFull (q.exe.pennant m.ps) = false → s.chip.escortRoom q 1 m.escortSet.length = false →
      CompletesI i s q (flagEffect m.g k.toNat (fun _ => false) q.exe)

/-- Whether a store reaches a location: the status block discards what programs write (R372), and scratch lies in a core of the device. -/
def takesStores (c : Chip) : Loc → Prop
  | .dev pa => c.inStatus pa = false
  | .host _ => True
  | .scr n _ => n < c.cores.length

/-- A store of an open idempotent region is held in the squad's buffer: no byte of memory changes and no request goes out (R173).
The end of the region (R56): its buffered stores go to their homes, oldest first, each with the bytes, the scope and order and the pennant that it
had, and the region is closed; a lane's later store is performed after its earlier ones. An instruction that ends the region, `region` for one, waits
until they are performed. That they are performed store by store and lane by lane, so that other agents can see part of a commit, is the model's
reading (log 10). -/
def Obligations.RegionStores : Prop :=
  (∀ (i : Instr) (m : MemOp) (s : State) (q : Squad) (r : Region), memOpOf i = some m → memReady s q m → lanesReach s q m → m.kind = .store →
    m.escorted = false → q.region = some r → r.buf.length < 32 → s.chip.committing q.uid = false →
    ∃ t p b, exec i s = .next t ∧ t.chip.squad? q.uid = some p ∧ p.region = some { r with buf := r.buf ++ [b] } ∧
      b.scope = m.scope ∧ b.order = m.order ∧ b.pennant = q.exe.pennant m.ps ∧
      b.lanes.map (·.1) = (List.range 32).filter (fun l => q.exe.takesPart m.g l) ∧
      (∀ x ∈ b.lanes, ∃ ls, s.chip.lane q m x.1 = .at ls ∧ x.2.1 = s.chip.laneVa q m x.1 ∧ x.2.2 = ls.zip (m.dataOf q.exe x.1)) ∧
      p.pennants = (q.raise (q.exe.pennant m.ps)).pennants ∧ p.exe.regs = q.exe.regs ∧ p.exe.flags = q.exe.flags ∧ p.exe.uni = q.exe.uni ∧
      t.chip.requests = s.chip.requests ∧ t.plat = s.plat ∧ ∀ l, t.chip.byteAt l = s.chip.byteAt l) ∧
  (∀ (c : Chip) (q : Squad) (r : Region), c.squad? q.uid = some q → q.region = some r →
    let d := c.commitRegion q.uid;
    d.squad? q.uid = some { q with region := none } ∧ (∀ l, d.byteAt l = c.byteAt l) ∧ (∀ u, u ≠ q.uid → d.squad? u = c.squad? u) ∧
      ∃ rs, d.requests = c.requests ++ rs ∧ rs.length = r.buf.length ∧ ∀ i b x, r.buf[i]? = some b → rs[i]? = some x →
        (x.id = c.nextId + i ∧ x.agent = .squad q.uid ∧ x.ctx = q.exe.ctx ∧ x.core = q.place.core ∧ x.kind = .store ∧ x.commit = true ∧ x.order = b.order ∧
          x.pennant = b.pennant ∧ (x.scratch = false → x.scope = b.scope) ∧ x.accs.length = b.lanes.length) ∧
        ∀ (j : Nat) (y : Nat × Nat × List (Loc × Byte)) (a : Access), b.lanes[j]? = some y → x.accs[j]? = some a →
          a.lane = y.1 ∧ a.va = y.2.1 ∧ a.locs = y.2.2.map (·.1) ∧ a.data = y.2.2.map (·.2) ∧ a.status = .waiting ∧ a.fab = none) ∧
  (∀ (c : Chip) (r x : Request) (a b : Access), r.commit = true → x ∈ c.requests → x.commit = true → x.agent = r.agent → x.id < r.id → b ∈ x.accs →
    b.open_ = true → b.lane = a.lane → (∃ uid, r.agent = .squad uid) → c.canPerform r a = false) ∧
  ∀ (s : State) (q : Squad) (f : FormB) (endOnly : Bool), s.ready q [0] [] = true → passes (q.exe.chkBurg f false) = true → q.exe.acting f.g ≠ 0 →
    s.chip.regionHeld q = true →
    ∃ t p, exec (.region f endOnly) s = .next t ∧ t.chip.squad? q.uid = some p ∧ p.exe = q.exe ∧ p.region = none ∧ p.pennants = q.pennants ∧
      t.chip.requests = (s.chip.commitRegion q.uid).requests ∧ t.plat = s.plat ∧ ∀ l, t.chip.byteAt l = s.chip.byteAt l

/-- REQUEST_PERFORM for one lane whose access may be performed and lies within one element of a view window (R47, R173, R191, R192): a load takes the
bytes at its locations, with the squad's own buffered bytes over them; a store writes its bytes; an atomic writes what its operation gives and returns
the old value; a compare-and-swap writes its new value exactly where the old one equals its compare value; uncorrectable bytes fail a load or an
atomic. Every other byte is as before. A store that a view window splits, or a row of `accst`, writes one of its elements that is not yet written, and
no other byte (R45, R263).
Integer atomics on n-bit words (R191): sum modulo 2^n, bitwise operations, exchange, and the smaller or larger operand as the operation's signedness
says. -/
def Obligations.Performs : Prop :=
  (∀ (s : State) (r : Request) (a : Access), s.chip.request? r.id = some r → a.lane < 32 → r.accs.find? (fun (x : Access) => x.lane == a.lane) = some a →
    s.chip.canPerform r a = true → r.refusedLanes = [] → a.locs.Nodup → a.elem = 0 →
    ∃ t, exec (.requestPerform r.id (2 ^ a.lane) false none) s = .next t ∧ t.plat = s.plat ∧
      let status := (t.chip.request? r.id).bind fun r => (r.accs.find? fun (x : Access) => x.lane == a.lane).map (·.status);
      let old := s.chip.readLocs a.locs;
      let wrote := fun (bs : List Byte) => ∀ l v, (l, v) ∈ a.locs.zip bs → takesStores s.chip l → t.chip.byteAt l = v;
      (∀ l, l ∉ a.locs → t.chip.byteAt l = s.chip.byteAt l) ∧
      (r.kind = .load → (∀ l, t.chip.byteAt l = s.chip.byteAt l) ∧
        (s.chip.anyBad a.locs = false → r.returns = true → status = some (.done (overlay a.onTop old)))) ∧
      (r.kind = .store → wrote a.data) ∧
      (∀ op ret, r.kind = .atom op ret → s.chip.anyBad a.locs = false →
        wrote (leBytes r.size (atomApply op (ofLe old) (ofLe a.data))) ∧ (r.returns = true → status = some (.done (leBytes r.size (ofLe old))))) ∧
      (∀ w, r.kind = .cas w → s.chip.anyBad a.locs = false →
        (ofLe old = ofLe a.cmp → wrote a.data) ∧ (ofLe old ≠ ofLe a.cmp → ∀ l, t.chip.byteAt l = s.chip.byteAt l) ∧
          (r.returns = true → status = some (.done (leBytes r.size (ofLe old))))) ∧
      (s.chip.anyBad a.locs = true → r.kind ≠ .store →
        (∀ l, t.chip.byteAt l = s.chip.byteAt l) ∧ (r.returns = true → status = some (.failed 4)))) ∧
  (∀ (s : State) (r : Request) (a : Access), s.chip.request? r.id = some r → a.lane < 32 → r.accs.find? (fun (x : Access) => x.lane == a.lane) = some a →
    s.chip.canPerform r a = true → r.refusedLanes = [] → a.locs.Nodup → 0 < a.elem → r.kind = .store →
    (∃ j, j < r.size / a.elem ∧ j ∉ a.parts.map (·.1)) →
    ∃ t j, exec (.requestPerform r.id (2 ^ a.lane) false none) s = .next t ∧ t.plat = s.plat ∧ j < r.size / a.elem ∧ j ∉ a.parts.map (·.1) ∧
      let part := fun {α : Type} (xs : List α) => (xs.drop (j * a.elem)).take a.elem;
      (∀ l, l ∉ part a.locs → t.chip.byteAt l = s.chip.byteAt l) ∧
      ∀ l v, (l, v) ∈ (part a.locs).zip (part a.data) → takesStores s.chip l → t.chip.byteAt l = v) ∧
  ((∀ a b : BitVec 32,
    atomApply .add32 a.toNat b.toNat = (a + b).toNat ∧ atomApply .and32 a.toNat b.toNat = (a &&& b).toNat ∧
    atomApply .or32 a.toNat b.toNat = (a ||| b).toNat ∧ atomApply .xor32 a.toNat b.toNat = (a ^^^ b).toNat ∧
    atomApply .swap32 a.toNat b.toNat = b.toNat ∧ atomApply .minZ32 a.toNat b.toNat = min a.toNat b.toNat ∧
    atomApply .maxZ32 a.toNat b.toNat = max a.toNat b.toNat ∧ atomApply .minS32 a.toNat b.toNat = (if a.toInt ≤ b.toInt then a else b).toNat ∧
    atomApply .maxS32 a.toNat b.toNat = (if a.toInt ≤ b.toInt then b else a).toNat) ∧
  ∀ a b : BitVec 64,
    atomApply .add64 a.toNat b.toNat = (a + b).toNat ∧ atomApply .and64 a.toNat b.toNat = (a &&& b).toNat ∧
    atomApply .or64 a.toNat b.toNat = (a ||| b).toNat ∧ atomApply .xor64 a.toNat b.toNat = (a ^^^ b).toNat ∧
    atomApply .swap64 a.toNat b.toNat = b.toNat ∧ atomApply .minZ64 a.toNat b.toNat = min a.toNat b.toNat ∧
    atomApply .maxZ64 a.toNat b.toNat = max a.toNat b.toNat ∧ atomApply .minS64 a.toNat b.toNat = (if a.toInt ≤ b.toInt then a else b).toNat ∧
    atomApply .maxS64 a.toNat b.toNat = (if a.toInt ≤ b.toInt then b else a).toNat)

/-- What a lane of a completed request brings to register n: bytes that the access returned, extended to 32 bits as the type says (R187). -/
def returnedWord (r : Request) (n l : Nat) : Option Word :=
  match r.dst, r.accs.find? fun (a : Access) => a.lane == l with
  | some code, some a => match a.status with
    | .done bs =>
      if 0xF0 ≤ code.toNat then none
      else if r.size = 8 then
        if n = code.toNat then some (BitVec.ofNat 32 (ofLe bs)) else if n = code.toNat + 1 then some (BitVec.ofNat 32 (ofLe bs / 2 ^ 32)) else none
      else if n = code.toNat then
        some (if r.ty = .s8 ∨ r.ty = .s16 then (BitVec.ofNat (8 * r.size) (ofLe bs)).signExtend 32 else BitVec.ofNat 32 (ofLe bs))
      else none
    | _ => none
  | _, _ => none

/-- ESCORT_LANDING of a completed request for a squad on its bench (R161, R162, R187): without an escort, the destination takes the returned value in the
lanes that have one; with an escort that blocks have room for, and nothing in the landing buffer that they could take first, every escort register
comes back as it left but for those results. The request is over, its pennant falls, and no byte of memory changes. What comes back for an exited lane
is discarded (R141). -/
def Obligations.Lands : Prop :=
  ∀ (s : State) (q : Squad) (r : Request), s.chip.squad? q.uid = some q → s.chip.request? r.id = some r → r.agent = .squad q.uid → r.isOver = true →
    r.returns = true → q.evicted = none → q.awaiting ≠ some r.id → r.size ∈ [1, 2, 4, 8] → r.size = tyBytes r.ty →
    (∀ a ∈ r.accs, a.lane < 32 ∧ ∀ bs, a.status = .done bs → bs.length = r.size) → (r.accs.map (·.lane)).Nodup →
    (r.escorted = true → s.chip.moveDue q.place.core q.place.bench = false ∧ r.escort.all (fun e => e.2.length == 32) = true ∧ (r.escort.map (·.1)).Nodup ∧
      ((blocksOf (r.escort.map (·.1))).filter fun k => !q.resident.contains k).length ≤ s.chip.pool q.place.core q.place.bench) →
    ∃ t p, exec (.escortLanding r.id) s = .next t ∧ t.chip.squad? q.uid = some p ∧ t.chip.request? r.id = none ∧
      (∀ n l, l < 32 → q.live l = false → p.exe.reg n l = q.exe.reg n l) ∧
      (r.escorted = false → ∀ n l, l < 32 → q.live l = true → p.exe.reg n l = (returnedWord r n l).getD (q.exe.reg n l)) ∧
      (r.escorted = true → ∀ n l, l < 32 → q.live l = true → p.exe.reg n l = match r.escort.find? fun e => e.1 == n with
        | some e => (returnedWord r n l).getD (e.2.getD l 0)
        | none => q.exe.reg n l) ∧
      p.pennants = (q.lower r.pennant).pennants ∧ p.exe.flags = q.exe.flags ∧ p.exe.uni = q.exe.uni ∧ p.lpc = q.lpc ∧ p.st = q.st ∧
      t.plat = s.plat ∧ (∀ u, u ≠ q.uid → t.chip.squad? u = s.chip.squad? u) ∧ ∀ l, t.chip.byteAt l = s.chip.byteAt l

/-- `pref` (R190) changes no register, no request and no byte of memory.
`fence` (R193) completes once the accesses it orders are performed, with the squad's region committed, and at die scope or wider an acquire
empties L1; `tget` (R199) reads the counters and the sticky bit of a timeline slot, and mode 3 clears the bit. -/
def Obligations.FencesAndTimelines : Prop :=
  (∀ (s : State) (q : Squad) (f : FormM), s.ready q [0] (codeRegs true f.addr) = true → passes (chkPref f q.exe) = true →
    ∃ t p, exec (.pref f) s = .next t ∧ t.chip.squad? q.uid = some p ∧
      p.exe = { q.exe with pos := p.exe.pos, active := p.exe.active, inClause := p.exe.inClause } ∧ q.keeps p ∧ t.chip.requests = s.chip.requests ∧
      t.plat = s.plat ∧ (∀ u, u ≠ q.uid → t.chip.squad? u = s.chip.squad? u) ∧ ∀ l, t.chip.byteAt l = s.chip.byteAt l) ∧
  (∀ (s : State) (q : Squad), s.chip.regionHeld q = false →
    (∀ f : FormM, s.ready q [0] [] = true → f.scope.toNat ≤ 4 → f.order ≠ 0 → q.exe.acting f.g ≠ 0 → s.chip.hasWc q = false →
      s.chip.acquiring q (q.exe.acting f.g) = false → s.chip.fenceWaits q (q.exe.acting f.g) f.order.toNat = false →
      exec (.fence f) s = .next (s.after q.uid
        (if f.order.toNat % 2 = 1 ∧ 2 ≤ f.scope.toNat then (s.chip.commitRegion q.uid).modCore q.place.core fun k => { k with l1 := [] }
          else s.chip.commitRegion q.uid))) ∧
    ∀ (f : FormX) (mode : BitVec 2), s.ready q [0] (uniRegs (decide (mode.toNat < 2)) f.p) = true →
      passes (if mode.toNat < 2 then q.exe.chkPair 0 f.p else q.exe.chkUniDst 0 false f.p) = true → s.chip.slotHeld q f.handle.toNat = true →
      q.exe.acting f.g ≠ 0 →
      let slot := (s.chip.core q.place.core).slots.getD f.handle.toNat {};
      ∃ t p, exec (.tget f mode) s = .next t ∧ t.chip.squad? q.uid = some p ∧
        uniWritten (decide (mode.toNat < 2)) f.p
          (if mode = 0 then slot.issue else if mode = 1 then slot.done else if slot.fault then 1 else 0) q.exe p.exe ∧
        (∀ n j, ((t.chip.core n).slots.getD j {}).fault =
          (if mode = 3 ∧ n = q.place.core ∧ j = f.handle.toNat then false else ((s.chip.core n).slots.getD j {}).fault)) ∧
        t.plat = s.plat ∧ ∀ l, t.chip.byteAt l = (s.chip.commitRegion q.uid).byteAt l)

/-- Registers n of an escort with all their lanes, as they come back to a squad; what comes back for an exited lane is discarded (R141). -/
def broughtBack (rf : RegFile) (q : Squad) (d : Exe) : Prop :=
  ∀ n l, l < 32 → d.reg n l = match rf.find? fun x => x.1 == n with
    | some x => if q.live l then x.2.getD l 0 else q.exe.reg n l
    | none => q.exe.reg n l

/-- Escorts on the move (R162 to R164): the oldest escort of a landing buffer moves to blocks that are free, then the next one in the same way; where
the oldest has no room nothing moves. A squad chosen for eviction leaves every
block and its place in the landing buffer, and its registers go to its block area; a squad that is rehoused has them back, with its latch. -/
def Obligations.EscortsMove : Prop :=
  ∀ (s : State) (n b : Nat) (q : Squad), s.chip.squad? q.uid = some q →
    (∀ (x : Landed), (s.chip.bench n b).landing = [x] → x.uid = q.uid → (x.regs.map (·.1)).Nodup → x.regs.all (fun e => e.2.length == 32) = true →
      ((blocksOf (x.regs.map (·.1))).filter fun j => !q.resident.contains j).length ≤ s.chip.pool n b →
      ∃ t p, exec (.landingBufferMove n b) s = .next t ∧ (t.chip.bench n b).landing = [] ∧ t.chip.squad? q.uid = some p ∧
        broughtBack x.regs q p.exe ∧ p.exe.flags = q.exe.flags ∧ p.exe.uni = q.exe.uni ∧
        (∀ j, j ∈ p.resident ↔ j ∈ q.resident ∨ j ∈ blocksOf (x.regs.map (·.1))) ∧ t.plat = s.plat ∧ ∀ l, t.chip.byteAt l = s.chip.byteAt l) ∧
    ((s.chip.bench n b).landing = [] → exec (.landingBufferMove n b) s = .next s) ∧
    (∀ (x : Landed) (rest : List Landed), (s.chip.bench n b).landing = x :: rest → x.uid = q.uid → (x.regs.map (·.1)).Nodup →
      x.regs.all (fun e => e.2.length == 32) = true →
      let need := ((blocksOf (x.regs.map (·.1))).filter fun j => !q.resident.contains j).length;
      (s.chip.pool n b < need → exec (.landingBufferMove n b) s = .next s) ∧
      (need ≤ s.chip.pool n b → ∃ d p, exec (.landingBufferMove n b) s = exec (.landingBufferMove n b) { s with chip := d } ∧
        (d.bench n b).landing = rest ∧ d.squad? q.uid = some p ∧ broughtBack x.regs q p.exe ∧ p.exe.flags = q.exe.flags ∧ p.exe.uni = q.exe.uni ∧
        (∀ j, j ∈ p.resident ↔ j ∈ q.resident ∨ j ∈ blocksOf (x.regs.map (·.1))) ∧ (∀ u, u ≠ q.uid → d.squad? u = s.chip.squad? u) ∧
        ∀ l, d.byteAt l = s.chip.byteAt l)) ∧
    (∀ (own : Nat) (d : Chip), s.chip.stuckReply n b = some own → s.chip.victim n b own = some q →
      s.chip.blockAreaWrite q (s.chip.evictBytes q) = some d →
      ∃ t p, exec (.eviction n b) s = .next t ∧ t.chip.squad? q.uid = some p ∧ p.evicted = some s.chip.order ∧ p.resident = [] ∧
        (∀ k l, p.exe.reg k l = 0) ∧ p.lpc = q.lpc ∧ p.pennants = q.pennants ∧ p.exe.pos = q.exe.pos ∧ p.exe.hdrAt = q.exe.hdrAt ∧
        (∀ x ∈ (t.chip.bench q.place.core q.place.bench).landing, x.uid ≠ q.uid) ∧ t.plat = s.plat ∧ ∀ l, t.chip.byteAt l = d.byteAt l) ∧
    ∀ (v : Nat → Nat → Word) (w : Nat → DWord), s.chip.firstEvicted n b = some q →
      (blocksOf ((List.range q.exe.declared).filter fun r => !(s.chip.abroad q.uid).contains r)).length ≤ s.chip.pool q.place.core q.place.bench →
      s.chip.moveDue q.place.core q.place.bench = false →
      (∀ r l, r < q.exe.declared → r ∉ s.chip.abroad q.uid → l < 32 → s.chip.blockAreaRead q (128 * r + 4 * l) 4 = some (v r l).toNat) →
      (∀ i, i < 96 → s.chip.blockAreaRead q (128 * q.exe.declared + 8 * i) 8 = some (w i).toNat) →
      ∃ t p, exec (.rehousing n b) s = .next t ∧ t.chip.squad? q.uid = some p ∧ p.evicted = none ∧
        (∀ r l, r < q.exe.declared → r ∉ s.chip.abroad q.uid → l < 32 → p.exe.reg r l = v r l) ∧
        (∀ k l, k < 3 → l < 32 → p.exe.latchVal k l = w (32 * k + l)) ∧ p.exe.pos = q.exe.pos ∧ p.exe.hdrAt = q.exe.hdrAt ∧ p.lpc = q.lpc ∧
        t.plat = s.plat ∧ ∀ l, t.chip.byteAt l = s.chip.byteAt l

/-- What appending a 32-byte record to a queue in device memory does (R325): the record at its place, the write index one higher, no other byte. -/
def appended (c d : Chip) (base k rec : Nat) : Prop :=
  d.dev.le (base + 64 + 32 * (c.dev.le base 8 % 2 ^ k)) 32 = rec % 2 ^ 256 ∧ d.dev.le base 8 = (c.dev.le base 8 + 1) % 2 ^ 64 ∧
    ∀ a, (a < base ∨ base + 8 ≤ a) → (a < base + 64 + 32 * (c.dev.le base 8 % 2 ^ k) ∨ base + 64 + 32 * (c.dev.le base 8 % 2 ^ k) + 32 ≤ a) →
      d.dev.byte a = c.dev.byte a

/-- Page faults and what waits for them (R174, R179): the oldest fault record that waits is appended where its queue has room; a region whose fault
is over restarts the live lanes of its mask at its restart point, with an empty buffer. Unsupported atomics (R181): the context engine performs a
lane's operation at its own location under its lock, and begins a peer's with one read packet under the lock, once no atomic of that lock is on its way. -/
def Obligations.FaultsAndServices : Prop :=
  (∀ (s : State) (n : Nat) (x : Ctx) (f : PFault), s.chip.ctx? n = some x → x.faults.find? (fun g => !g.appended) = some f →
    x.faults.find? (fun g => g.num == f.num && !g.appended) = some f → s.chip.queueRoom x.pfBase x.pfCap = true →
    ∃ t y, exec (.pageFaultRecordAppend n) s = .next t ∧ t.chip.ctx? n = some y ∧
      y.faults = x.faults.map (fun g => if g.num = f.num then { g with appended := true } else g) ∧
      appended s.chip t.chip x.pfBase x.pfCap f.record ∧ t.chip.squads = s.chip.squads ∧ t.plat = s.plat) ∧
  (∀ (s : State) (q : Squad) (r : Region), s.chip.squad? q.uid = some q → q.region = some r → q.restart = true → q.parked = none → q.deferred = none →
    (∀ x ∈ s.chip.requests, x.agent = .squad q.uid → x.escorted = false) → q.lpc.length = 32 → q.resume.length = 32 → q.st.length = 32 →
    ∃ t p, exec (.regionRestart q.uid) s = .next t ∧ t.chip.squad? q.uid = some p ∧ p.region = some { r with buf := [] } ∧ p.restart = false ∧
      (∀ l, l < 32 → p.lpc.getD l 0 = (if r.mask.getLsbD l && q.live l then r.hdrAt else q.lpc.getD l 0) ∧
        p.resume.getD l 0 = (if r.mask.getLsbD l && q.live l then r.pos else q.resume.getD l 0) ∧
        p.state l = (if r.mask.getLsbD l && q.live l then .eligible else q.state l)) ∧
      p.exe = q.exe ∧ p.pennants = q.pennants ∧ s.onlySquad t q.uid) ∧
  (∀ (s : State) (r : Request) (a : Access) (op : Sys2Proof.AtomOp) (ret : Bool), s.chip.request? r.id = some r → r.accs = [a] → r.kind = .atom op ret →
    a.unsup = true → a.status = .waiting → a.fab = none → a.locs ≠ [] → a.locs.Nodup → s.chip.anyBad a.locs = false → a.lane < 32 → a.elem = 0 →
    r.commit = false → (∀ pa rest, a.locs = .host pa :: rest ∨ a.locs = .dev pa :: rest → lockOf pa ∉ s.chip.locks) → s.chip.orderHeld r a.lane = false →
    s.chip.earlierAt r.agent r.id a.lane a.locs = false → s.chip.inCopy a.locs = false →
    ∃ t, exec (.unsupportedAtomicService r.id) s = .next t ∧ t.plat = s.plat ∧ (∀ l, l ∉ a.locs → t.chip.byteAt l = s.chip.byteAt l) ∧
      (∀ l v, (l, v) ∈ a.locs.zip (leBytes r.size (atomApply op (ofLe (s.chip.readLocs a.locs)) (ofLe a.data))) → takesStores s.chip l →
        t.chip.byteAt l = v) ∧
      (r.returns = true → (t.chip.request? r.id).bind (fun r => r.accs.head?.map (·.status)) =
        some (.done (leBytes r.size (ofLe (s.chip.readLocs a.locs)))))) ∧
  ∀ (s : State) (r : Request) (a : Access) (p : FabAddr), s.chip.request? r.id = some r → r.accs = [a] → a.unsup = true → a.status = .waiting →
    a.fab = some p → lockOf p.off ∉ s.chip.locks → (∀ o ∈ s.chip.fab.out, o.owner ≠ .service r.id a.lane) →
    (∀ o ∈ s.chip.fab.out, o.sent.isSome = true → o.pkt.opcode = 2 → lockOf o.pkt.offset.toNat ≠ lockOf p.off) →
    ∃ t o, exec (.unsupportedAtomicService r.id) s = .next t ∧ t.chip.locks = lockOf p.off :: s.chip.locks ∧ t.chip.fab.out = s.chip.fab.out ++ [o] ∧
      o.owner = .service r.id a.lane ∧ o.pkt.opcode = 0 ∧ o.pkt.dest = BitVec.ofNat 10 p.node ∧ o.pkt.offset = BitVec.ofNat 40 p.off ∧
      o.pkt.ordered = false ∧ t.plat = s.plat ∧ ∀ l, t.chip.byteAt l = s.chip.byteAt l

/-! ### Synchronisation -/

/-- One update of a barrier object (R17): bytes are added to the pending count; an arrival at a full count only sets the over-arrival bit; otherwise
an arrival counts, and a count that equals the expected one, with no pending byte where the object is byte-gated, completes the phase. -/
def barrierAfter (o : BarObj) (arrive : Bool) (add : Int) : BarObj :=
  let p := (BitVec.ofInt 32 (o.pending + add)).toInt
  if arrive = true ∧ o.arrivals = o.expected then { o with pending := p, excess := true }
  else
    let n := if arrive then o.arrivals + 1 else o.arrivals
    if n = o.expected ∧ (o.gated = true → p = 0) then { o with pending := p, phase := (o.phase + 1) % 2 ^ 32, arrivals := 0 }
    else { o with pending := p, arrivals := n }

/-- BARRIER_UPDATE (R17, R195): the home applies the update to the object, the token register takes the phase before it, and the pennant falls; no
other byte of memory changes. -/
def Obligations.BarrierUpdates : Prop :=
  ∀ (s : State) (u : BarUpdate), s.chip.updates.find? (fun x => x.id == u.id) = some u →
    (∀ k, u.uid = some k → s.chip.earlier (.squad k) u.after u.lanes = false) → (u.uid = none → ∀ k ∈ s.chip.fab.cmds, u.cmd = some k.id → k.signal = false) →
    s.chip.inCopy u.locs = false → u.locs.length = 16 → u.locs.Nodup → (∀ l ∈ u.locs, takesStores s.chip l) →
    (s.chip.barObj u.locs).arrivals < 2 ^ 16 - 1 →
    ∃ t, exec (.barrierUpdate u.id) s = .next t ∧ t.chip.barObj u.locs = barrierAfter (s.chip.barObj u.locs) u.arrive u.add ∧
      (∀ l, l ∉ u.locs → t.chip.byteAt l = s.chip.byteAt l) ∧ t.chip.updates = s.chip.updates.filter (fun x => x.id != u.id) ∧ t.plat = s.plat ∧
      ∀ q, u.uid = some q.uid → s.chip.squad? q.uid = some q → ∃ p, t.chip.squad? q.uid = some p ∧ p.pennants = (q.lower u.pennant).pennants ∧
        match u.token with
        | some code => uniWritten false code (s.chip.barObj u.locs).phase q.exe p.exe
        | none => p.exe = q.exe

/-- `bar.arr` and `barx` (R194, R195): an arrival, bytes, or both go to the object's home, with the token register and the pennant that the update
will serve; the squad's region is committed first. -/
def Obligations.Arrivals : Prop :=
  ∀ (s : State) (q : Squad) (f : FormX) (o : ObjMod) (ls : List Loc), passes (q.exe.chkUniDst 0 false f.p) = true →
    passes (Chip.chkObjCodes q f o (.ok ())) = true → passes (s.chip.chkObj q f o) = true →
    q.exe.acting f.g ≠ 0 → s.chip.objAt q f o = .ok ls → s.chip.acquiring q (q.exe.acting f.g) = false → q.pennantFull (q.exe.pennant f.ps) = false →
    s.chip.regionHeld q = false →
    let sent := fun (i : Instr) (arrive : Bool) (add : Int) =>
      ∃ t u, exec i s = .next t ∧ t.chip.updates = s.chip.updates ++ [u] ∧ u.locs = ls ∧ u.arrive = arrive ∧ u.add = add ∧ u.uid = some q.uid ∧
        u.token = (if f.p = 0xF3 then none else some f.p) ∧ u.pennant = q.exe.pennant f.ps ∧ u.after = u.id ∧ u.lanes = q.exe.acting f.g ∧ t.plat = s.plat ∧
        (∀ l, t.chip.byteAt l = (s.chip.commitRegion q.uid).byteAt l) ∧
        ∃ p x, t.chip.squad? q.uid = some p ∧ (s.chip.commitRegion q.uid).squad? q.uid = some x ∧
          p.pennants = (x.raise (q.exe.pennant f.ps)).pennants ∧ p.exe.regs = q.exe.regs ∧ p.exe.flags = q.exe.flags ∧ p.exe.uni = q.exe.uni;
    (s.ready q [0] (regsObj f o false) = true → sent (.barArr f o) true 0) ∧
    ∀ noArr : Bool, s.ready q [0] (regsObj f o true) = true → passes (q.exe.chkUni 2 false f.s) = true →
      sent (.barx f o noArr) (!noArr) (BitVec.ofNat 32 (q.exe.uniVal false f.s)).toInt

/-- A waiting instruction is over (R196): flag P of the lanes that take part is set or cleared; memory is as the commit of the squad's region left
it. -/
def waitOver (i : Instr) (f : FormX) (s : State) (q : Squad) (v : Bool) : Prop :=
  ∃ t p, exec i s = .next t ∧ t.chip.squad? q.uid = some p ∧ flagEffect f.g f.p.toNat (fun _ => v) q.exe p.exe ∧
    p.waitExpired = false ∧ p.waitMet = none ∧ t.plat = s.plat ∧ ∀ l, t.chip.byteAt l = (s.chip.commitRegion q.uid).byteAt l

/-- The waits (R197 to R201): with the squad's region committed (R175), no earlier access of the lanes that take part open at what is read, and none of
them open that is not relaxed, nor an arrival (R49), `bar.wait` is over once the object's phase differs from S, `twait` once the slot's done counter has
reached Q, `wext` once the word at Q compares with S as asked; an external wait whose bound has expired is over with flag 0.
Bounds and retests (R200, R201): where a squad waits at an external wait whose first test failed, its bound may count out, and a retest of `wext`
that finds the condition records it; nothing else changes. -/
def Obligations.Waits : Prop :=
  (∀ (s : State) (q : Squad) (f : FormX), q.exe.flags.length = 7 → q.exe.acting f.g ≠ 0 → s.chip.regionHeld q = false →
    let base := s.chip.commitRegion q.uid;
    (∀ (o : ObjMod) (ls : List Loc), s.ready q [0] ((if o.form then [] else uniRegs true f.q) ++ uniRegs false f.s) = true →
      passes (s.chip.chkBarWait q f o) = true →
      let c := base.waitFill q (.barWait f o);
      passes (c.chkBarWait q f o) = true → c.objAt q f o = .ok ls → c.openFor q f.g ls = false →
      c.earlierOrdered (.squad q.uid) c.nextId (q.exe.acting f.g) = false → c.inCopy ls = false →
      ((c.barObj ls).phase ≠ q.exe.uniVal false f.s → waitOver (.barWait f o) f s q true) ∧
      ((c.barObj ls).phase = q.exe.uniVal false f.s → (c.barObj ls).remote = true → q.waitMet = none → q.waitExpired = true →
        waitOver (.barWait f o) f s q false)) ∧
    (∀ ext : Bool, s.ready q [0] (uniRegs true f.q) = true → passes (s.chip.chkTwait q f) = true → passes (base.chkTwait q f) = true →
      let done := ((base.core q.place.core).slots.getD f.handle.toNat {}).done;
      (q.exe.uniVal true f.q ≤ done → waitOver (.twait f ext) f s q true) ∧
      (done < q.exe.uniVal true f.q → ext = true → q.waitMet = none → q.waitExpired = true → waitOver (.twait f ext) f s q false)) ∧
    ∀ (scope : BitVec 3) (cond : Cond) (ls : List Loc), s.ready q [0] (uniRegs true f.q ++ uniRegs false f.s) = true →
      passes (Chip.chkWext q f scope) = true → q.exe.uniVal true f.q < 2 ^ 56 → q.exe.uniVal true f.q % 4 = 0 →
      let c := base.waitFill q (.wext f scope cond);
      c.xl q.place.core q.exe.ctx { r := true } (q.exe.uniVal true f.q) 4 = .ok ls → c.openFor q f.g ls = false →
      c.earlierOrdered (.squad q.uid) c.nextId (q.exe.acting f.g) = false → c.inCopy ls = false → c.anyBad ls = false →
      let met := intCond cond (signed 32 (ofLe (c.readLocs ls))) (signed 32 (q.exe.uniVal false f.s));
      (met = true → waitOver (.wext f scope cond) f s q true) ∧
      (met = false → q.waitMet = none → q.waitExpired = true → waitOver (.wext f scope cond) f s q false)) ∧
  (∀ (s : State) (q p : Squad) (x : Ctx), s.chip.squad? q.uid = some q → s.chip.ctx? q.exe.ctx = some x → q.waitTested = true →
    (∀ i, s.chip.waitingAt q = some (p, i) → s.chip.testWait p i = .unmet true → x.extwait ≠ 0 →
      exec (.externalWaitExpiry q.uid) s = .next { s with chip := s.chip.modSquad q.uid fun q => { q with waitExpired := true } }) ∧
    ∀ (f : FormX) (scope : BitVec 3) (cond : Cond) (k : Nat), s.chip.waitingAt q = some (p, .wext f scope cond) →
      s.chip.testWext p f scope cond = .met k →
      exec (.wextRetest q.uid) s = .next { s with chip := s.chip.modSquad q.uid fun q => { q with waitMet := some k } })


/-! ### The access processor -/

/-- Address generation by a quarry thread whose lane is active (R214 to R216): `alp` decrements its counter and branches while it is not zero; `agen`
adds a shifted product to its base; `aidx` reduces modulo b, hashes to b bits, or looks the index up in the remap table.
`aload` and `ascat` (R218, R219) of a quarry thread on a queue of its own, with their locations at hand: a read goes out that will fill the
entry at a position aligned to its size, in the entry being filled where it fits there and else in a new one; a store goes out with the bytes at
the read position of the oldest entry, and the flag tells whether there was one. -/
def Obligations.AccessPrograms : Prop :=
  (∀ (s : State) (n t : Nat) (th : QThread), s.readyThread n t th = true → th.exe.active = 1 →
    (∀ f : FormB, passes (th.exe.chkSrc 0 (.gen false) f.reg) = true → passes (th.exe.chkDst (.gen false) f.reg) = true → f.burg.toNat ∉ [12, 13, 14] →
      (th.exe.guard f.g 0 = false → exec (.alp f) s = .next (s.afterThread n t s.chip)) ∧
      (th.exe.guard f.g 0 = true →
        let v := (th.exe.src false f.reg 0 + (2 ^ 32 - 1)) % 2 ^ 32;
        ∃ d, exec (.alp f) s = .next (s.afterThread n t (s.chip.modThread n t fun _ => d)) ∧
          (∀ r l, l < 32 → d.exe.reg r l = if l = 0 ∧ r = f.reg.toNat ∧ r < 0xF0 then BitVec.ofNat 32 v else th.exe.reg r l) ∧
          d.exe.hdrAt = (if v = 0 then th.exe.hdrAt else target th.exe.hdrAt f.off) ∧ d.exe.active = (if v = 0 then 1 else 0) ∧
          d.byTransfer = (th.byTransfer || decide (v ≠ 0)) ∧ d.exe.flags = th.exe.flags ∧ d.exe.uni = th.exe.uni)) ∧
    (∀ (f : FormR) (uns : Bool) (sh : BitVec 3), passes (th.exe.chkR f useAgen) = true →
      ∃ d, exec (.agen f uns sh) s = .next (s.afterThread n t (s.chip.modThread n t fun th => { th with exe := d })) ∧
        laneEffect ⟨f, useAgen, true, fun a b c =>
          if uns then (a + b * c * 2 ^ sh.toNat) % 2 ^ 64
          else (BitVec.ofNat 64 a + ((BitVec.ofNat 32 b).signExtend 64 * (BitVec.ofNat 32 c).signExtend 64) <<< sh.toNat).toNat⟩ th.exe d ∧
        latched f useAgen th.exe d ∧ samePlace th.exe d) ∧
    ∀ (f : FormR) (v : Nat), th.exe.guard f.g 0 = true →
      let a := th.exe.src false f.a 0;
      let b := th.exe.src false f.b 0;
      let wrote := fun (mode : AidxMode) => ∃ d,
        exec (.aidx f mode) s = .next (s.afterThread n t (s.chip.modThread n t fun th => { th with exe := d })) ∧
        lanesWritten f.g false f.dst (fun _ => v) th.exe d ∧ latched f (useAidx mode) th.exe d ∧ samePlace th.exe d;
      (passes (th.exe.chkR f (useAidx .modulo)) = true → v = (if b = 0 then a else a % b) → wrote .modulo) ∧
      (passes (th.exe.chkR f (useAidx .hash)) = true → b ≤ 32 → v = (if b = 0 then 0 else a * 0x9E3779B1 % 2 ^ 32 / 2 ^ (32 - b)) → wrote .hash) ∧
      (passes (th.exe.chkR f (useAidx .table)) = true → s.chip.tableWord n th (a % 4096) = .ok (some v) → wrote .table)) ∧
  (∀ (s : State) (n t : Nat) (th : QThread) (f : FormX) (scr : Bool) (size : QSize) (ls : List Loc), s.readyThread n t th = true →
    passes (th.exe.chkSrc 0 (.gen true) f.p) = true → f.q.toNat ≤ 15 → th.exe.guard f.g 0 = true →
    let z := qBytes size;
    let a := th.exe.src true f.p 0;
    let q := s.chip.queue n f.q.toNat;
    q.thread = t → q.ended = false →
    (q.state = .loadOpen → s.chip.threadAt n th scr false a z = .ok (.inl ls) → s.chip.quarryReads n < 256 → q.entries.length < 64 →
      ∃ u r, exec (.aload f scr size) s = .next u ∧ u.chip.requests = s.chip.requests ++ [r] ∧ r.agent = .thread n t ∧ r.kind = .load ∧ r.size = z ∧
        r.accs.map (fun x => (x.locs, x.status)) = [(ls, .waiting)] ∧ r.queue = f.q.toNat ∧ r.cmd = th.id ∧ r.fill % z = 0 ∧ r.fill + z ≤ 128 ∧
        (match q.entries.getLast? with
          | some x =>
            if x.shut = false ∧ size ≠ .line ∧ (x.fill + z - 1) / z * z + z ≤ 128 then
              r.entry = x.num ∧ r.fill = (x.fill + z - 1) / z * z ∧ (u.chip.queue n f.q.toNat).entries.length = q.entries.length
            else r.entry = q.next ∧ r.fill = 0 ∧ (u.chip.queue n f.q.toNat).entries.length = q.entries.length + 1
          | none => r.entry = q.next ∧ r.fill = 0 ∧ (u.chip.queue n f.q.toNat).entries.length = 1) ∧
        (∃ d, u.chip.thread? n t = some d ∧ d.exe.regs = th.exe.regs ∧ d.exe.flags = th.exe.flags) ∧
        u.chip.squads = s.chip.squads ∧ u.plat = s.plat ∧ ∀ l, u.chip.byteAt l = s.chip.byteAt l) ∧
    (q.state = .scatterOpen ∨ q.state = .draining ∨ q.state = .closed → f.s.toNat ≤ 7 → th.exe.flags.length = 7 →
      s.chip.threadAt n th scr true a z = .ok (.inl ls) →
      let x := q.atHead (size == .line) z;
      (∀ h rest, x.entries = h :: rest → ∃ u r, exec (.ascat f scr size) s = .next u ∧ u.chip.requests = s.chip.requests ++ [r] ∧
        r.agent = .thread n t ∧ r.kind = .store ∧ r.size = z ∧
        r.accs.map (fun y => (y.locs, y.data)) = [(ls, (h.bytes.drop ((x.readPos + z - 1) / z * z)).take z)] ∧
        u.chip.queue n f.q.toNat = x.took z ∧
        (∃ d, u.chip.thread? n t = some d ∧ d.exe.regs = th.exe.regs ∧
          ∀ k l, l < 32 → d.exe.flag k l = if k = f.s.toNat ∧ k < 7 ∧ l = 0 then true else th.exe.flag k l) ∧
        u.chip.squads = s.chip.squads ∧ u.plat = s.plat ∧ ∀ l, u.chip.byteAt l = s.chip.byteAt l) ∧
      (x.entries = [] → q.state ≠ .scatterOpen → ∃ u, exec (.ascat f scr size) s = .next u ∧ u.chip.requests = s.chip.requests ∧
        (∃ d, u.chip.thread? n t = some d ∧ d.exe.regs = th.exe.regs ∧
          ∀ k l, l < 32 → d.exe.flag k l = if k = f.s.toNat ∧ k < 7 ∧ l = 0 then false else th.exe.flag k l) ∧
        u.chip.squads = s.chip.squads ∧ u.plat = s.plat ∧ ∀ l, u.chip.byteAt l = s.chip.byteAt l)))

/-- What an instruction that takes a word and a flag for each lane leaves. -/
def wordsAndFlag (g : Guard) (code : Code) (k : Nat) (w : Nat → Nat) (v : Bool) (e d : Exe) : Prop :=
  (∀ n l, l < 32 → d.reg n l = if e.takesPart g l = true ∧ n = code.toNat ∧ n < 0xF0 then BitVec.ofNat 32 (w l) else e.reg n l) ∧
    (∀ j l, l < 32 → d.flag j l = if j = k ∧ k < 7 ∧ e.takesPart g l = true then v else e.flag j l) ∧ d.uni = e.uni ∧ e.keeps d

/-- The squad side of the queues (R220, R223, R224): `qpop` takes the entry that was reserved for it, or tells that none will come; `qpush` appends
the words of its lanes, or tells that the queue takes no more; `qpeek` reads without taking; `qpush.close` lets a scatter queue drain; `qpush.start`
numbers a start command and hands it to the quarry.
The quarry on its own (R210, R211, R218, R221, R222): it takes its oldest start command for the lowest free thread and binds the queues, or
refuses it; a thread between clauses starts under a legal header; a landed read puts its bytes into its entry, and none into an entry of the same
number that a later start command's binding made; a start whose thread has ended completes on its timeline once its stores, and its reads but
those of discarded entries, are over. And R14: the done counter is the last number up to which every command has
completed. -/
def Obligations.Quarry : Prop :=
  (∀ (s : State) (q : Squad) (f : FormX), q.exe.flags.length = 7 → q.exe.acting f.g ≠ 0 →
    let n := q.place.core;
    let x := s.chip.queue n f.q.toNat;
    let besides := fun (u : State) => u.plat = s.plat ∧ u.chip.requests = s.chip.requests ∧ (∀ l, u.chip.byteAt l = s.chip.byteAt l) ∧
      ∀ v, v ≠ q.uid → u.chip.squad? v = s.chip.squad? v;
    let left := fun (u : State) (eff : Exe → Prop) => ∃ p, u.chip.squad? q.uid = some p ∧ eff p.exe ∧ p.pennants = q.pennants ∧ p.burgees = q.burgees;
    (s.ready q [0] (codeRegs false f.p) = true → passes (s.chip.chkPop q f) = true →
      (q.exe.pos = 0 →
        (∀ k e, q.qHold = some k → x.entries.find? (fun y => y.num == k) = some e →
          ∃ u, exec (.qpop f) s = .next u ∧ left u (wordsAndFlag f.g f.p f.s.toNat e.word true q.exe) ∧
            (u.chip.queue n f.q.toNat).entries = x.entries.filter (fun y => y.num != k) ∧ besides u) ∧
        (q.qHold = none → x.popTest = .none_ →
          ∃ u, exec (.qpop f) s = .next u ∧ left u (wordsAndFlag f.g f.p f.s.toNat (fun _ => 0) false q.exe) ∧ u.chip.queue n f.q.toNat = x ∧ besides u)) ∧
      ∃ u, exec (.qpeek f) s = .next u ∧ u.chip.queue n f.q.toNat = x ∧ besides u ∧
        left u (match x.entries.find? fun y => !y.reserved with
          | some e => if e.complete then wordsAndFlag f.g f.p f.s.toNat e.word true q.exe else wordsAndFlag f.g f.p f.s.toNat (fun _ => 0) false q.exe
          | none => wordsAndFlag f.g f.p f.s.toNat (fun _ => 0) false q.exe)) ∧
    (s.ready q [0] (codeRegs false f.p) = true → passes (s.chip.chkPush q f) = true → q.exe.pos = 0 →
      (x.state = .scatterOpen → q.qHold.isSome = true ∨ x.entries.length + x.held < 64 →
        ∃ u e, exec (.qpush f) s = .next u ∧ left u (flagEffect f.g f.s.toNat (fun _ => true) q.exe) ∧
          (u.chip.queue n f.q.toNat).entries = x.entries ++ [e] ∧ e.num = x.next ∧ e.complete = true ∧
          (∀ l, l < 32 → e.word l = if q.exe.takesPart f.g l then q.exe.src false f.p l % 2 ^ 32 else 0) ∧ besides u) ∧
      (x.state = .draining ∨ x.state = .closed →
        ∃ u, exec (.qpush f) s = .next u ∧ left u (flagEffect f.g f.s.toNat (fun _ => false) q.exe) ∧
          (u.chip.queue n f.q.toNat).entries = x.entries ∧ besides u)) ∧
    (s.ready q [0] [] = true → f.q.toNat ≤ 15 → s.chip.queueFor q f.q.toNat false = true →
      ∃ u, exec (.qpushClose f) s = .next u ∧ besides u ∧ left u (fun d => d.regs = q.exe.regs ∧ d.flags = q.exe.flags ∧ d.uni = q.exe.uni) ∧
        u.chip.queue n f.q.toNat = { x with state := if x.state = .scatterOpen then .draining else x.state }) ∧
    ∀ ms : BitVec 2, s.ready q [0] (uniRegs true f.p ++ blockRegs (256 + f.q.toNat) 8 ++ uniRegs false f.s ++ uniRegs false f.t) = true →
      passes (s.chip.chkStart q f ms) = true → passes (q.exe.chkStartVals f) = true → s.chip.acquiring q (q.exe.acting f.g) = false →
      q.pennantFull (q.exe.pennant f.ps) = false → s.chip.regionHeld q = false →
      s.chip.earlier (.squad q.uid) s.chip.nextId (q.exe.acting f.g) = false →
      let slot := (s.chip.core n).slots.getD f.handle.toNat {};
      ∃ u st, exec (.qpushStart f ms) s = .next u ∧ (u.chip.core n).starts = (s.chip.core n).starts ++ [st] ∧ st.num = slot.issue + 1 ∧
        (u.chip.core n).slots.getD f.handle.toNat {} = { slot with issue := slot.issue + 1 } ∧ st.slot = f.handle.toNat ∧
        st.entry = q.exe.uniVal true f.p ∧ st.args = (List.range 8).map (fun k => q.exe.uniReg (f.q.toNat + k)) ∧
        (∀ k, k ∈ st.loads ↔ k < 16 ∧ (q.exe.uniVal false f.s).testBit k = true) ∧
        (∀ k, k ∈ st.scatters ↔ k < 16 ∧ (q.exe.uniVal false f.s).testBit (16 + k) = true) ∧
        st.table = (if f.t = 0xF3 then none else some (q.exe.uniVal false f.t)) ∧ u.plat = s.plat ∧
        ∀ l, u.chip.byteAt l = (s.chip.commitRegion q.uid).byteAt l) ∧
  ((∀ (s : State) (n t : Nat) (st : QStart) (rest : List QStart), n < s.chip.cores.length → (s.chip.core n).starts = st :: rest → t < 16 →
    (s.chip.core n).threads.length = 16 → (s.chip.core n).queues.length = 16 → s.chip.thread? n t = none →
    (∀ k, k < t → (s.chip.thread? n k).isSome = true) → (∀ i ∈ st.loads ++ st.scatters, i < 16) → (∀ i ∈ st.loads, i ∉ st.scatters) →
    (s.chip.startRefused n st = false → ∃ u th, exec (.quarryStartTaken n) s = .next u ∧ (u.chip.core n).starts = rest ∧ u.chip.thread? n t = some th ∧
      th.exe.hdrAt = st.entry ∧ th.exe.inClause = false ∧ (∀ k, k < st.args.length → th.exe.uniReg k = st.args.getD k 0) ∧ th.exe.regs = [] ∧
      th.exe.mslots = st.mslots ∧ th.slot = st.slot ∧ th.num = st.num ∧ th.id = s.chip.nextId ∧
      (∀ i, i ∈ st.loads → u.chip.queue n i = { state := .loadOpen, launch := st.launch, muster := st.muster, ctx := st.ctx, thread := t, cmd := th.id }) ∧
      (∀ i, i ∈ st.scatters → u.chip.queue n i = { state := .scatterOpen, launch := st.launch, muster := st.muster, ctx := st.ctx, thread := t, cmd := th.id }) ∧
      (∀ i, i ∉ st.loads → i ∉ st.scatters → u.chip.queue n i = s.chip.queue n i) ∧ u.chip.squads = s.chip.squads ∧ u.plat = s.plat ∧
      ∀ l, u.chip.byteAt l = s.chip.byteAt l) ∧
    (s.chip.startRefused n st = true → ∃ u, exec (.quarryStartTaken n) s = .next u ∧ (u.chip.core n).starts = rest ∧ u.chip.thread? n t = none ∧
      (u.chip.core n).slots.getD st.slot {} = (if st.slot < (s.chip.core n).slots.length then ((s.chip.core n).slots.getD st.slot {}).finish st.num true
        else {}) ∧ u.chip.squads = s.chip.squads ∧ u.plat = s.plat)) ∧
  (∀ (s : State) (n t : Nat) (th : QThread) (hdr : DWord), s.chip.thread? n t = some th → th.exe.inClause = false → s.chip.threadStops n th = false →
    th.exe.hdrAt % 8 = 0 → th.exe.hdrAt < 2 ^ 57 → s.chip.failedIn th.id th.exe.hdrAt 8 = false →
    s.chip.fetchWord n th.exe.ctx th.exe.hdrAt = .ok hdr → hdr.toNat / 2 ^ 60 = 3 →
    hdr.toNat / 2 ^ 44 % 2 ^ 12 = 0 → hdr.toNat / 2 ^ 36 % 2 ^ 8 = 0xFF → hdr.toNat % 2 ^ 36 = 0 →
    ∃ u d, exec (.quarryIssue n t) s = .next u ∧ u.chip.turn = some (.thread n t) ∧ u.chip.thread? n t = some d ∧
      d.exe = { th.exe with hdr, pos := 0, active := 1, inClause := true, latch := [], latchAt := [none, none, none] } ∧
      u.chip.squads = s.chip.squads ∧ u.plat = s.plat ∧ ∀ l, u.chip.byteAt l = s.chip.byteAt l) ∧
  (∀ (s : State) (r : Request) (n t : Nat) (a : Access) (bs : List Byte), s.chip.request? r.id = some r → r.agent = .thread n t → r.accs = [a] →
    a.status = .done bs →
    ∃ u, exec (.quarryReadLanding r.id) s = .next u ∧ u.chip.request? r.id = none ∧
      (r.kind = .load → n < s.chip.cores.length → r.queue < (s.chip.core n).queues.length →
        (u.chip.queue n r.queue).entries = (s.chip.queue n r.queue).entries.map fun x =>
          if (s.chip.queue n r.queue).cmd = r.cmd ∧ x.num = r.entry then
            { x with
              out := x.out.erase (r.fill, bs.length)
              bytes := x.bytes.mapIdx fun i b => if r.fill ≤ i ∧ i < r.fill + bs.length then bs.getD (i - r.fill) 0 else b }
          else x) ∧
      u.chip.squads = s.chip.squads ∧ u.plat = s.plat ∧ ∀ l, u.chip.byteAt l = s.chip.byteAt l) ∧
  (∀ (s : State) (n : Nat) (d : QDone), (s.chip.core n).ends.find? (fun x => x.id == d.id) = some d →
    (∀ r ∈ s.chip.requests, r.cmd = d.id → r.core = n → (∃ u, r.agent = .squad u) ∨
      (r.kind = .load ∧ ∀ x ∈ (s.chip.queue n r.queue).entries, (s.chip.queue n r.queue).cmd = r.cmd → x.num ≠ r.entry)) →
    ∃ u, exec (.quarryStartCompletion n d.id) s = .next u ∧ (u.chip.core n).ends = (s.chip.core n).ends.filter (fun x => x.id != d.id) ∧
      (∀ k, k ≠ d.slot → (u.chip.core n).slots.getD k {} = (s.chip.core n).slots.getD k {}) ∧
      (d.slot < (s.chip.core n).slots.length →
        (u.chip.core n).slots.getD d.slot {} = ((s.chip.core n).slots.getD d.slot {}).finish d.num false) ∧
      u.chip.squads = s.chip.squads ∧ u.plat = s.plat ∧ ∀ l, u.chip.byteAt l = s.chip.byteAt l) ∧
  ∀ (x : Slot) (k : Nat) (failed : Bool),
    let d := (x.finish k failed).done;
    x.done ≤ d ∧ (∀ j, x.done < j → j ≤ d → j = k ∨ j ∈ x.finished) ∧ d + 1 ≠ k ∧ d + 1 ∉ x.finished ∧
      (x.finish k failed).issue = x.issue ∧ (x.finish k failed).fault = (x.fault || failed))

/-! ### The copy engines -/

/-- What every command of an engine waits for (R12, R47, R55, R175, R234): no acquire of the lanes that take part is out, the pennant has room, the
stores of the region can be performed, and no earlier access of those lanes is open. -/
def mayIssue (s : State) (q : Squad) (g : Guard) (ps : Bool) : Prop :=
  s.chip.acquiring q (q.exe.acting g) = false ∧ q.pennantFull (q.exe.pennant ps) = false ∧ s.chip.regionHeld q = false ∧
    s.chip.earlier (.squad q.uid) s.chip.nextId (q.exe.acting g) = false

/-- Slot k of core n has taken one command more (R14); every other slot of the core is as before. -/
def numbered (c d : Chip) (n k : Nat) : Prop :=
  ∀ j, (d.core n).slots.getD j {} =
    if j = k then { (c.core n).slots.getD k {} with issue := ((c.core n).slots.getD k {}).issue + 1 } else (c.core n).slots.getD j {}

/-- `hoist` (R234 to R236): a record of the squad's scratch that passes the content checks becomes the slot's next command, and the destination lines
in scratch are absent from then on (present for the op that makes them so). `rrot` (R240, R241): the core's next round request on a ring muster, with
the tile's lines absent. Memory is as the commit of the squad's region left it. -/
def Obligations.CopyIssues : Prop :=
  ∀ (s : State) (q : Squad) (f : FormX) (w : Window) (b : Nat), q.exe.acting f.g ≠ 0 → mayIssue s q f.g f.ps →
    let n := q.place.core;
    let a := q.exe.uniVal false f.p;
    let k := f.handle.toNat;
    let base := s.chip.commitRegion q.uid;
    (∀ r, s.ready q [4] (uniRegs false f.p) = true → passes (q.exe.chkUni 0 false f.p) = true → s.chip.slotHeld q k = true → a % 64 = 0 →
      s.chip.scratchAt n q.launch q.exe.mslots a 64 = some (w, b) → Sparse.get false (s.chip.core n).absent (b / 128) = false →
      r = ofLe ((List.range 64).map fun i => base.byteAt (.scr n (b + i))) → s.chip.shapeOk q r = true →
      ∃ t h, exec (.hoist f) s = .next t ∧ (t.chip.core n).hoists = (s.chip.core n).hoists ++ [h] ∧
        h = { id := s.chip.nextId, core := n, ctx := q.exe.ctx, launch := q.launch, slot := k, num := ((s.chip.core n).slots.getD k {}).issue + 1
              hdrAt := q.exe.hdrAt, record := r, srcBase := s.chip.windowBase q (shapeSrc r), dstBase := s.chip.windowBase q (shapeDst r)
              barBase := s.chip.windowBase q (shapeBar r) } ∧
        numbered s.chip t.chip n k ∧
        (∀ l, Sparse.get false (t.chip.core n).absent l =
          if shapeDstScr r = true ∧ l ∈ h.lines then shapeOp r != 4 else Sparse.get false (s.chip.core n).absent l) ∧
        t.plat = s.plat ∧ ∀ l, t.chip.byteAt l = base.byteAt l) ∧
    ∀ (ms : BitVec 2) (mu : Nat), s.ready q [4] (uniRegs false f.p ++ uniRegs false f.q) = true → passes (s.chip.chkRrot q f ms) = true →
      q.exe.mslots.getD ms.toNat none = some mu →
      let len := q.exe.uniVal false f.q;
      len % 128 = 0 → 128 ≤ len → len ≤ 65536 → a % 128 = 0 → s.chip.scratchAt n q.launch q.exe.mslots a len = some (w, b) →
      ∃ t r, exec (.rrot f ms) s = .next t ∧ t.chip.rings = s.chip.rings ++ [r] ∧
        r = { id := s.chip.nextId, core := n, ctx := q.exe.ctx, launch := q.launch, muster := mu, round := s.chip.ringLast q.launch mu n + 1, slot := k
              num := ((s.chip.core n).slots.getD k {}).issue + 1, hdrAt := q.exe.hdrAt, tile := a, pos := b, len } ∧
        t.chip.ringLast q.launch mu n = r.round ∧ numbered s.chip t.chip n k ∧
        (∀ l, Sparse.get false (t.chip.core n).absent l =
          if b / 128 ≤ l ∧ l < b / 128 + len / 128 then true else Sparse.get false (s.chip.core n).absent l) ∧
        t.plat = s.plat ∧ ∀ l, t.chip.byteAt l = base.byteAt l

/-- A scratch line that an engine has landed: present and written; the presence of every other line of the core is as before (R236). -/
def lineLanded (c d : Chip) (n line : Nat) : Prop :=
  Sparse.get false (d.core n).absent line = false ∧ Sparse.get false (d.core n).written line = true ∧
    ∀ l, l ≠ line → Sparse.get false (d.core n).absent l = Sparse.get false (c.core n).absent l

/-- A round of the ring fails (R243): its requests are gone, each core's tile is present again, each request completes with the sticky fault bit and
appends its record of kind 0x24 (the cause in it is a free value, log 44), the round is over for every core of the cluster, and no scratch byte
moves. -/
def roundFails (s t : State) (launch muster cl : Nat) (r : RingReq) (rs : List RingReq) : Prop :=
  (∀ x, x ∈ t.chip.rings ↔ x ∈ s.chip.rings ∧ x.id ∉ (r :: rs).map (·.id)) ∧
    (∀ x ∈ r :: rs, x.core < s.chip.cores.length → x.slot < (s.chip.core x.core).slots.length →
      ((t.chip.core x.core).slots.getD x.slot {}).fault = true ∧ ∀ l ∈ x.lines, Sparse.get false (t.chip.core x.core).absent l = false) ∧
    (∀ n ∈ s.chip.clusterCores cl, r.round ≤ t.chip.ringLast launch muster n.1) ∧
    (∃ causes : List Nat, causes.length = (r :: rs).length ∧ (∀ k ∈ causes, k < 256) ∧
      t.chip.dev = (((r :: rs).zip causes).foldl (fun c x =>
        c.errAppend x.1.ctx (record212 0x24 x.2 x.1.slot 0 x.1.core x.1.num x.1.hdrAt x.1.tile)) s.chip).dev) ∧
    t.plat = s.plat ∧ ∀ n off, t.chip.byteAt (.scr n off) = s.chip.byteAt (.scr n off)

/-- The hoist on its own (R232, R236 to R239): with a line, every byte of its moves that is written once takes its source byte as it stood, no other
byte changes, and the countdown of that many bytes goes to the barrier object; a command completes on its timeline once every line has landed and
its countdowns are applied, or once it has faulted; a command that faults goes no further, restores presence, counts down the bytes it will not place
(at once, or when the barrier object's page is there) and appends its record.
The ring (R240, R242, R243): a round starts with a request of every core of the cluster and reads the tile of the core one position before; its lines
land one by one, and with the last the request completes; a round whose requests differ in length or window offset, that some core can never join, or
whose context is pre-empted, fails.
The model's choices: the cause 5 in a record of kind 0x23 and a free one in a record of kind 0x24 (log 44); a source byte is read as it stands when its line
lands (log 51). -/
def Obligations.CopiesLand : Prop :=
  (∀ (s : State) (h : HoistCmd), s.chip.hoist? h.id = some h → (s.chip.core h.core).hoists.find? (fun x => x.id == h.id) = some h →
    s.chip.hoistWorks h = true → h.core < s.chip.cores.length →
    (∀ (line : Nat) (ms : List (Loc × Nat × Loc)) (bar : List Loc), h.faulted = false → shapeMoves h.record = true → line ∉ h.landed → line ∈ h.lines →
      s.chip.hoistLine h line = .ok ms → s.chip.hoistBar h = .ok bar → s.chip.inCopy (ms.map (·.1) ++ ms.map (·.2.2)) = false →
      (ms.map (·.2.1)).Nodup → (ms.map (·.2.2)).Nodup →
      ∃ t x us, exec (.hoistLineLanding h.id line) s = .next t ∧ (∀ m ∈ ms, takesStores s.chip m.2.2 → t.chip.byteAt m.2.2 = s.chip.byteAt m.1) ∧
        (∀ l, l ∉ ms.map (·.2.2) → t.chip.byteAt l = s.chip.byteAt l) ∧ (t.chip.core h.core).hoists.find? (fun x => x.id == h.id) = some x ∧
        x = { h with landed := h.landed ++ [line] } ∧ (shapeDstScr h.record = true → lineLanded s.chip t.chip h.core line) ∧
        t.chip.updates = s.chip.updates ++ us ∧ (bar = [] → us = []) ∧
        (bar ≠ [] → us.map (fun u => (u.locs, u.arrive, u.add, u.cmd)) = [(bar, false, -(ms.length : Int), some h.id)]) ∧ t.plat = s.plat) ∧
    (h.faulted = true ∨ shapeMoves h.record = false ∨ (∀ l ∈ h.lines, l ∈ h.landed) → h.owed = 0 → (∀ u ∈ s.chip.updates, u.cmd ≠ some h.id) →
      ∃ t, exec (.hoistCompletion h.id) s = .next t ∧ (t.chip.core h.core).hoists = (s.chip.core h.core).hoists.filter (fun x => x.id != h.id) ∧
        (∀ j, (t.chip.core h.core).slots.getD j {} =
          if j = h.slot ∧ j < (s.chip.core h.core).slots.length then ((s.chip.core h.core).slots.getD j {}).finish h.num h.faulted
          else (s.chip.core h.core).slots.getD j {}) ∧
        t.chip.squads = s.chip.squads ∧ t.plat = s.plat ∧ ∀ l, t.chip.byteAt l = s.chip.byteAt l) ∧
    (∀ a, h.faulted = false → shapeMoves h.record = true → s.chip.hoistError h = some a →
      let rest := if shapeBar h.record = 0 then 0
        else ((h.lines.filter fun l => !h.landed.contains l).map fun l => (h.moves.filter fun m => m.2 / 128 == l).length).sum;
      ∃ t x, exec (.hoistFault h.id) s = .next t ∧ (t.chip.core h.core).hoists.find? (fun x => x.id == h.id) = some x ∧
        (∀ bar, s.chip.hoistBar h = .ok bar → x = { h with faulted := true, owed := 0 } ∧
          t.chip.dev = (s.chip.errAppend h.ctx (record212 0x23 5 h.slot 0 h.core h.num h.hdrAt a)).dev ∧
          ∃ us, t.chip.updates = s.chip.updates ++ us ∧
            us.map (fun u => (u.locs, u.arrive, u.add, u.cmd)) = if rest = 0 then [] else [(bar, false, -(rest : Int), some h.id)]) ∧
        (∀ p v need, s.chip.hoistBar h = .error (.absent p, v, need) →
          x = { h with faulted := true, owed := rest } ∧ t.chip.updates = s.chip.updates) ∧
        (shapeDstScr h.record = true → ∀ l ∈ h.lines, l ∉ h.landed → Sparse.get false (t.chip.core h.core).absent l = false) ∧ t.plat = s.plat ∧
        ∀ n off, t.chip.byteAt (.scr n off) = s.chip.byteAt (.scr n off)) ∧
    ∀ bar, h.faulted = true → h.owed ≠ 0 → s.chip.hoistBar h = .ok bar → bar ≠ [] →
      ∃ t x u, exec (.hoistFault h.id) s = .next t ∧ (t.chip.core h.core).hoists.find? (fun x => x.id == h.id) = some x ∧ x = { h with owed := 0 } ∧
        t.chip.updates = s.chip.updates ++ [u] ∧ (u.locs, u.arrive, u.add, u.cmd) = (bar, false, -(h.owed : Int), some h.id) ∧ t.plat = s.plat ∧
        ∀ l, t.chip.byteAt l = s.chip.byteAt l) ∧
  (∀ (s : State) (launch muster : Nat) (r : RingReq) (rs : List RingReq) (cl pos : Nat), s.chip.ringWaiting launch muster = r :: rs →
    s.chip.clusterOf r.core = some (cl, pos) → (s.chip.rings.map (·.id)).Nodup → ((r :: rs).map (·.core)).Nodup →
    ((∀ n ∈ s.chip.clusterCores cl, (∃ x ∈ r :: rs, x.core = n.1) ∧ (s.chip.core n.1).preempt ≠ some r.ctx) → ((s.chip.clusterCores cl).map (·.2)).Nodup →
      (∀ x ∈ rs, x.len = r.len ∧ x.tile % 2 ^ 21 = r.tile % 2 ^ 21) →
      ∃ t, exec (.ringRoundStart launch muster) s = .next t ∧ t.chip.rings.map (·.id) = s.chip.rings.map (·.id) ∧ t.plat = s.plat ∧
        (∀ l, t.chip.byteAt l = s.chip.byteAt l) ∧
        ∀ x ∈ r :: rs, ∀ y ∈ r :: rs, ∀ p, (x.core, p) ∈ s.chip.clusterCores cl → (y.core, (p + 3) % 4) ∈ s.chip.clusterCores cl →
          { x with started := true, incoming := (List.range y.len).map fun i => s.chip.byteAt (.scr y.core (y.pos + i)) } ∈ t.chip.rings) ∧
    ((∀ n ∈ s.chip.clusterCores cl, (∃ x ∈ r :: rs, x.core = n.1) ∧ (s.chip.core n.1).preempt ≠ some r.ctx) → (∃ x ∈ rs, x.len ≠ r.len ∨ x.tile % 2 ^ 21 ≠ r.tile % 2 ^ 21) →
      ∃ t, exec (.ringRoundStart launch muster) s = .next t ∧ roundFails s t launch muster cl r rs) ∧
    ((s.chip.membersOut launch muster = true ∧
        ∃ n ∈ s.chip.clusterCores cl, (∀ x ∈ r :: rs, x.core ≠ n.1) ∧ s.chip.memberOn launch muster n.1 = false) ∨
      (∃ n ∈ s.chip.clusterCores cl, (s.chip.core n.1).preempt = some r.ctx) →
      ∃ t, exec (.ringRoundFailure launch muster) s = .next t ∧ roundFails s t launch muster cl r rs)) ∧
  ∀ (s : State) (r : RingReq) (line : Nat), s.chip.rings.find? (fun x => x.id == r.id) = some r → r.started = true → line ∉ r.landed →
    line < r.len / 128 → r.core < s.chip.cores.length → r.incoming.length = r.len →
    ∃ t, exec (.ringTileLanding r.id line) s = .next t ∧
      (∀ l, t.chip.byteAt l = match l with
        | .scr n off =>
          if n = r.core ∧ r.pos + 128 * line ≤ off ∧ off < r.pos + 128 * line + 128 then r.incoming.getD (off - r.pos) 0 else s.chip.byteAt l
        | l => s.chip.byteAt l) ∧
      lineLanded s.chip t.chip r.core (r.pos / 128 + line) ∧
      (r.landed.length + 1 < r.len / 128 → t.chip.rings.find? (fun x => x.id == r.id) = some { r with landed := r.landed ++ [line] }) ∧
      (r.len / 128 ≤ r.landed.length + 1 → t.chip.rings = s.chip.rings.filter (fun x => x.id != r.id) ∧
        (r.slot < (s.chip.core r.core).slots.length →
          (t.chip.core r.core).slots.getD r.slot {} = ((s.chip.core r.core).slots.getD r.slot {}).finish r.num false)) ∧
      t.plat = s.plat

/-! ### Accumulators -/

/-- The owner test (R265): no ownership trap is being serviced, and the word names the squad's context, or names none while the context has nothing
saved for the bench. -/
def mayTouch (c : Chip) (q : Squad) : Prop :=
  (c.benchOf q).service = none ∧
    ((c.benchOf q).accValid = true ∧ (c.benchOf q).accCtx = q.exe.ctx ∨
      (c.benchOf q).accValid = false ∧ c.hasSaved q.exe.ctx q.place.core q.place.bench = false)

/-- What an instruction of the matrix engine leaves of its bench and of the rest of the machine: each bank in mode `mode i`, the values of the banks
that are not free as `val` says, the owner word on the squad's context while a bank is not free; every other bench and squad, and all of memory, as
before. -/
def bankAfter (s t : State) (q : Squad) (mode : Nat → BankMode) (val : Nat → Nat → Nat) : Prop :=
  (∀ i, i < 16 → (t.chip.benchOf q).modes.getD i .free = mode i ∧ (mode i ≠ .free → ∀ w, w < 1024 → (t.chip.benchOf q).val i w = val i w)) ∧
    ((∃ i, i < 16 ∧ mode i ≠ .free) → (t.chip.benchOf q).accValid = true ∧ (t.chip.benchOf q).accCtx = q.exe.ctx) ∧
    (∀ k, k ≠ 6 * q.place.core + q.place.bench → t.chip.benches.getD k {} = s.chip.benches.getD k {}) ∧ t.plat = s.plat ∧
    (∀ u, u ≠ q.uid → t.chip.squad? u = s.chip.squad? u) ∧ ∀ l, t.chip.byteAt l = s.chip.byteAt l

/-- Banks of a squad's bench (R249 to R251, R262): `acqb` takes the lowest free banks, dense and zero, for its handles in ascending order; `relb` frees
the banks of its handles and discards the tables over them; `azero` zeroes dense banks; `ard` and `awr` move raw words between row l of a bank and the
registers of lane l.
OWNERSHIP_SERVICE (R266): with no drain and no `jrun` in progress the word comes to name the context of the squad that trapped, and the trap is
over. What a spill writes to the owner's save area a reload gives back (R266, R267, R288): the modes of the banks, the values of those in use, and
the keys of hash banks; between the two the bench is free. -/
def Obligations.Banks : Prop :=
  (∀ (s : State) (q : Squad) (f : FormX) (n1 : BitVec 5), 6 * q.place.core + q.place.bench < s.chip.benches.length →
    (s.chip.benchOf q).modes.length = 16 → q.handles.length = 16 → (∀ i b, q.bank i = some b → b < 16) → mayTouch s.chip q →
    let x := s.chip.benchOf q;
    let mode := fun i => x.modes.getD i .free;
    let h := f.handle.toNat;
    let n := n1.toNat + 1;
    let kept := fun (p : Squad) => p.exe.regs = q.exe.regs ∧ p.exe.flags = q.exe.flags ∧ p.exe.uni = q.exe.uni ∧ p.pennants = q.pennants;
    (s.ready q [1] [] = true → q.exe.acting f.g ≠ 0 → h + n ≤ 16 →
      (let ks := ((List.range 16).filter fun i => mode i == .free).take n;
        q.exe.pos = 0 → (∀ i, i < n → q.bank (h + i) = none) → ks.length = n → s.chip.acqTurn q = true →
        ∃ t p, exec (.acqb f n1) s = .next t ∧ t.chip.squad? q.uid = some p ∧ kept p ∧
          (∀ i, p.bank i = if h ≤ i ∧ i < h + n then ks[i - h]? else q.bank i) ∧
          bankAfter s t q (fun i => if i ∈ ks then .dense else mode i) fun i w => if i ∈ ks then 0 else x.val i w) ∧
      ∀ ks, q.banks h n = some ks →
        ((∀ i y, i < n → s.chip.tableOver q (h + i) = some y → y.2.draining = false) →
          ∃ t p, exec (.relb f n1) s = .next t ∧ t.chip.squad? q.uid = some p ∧ kept p ∧
            (∀ i, p.bank i = if h ≤ i ∧ i < h + n then none else q.bank i) ∧
            (t.chip.benchOf q).tables =
              x.tables.filter (fun y => !(List.range n).any fun i => (s.chip.tableOver q (h + i)).map (·.2) == some y) ∧
            ((∀ i, i < 16 → i ∉ ks → mode i = .free) → (t.chip.benchOf q).accValid = false) ∧
            bankAfter s t q (fun i => if i ∈ ks then .free else mode i) x.val) ∧
        ((∀ k ∈ ks, mode k = .dense) → ∃ t p, exec (.azero f n1) s = .next t ∧ t.chip.squad? q.uid = some p ∧ kept p ∧ p.handles = q.handles ∧
          (t.chip.benchOf q).tables = x.tables ∧ bankAfter s t q mode fun i w => if i ∈ ks then 0 else x.val i w)) ∧
    ∀ (col : BitVec 5) (b : Nat), s.ready q [1] (blockRegs f.p.toNat n) = true → passes (q.exe.chkBase f) = true → q.bank h = some b →
      mode b = .dense → col.toNat + n ≤ 32 → f.p.toNat + n ≤ q.exe.declared →
      (∃ t p, exec (.ard f n1 col) s = .next t ∧ t.chip.squad? q.uid = some p ∧ p.handles = q.handles ∧ bankAfter s t q mode x.val ∧
        (∀ r l, l < 32 → p.exe.reg r l = if q.exe.takesPart f.g l = true ∧ f.p.toNat ≤ r ∧ r < f.p.toNat + n
          then BitVec.ofNat 32 (x.val b (32 * l + col.toNat + (r - f.p.toNat))) else q.exe.reg r l) ∧
        p.exe.flags = q.exe.flags ∧ p.exe.uni = q.exe.uni) ∧
      ∃ t p, exec (.awr f n1 col) s = .next t ∧ t.chip.squad? q.uid = some p ∧ p.handles = q.handles ∧ kept p ∧ bankAfter s t q mode fun i w =>
        if i = b ∧ q.exe.takesPart f.g (w / 32) = true ∧ col.toNat ≤ w % 32 ∧ w % 32 < col.toNat + n
        then (q.exe.reg (f.p.toNat + (w % 32 - col.toNat)) (w / 32)).toNat else x.val i w) ∧
  ((∀ (s : State) (q : Squad) (n k : Nat), 6 * n + k < s.chip.benches.length → (s.chip.bench n k).service = some q.uid → s.chip.squad? q.uid = some q →
    (s.chip.bench n k).drains = [] → (∀ y ∈ (s.chip.bench n k).tables, y.running = none) →
    ∃ t, exec (.ownershipService n k) s = .next t ∧ (t.chip.bench n k).service = none ∧ (t.chip.bench n k).accValid = true ∧
      (t.chip.bench n k).accCtx = q.exe.ctx ∧ t.chip.squads = s.chip.squads ∧ t.plat = s.plat ∧
      (∀ j, j ≠ 6 * n + k → t.chip.benches.getD j {} = s.chip.benches.getD j {}) ∧
      ((s.chip.bench n k).accValid = false → s.chip.hasSaved q.exe.ctx n k = false →
        (t.chip.bench n k).modes = (s.chip.bench n k).modes ∧ (t.chip.bench n k).vals = (s.chip.bench n k).vals ∧
          ∀ l, t.chip.byteAt l = s.chip.byteAt l)) ∧
  ∀ (c : Chip) (n k : Nat) (y : Ctx), 6 * n + k < c.benches.length → (c.bench n k).accValid = true → c.ctx? (c.bench n k).accCtx = some y →
    (c.bench n k).modes.length = 16 →
    let x := c.bench n k;
    let b := ((c.spillBench n k).reloadBench x.accCtx n k).bench n k;
    (∀ i, i < 16 → ((c.spillBench n k).bench n k).modes.getD i .free = .free) ∧ ((c.spillBench n k).bench n k).accValid = false ∧
      (c.spillBench n k).hasSaved x.accCtx n k = true ∧ ((c.spillBench n k).reloadBench x.accCtx n k).hasSaved x.accCtx n k = false ∧
      ∀ i, i < 16 → b.modes.getD i .free = x.modes.getD i .free ∧
        (x.modes.getD i .free ≠ .free → ∀ w, w < 1024 → b.val i w = x.val i w) ∧ (x.modes.getD i .free = .hash → ∀ w, w < 1024 → b.key i w = x.key i w))

/-- `mma` and `mmas` (R256 to R261): where every lane of the set S takes part and the operands pass the checks of R258, each element (i, j) of the bank
with i in R and j in C takes its product added to it, every other word of the bank stays; an instruction that names an armed ensign issues it.
`mldt` (R255): one request loads column l of the rows into 32 registers of lane l; a lane whose column leaves its window is switched off.
`accst` (R263): the pennant rises and one request of the whole squad goes out with the bank's 32 rows in the format of the output code, rounded as the
mode says, row i at the address plus i times the pitch, each to be stored element by element (R45); the bank keeps its values, and no byte changes at
the issue. That `mma` reads its operands and adds its product in the event of its issue, with its pennant as before, is the model's reading (log 30). -/
def Obligations.MatrixInstructions : Prop :=
  ((∀ (s : State) (q : Squad) (f : FormX) (m : MmaMod) (sp : Bool) (S : LaneMask) (b fw : Nat) (va vb : Option (List (List Loc))),
    s.ready q [1] (regsMma f m sp) = true → passes (q.exe.chkMma f m sp) = true → mayTouch s.chip q →
    6 * q.place.core + q.place.bench < s.chip.benches.length → (s.chip.benchOf q).modes.length = 16 → b < 16 →
    (if m.ensMode then (q.ensigns.getD m.ens.toNat {}).armed = true ∧ S = (q.ensigns.getD m.ens.toNat {}).set else S = q.exe.active) → S ≠ 0 →
    (∀ l, l < 32 → S.getLsbD l = true → q.exe.guard f.g l = true) → s.chip.mmaChecks q f m sp S = .ok (b, fw, va, vb) →
    q.pennantFull (q.exe.pennant f.ps) = false → s.chip.present ((va.getD []) ++ (vb.getD [])).flatten = true →
    (((va.getD []) ++ (vb.getD [])).flatten ≠ [] → s.chip.acquiring q S = false) → s.chip.openAt q S ((va.getD []) ++ (vb.getD [])).flatten = false →
    (fmtScaled fw = true → s.chip.blocked q.uid (blockRegs (f.s.toNat + 1) (if sp then 4 else 2)) = false) →
    (∀ v ∈ va.getD [] ++ vb.getD [], s.chip.raceAt q.place v = none) →
    let x := s.chip.benchOf q;
    ∃ t p, exec (if sp then .mmas f m else .mma f m) s = .next t ∧ t.chip.squad? q.uid = some p ∧ p.exe.regs = q.exe.regs ∧
      p.exe.flags = q.exe.flags ∧ p.exe.uni = q.exe.uni ∧ p.pennants = q.pennants ∧ p.handles = q.handles ∧
      (m.ensMode = true → p.ensigns.getD m.ens.toNat {} = {}) ∧
      bankAfter s t q (fun i => x.modes.getD i .free) fun k w =>
        if k = b ∧ (m.aScr = false ∨ fmtScaled fw = true ∨ sp = true → S.getLsbD (w / 32) = true) ∧ (m.bScr = false → S.getLsbD (w % 32) = true)
        then matElem fw (q.exe.scalesOf f fw sp (w / 32)) (q.exe.rowA s.chip q.region f fw sp va (w / 32))
          (q.exe.colB s.chip q.region f fw sp vb (w % 32)) (x.val k w) % 2 ^ 32
        else x.val k w) ∧
  ∀ (s : State) (q : Squad) (f : FormX) (es : BitVec 2), s.ready q [1] (uniRegs false f.p ++ uniRegs false f.q ++ blockRegs f.s.toNat 32) = true →
    passes (q.exe.chkUni 0 false f.p) = true → passes (q.exe.chkUni 1 false f.q) = true → f.s.toNat < 0xF0 → f.s.toNat + 32 ≤ q.exe.declared →
    q.exe.acting f.g ≠ 0 → s.chip.acquiring q (q.exe.acting f.g) = false → q.pennantFull (q.exe.pennant f.ps) = false →
    let z := 2 ^ es.toNat;
    let a := q.exe.uniVal false f.p;
    let p := q.exe.uniVal false f.q;
    let col := s.chip.mldtLane q a p z;
    let live := (List.range 32).filter fun l => q.exe.takesPart f.g l && (col l).isSome;
    (q.exe.mslots.getD (a / 2 ^ 30 % 4) none).isSome = true → a % z = 0 → p % z = 0 →
    (∀ l rs, l ∈ live → col l = some rs → ∀ r ∈ rs, s.chip.raceAt q.place r.2 = none) →
    ∃ t d rs, exec (.mldt f es) s = .next t ∧ t.chip.squad? q.uid = some d ∧ t.chip.requests = s.chip.requests ++ rs ∧ (live = [] → rs = []) ∧
      (live ≠ [] → ∃ r, rs = [r] ∧ r.agent = .squad q.uid ∧ r.kind = .load ∧ r.dst = some f.s ∧ r.dstRegs = blockRegs f.s.toNat 32 ∧
        r.pennant = q.exe.pennant f.ps ∧ r.accs.map (fun x => (x.lane, x.locs, x.status)) =
          live.map fun l => (l, ((col l).getD []).flatMap (·.2), .waiting)) ∧
      (∀ l, l < 32 → (d.scfMask.getLsbD l = true ↔ q.scfMask.getLsbD l = true ∨ (q.exe.takesPart f.g l = true ∧ col l = none))) ∧
      d.exe.regs = q.exe.regs ∧ d.exe.flags = q.exe.flags ∧ d.exe.uni = q.exe.uni ∧ t.plat = s.plat ∧
      (∀ u, u ≠ q.uid → t.chip.squad? u = s.chip.squad? u) ∧ ∀ l, t.chip.byteAt l = s.chip.byteAt l) ∧
  (∀ (s : State) (q : Squad) (f : FormX) (scr : Bool) (fmt scope : BitVec 3) (order : BitVec 2) (b : Nat) (rows : List (List Loc)),
    s.ready q [1] (uniRegs (!scr) f.p ++ uniRegs false f.q ++ uniRegs false f.s) = true → passes (q.exe.chkAccst f scr fmt scope order) = true →
    q.exe.acting f.g ≠ 0 → mayTouch s.chip q → 6 * q.place.core + q.place.bench < s.chip.benches.length → (s.chip.benchOf q).modes.length = 16 →
    q.bank f.handle.toNat = some b → b < 16 → (s.chip.benchOf q).modes.getD b .free = .dense →
    let w := (accFmt fmt).bytes;
    let a := q.exe.uniVal (!scr) f.p;
    let p := q.exe.uniVal false f.q;
    let x := s.chip.benchOf q;
    let rnd := rndOf (q.exe.uniVal false f.s / 2 ^ 12 % 4);
    let base := s.chip.commitRegion q.uid;
    a % w = 0 → p % w = 0 → (scr = false → a < 2 ^ 56) → s.chip.accRows q scr a p w = .ok rows → (scr = true → ∀ ls ∈ rows, ∀ j, j < 32 → s.chip.raceAt q.place ((ls.drop (j * w)).take w) = none) →
    s.chip.acquiring q (BitVec.allOnes 32) = false → q.pennantFull (q.exe.pennant f.ps) = false → s.chip.regionHeld q = false →
    s.chip.openAt q (BitVec.allOnes 32) rows.flatten = false →
    (order.toNat / 2 % 2 = 1 → s.chip.earlier (.squad q.uid) s.chip.nextId (BitVec.allOnes 32) = false) →
    ∃ t d r y, exec (.accst f scr fmt scope order) s = .next t ∧ t.chip.squad? q.uid = some d ∧ d.exe.regs = q.exe.regs ∧ d.exe.flags = q.exe.flags ∧
      d.exe.uni = q.exe.uni ∧ d.handles = q.handles ∧ d.region = none ∧ t.plat = s.plat ∧
      (t.chip.benchOf q).vals = x.vals ∧ (t.chip.benchOf q).modes = x.modes ∧ (∀ l, t.chip.byteAt l = s.chip.byteAt l) ∧
      base.squad? q.uid = some y ∧ d.pennants = (y.raise (q.exe.pennant f.ps)).pennants ∧
      t.chip.requests = s.chip.requests ++ [r] ∧ r.agent = .squad q.uid ∧ r.kind = .store ∧ r.squadWide = true ∧ r.order = order.toNat ∧
      r.scope = (if scr then min scope.toNat 1 else scope.toNat) ∧ r.pennant = q.exe.pennant f.ps ∧ r.accs.length = 32 ∧ rows.length = 32 ∧
      ∀ (i : Nat) (ls : List Loc) (o : Access), rows[i]? = some ls → r.accs[i]? = some o → o.locs = ls ∧ o.elem = w ∧ o.status = .waiting ∧
        o.data = (List.range 32).flatMap fun j =>
          leBytes w (if fmt = 0 then x.val b (32 * i + j) else ROUND (val32 (x.val b (32 * i + j))) (accFmt fmt) rnd))

/-! ### Joins -/

/-- What a step of contributions needs (R273): the spills fit the spoil region and translate, each to locations of its own; where there are any, no
acquire of the squad is out (R47), none of its accesses to those locations is open (R52), and none of their rows is being copied (R381). -/
def joinFits (s : State) (q : Squad) (t : Table) (ks : List Nat) (limit : Nat) (xs : List (Nat × List Nat)) (ls : List (List Loc)) : Prop :=
  let sp := (xs.foldl (probeInto ks limit) (s.chip.benchOf q, t, [])).2.2
  t.count + sp.length ≤ t.capacity ∧ ls.length = sp.length ∧ ls.flatten.Nodup ∧
    (sp ≠ [] → s.chip.acquiring q (BitVec.allOnes 32) = false ∧ s.chip.openAt q (BitVec.allOnes 32) ls.flatten = false ∧ s.chip.inCopy ls.flatten = false) ∧
    ∀ i, i < sp.length → s.chip.xlFor q.uid q.place.core q.exe.ctx { w := true } (t.base + (t.count + i) * t.recBytes) t.recBytes = .ok (ls.getD i []) ∧
      (ls.getD i []).length = t.recBytes

/-- What a step of contributions leaves (R271 to R273): the banks and the occupied count as PROBE gives them, each spill as a record of the spoil region
in order, its count, and no other byte changed. -/
def joinDone (s u : State) (q : Squad) (t : Table) (ks : List Nat) (limit : Nat) (xs : List (Nat × List Nat)) (ls : List (List Loc)) : Prop :=
  let st := xs.foldl (probeInto ks limit) (s.chip.benchOf q, t, [])
  (∀ i w, i < 16 → w < 1024 → (u.chip.benchOf q).val i w = st.1.val i w ∧ (u.chip.benchOf q).key i w = st.1.key i w) ∧
    (∃ y, (u.chip.benchOf q).tables.find? (fun y => y.first == t.first) = some y ∧ y.count = t.count + st.2.2.length ∧ y.occupied = st.2.1.occupied ∧
      y.draining = t.draining ∧ y.base = t.base ∧ y.capacity = t.capacity) ∧
    (∀ l, l ∉ ls.flatten → u.chip.byteAt l = s.chip.byteAt l) ∧
    (∀ l v, (l, v) ∈ ls.flatten.zip (st.2.2.flatMap fun e => t.record e.1 e.2) → takesStores s.chip l → u.chip.byteAt l = v) ∧ u.plat = s.plat

/-- The join instructions on a table of the squad (R276 to R279, R284, R287): `jopen` makes an empty table of dense banks; `jins` inserts the keys and
values of the lanes that take part, in ascending order; `jstat` reads an item; `jdrain` numbers a drain and marks the table Draining; `jclose`
discards the table, its banks dense and zero. -/
def Obligations.JoinInstructions : Prop :=
  ∀ (s : State) (q : Squad) (f : FormX), q.exe.acting f.g ≠ 0 → mayTouch s.chip q → 6 * q.place.core + q.place.bench < s.chip.benches.length →
    (s.chip.benchOf q).modes.length = 16 → (∀ i b, q.bank i = some b → b < 16) →
    let x := s.chip.benchOf q;
    let h := f.handle.toNat;
    let mode := fun i => x.modes.getD i .free;
    (∀ (block : Bool) (n : BitVec 3) (ks : List Nat), s.ready q [2] (uniRegs true f.p ++ uniRegs false f.q) = true →
      passes (q.exe.chkUni 0 true f.p) = true → passes (q.exe.chkUni 1 false f.q) = true → h + 2 ^ n.toNat ≤ 16 → q.banks h (2 ^ n.toNat) = some ks →
      (∀ k ∈ ks, mode k = .dense) → q.exe.uniVal true f.p < 2 ^ 56 → q.exe.uniVal true f.p % (if block then 64 else 8) = 0 →
      ∃ t p, exec (.jopen f block n) s = .next t ∧ t.chip.squad? q.uid = some p ∧ p.exe.regs = q.exe.regs ∧ p.handles = q.handles ∧
        (t.chip.benchOf q).tables = x.tables ++
          [{ first := ks.headD 0, block, n := n.toNat, base := q.exe.uniVal true f.p, capacity := q.exe.uniVal false f.q }] ∧
        (∀ i ∈ ks, ∀ w, w < 1024 → (t.chip.benchOf q).key i w = 0xFFFFFFFF) ∧
        bankAfter s t q (fun i => if i ∈ ks then .hash else mode i) fun i w => if i ∈ ks then 0 else x.val i w) ∧
    ∀ tb, s.chip.tableAt q f.handle = some tb →
      (∀ item : BitVec 2, s.ready q [2] (uniRegs false f.p) = true → passes (q.exe.chkUniDst 0 false f.p) = true →
        ∃ t p, exec (.jstat f item) s = .next t ∧ t.chip.squad? q.uid = some p ∧ (t.chip.benchOf q).tables = x.tables ∧ bankAfter s t q mode x.val ∧
          uniWritten false f.p (match item.toNat with
            | 0 => (if tb.draining then 2 else 1) + (if tb.block then 4 else 0) + 8 * tb.n + (if tb.stopped then 64 else 0)
            | 1 => tb.occupied
            | 2 => tb.count
            | _ => tb.drained) q.exe p.exe) ∧
      (tb.draining = false →
        (∀ (v : VFmt) (ls : List (List Loc)), s.ready q [2] (codeRegs false f.p ++ codeRegs false f.q) = true → tb.block = false →
          passes (q.exe.chkSrc 0 (.gen false) f.p) = true → passes (q.exe.chkSrc 1 (.gen false) f.q) = true →
          let xs := ((List.range 32).filter fun l => q.exe.takesPart f.g l).map fun l => (q.exe.src false f.p l, [widen v (q.exe.src false f.q l)]);
          let limit := ((s.chip.ctx? q.exe.ctx).map (·.probelimit)).getD 16;
          joinFits s q tb (q.tableBanks f.handle tb) limit xs ls →
          ∃ t p, exec (.jins f v) s = .next t ∧ t.chip.squad? q.uid = some p ∧ p.exe.regs = q.exe.regs ∧ p.exe.flags = q.exe.flags ∧
            joinDone s t q tb (q.tableBanks f.handle tb) limit xs ls) ∧
        (s.ready q [2] [] = true →
          ∃ t p, exec (.jclose f) s = .next t ∧ t.chip.squad? q.uid = some p ∧ p.exe.regs = q.exe.regs ∧ p.handles = q.handles ∧
            (t.chip.benchOf q).tables = x.tables.filter (fun y => y.first != tb.first) ∧
            (∀ k, (t.chip.queue q.place.core k).entries = if tb.stopped = true ∧ q.place.core < s.chip.cores.length
              then (s.chip.queue q.place.core k).entries.filter (fun e => e.join != some (q.uid, h)) else (s.chip.queue q.place.core k).entries) ∧
            bankAfter s t q (fun i => if i ∈ q.tableBanks f.handle tb then .dense else mode i) fun i w =>
              if i ∈ q.tableBanks f.handle tb then 0 else x.val i w) ∧
        (s.ready q [2] (uniRegs true f.p ++ uniRegs false f.q) = true → passes (q.exe.chkUni 0 true f.p) = true → passes (q.exe.chkUni 1 false f.q) = true →
          f.s.toNat ≤ 63 → s.chip.slotHeld q f.s.toNat = true → q.exe.uniVal true f.p < 2 ^ 56 → tb.stopped = false →
          q.exe.uniVal true f.p % (if tb.block then 64 else 8) = 0 → mayIssue s q f.g f.ps →
          ∃ t d p y, exec (.jdrain f) s = .next t ∧ t.chip.squad? q.uid = some p ∧ p.exe.regs = q.exe.regs ∧
            (t.chip.benchOf q).drains = x.drains ++ [d] ∧ d.first = tb.first ∧ d.banks = q.tableBanks f.handle tb ∧ d.out = q.exe.uniVal true f.p ∧
            d.capacity = q.exe.uniVal false f.q ∧ d.slot = f.s.toNat ∧ d.num = ((s.chip.core q.place.core).slots.getD f.s.toNat {}).issue + 1 ∧
            numbered s.chip t.chip q.place.core f.s.toNat ∧ (t.chip.benchOf q).tables.find? (fun z => z.first == tb.first) = some y ∧
            y = { tb with draining := true } ∧ t.plat = s.plat ∧ ∀ l, t.chip.byteAt l = (s.chip.commitRegion q.uid).byteAt l))

/-- `jrun` (R280 to R282), which goes on turn by turn: a stop request ends it with flag 0 and the table stopped; two streams at their end finish it with
flag 1; a head group whose key the other stream has passed is consumed; two groups of one key contribute every pair of their records, A's in order and for
each of them B's in order, under the key x.coord × 2^16 + y.coord: in scalar mode the rounded product of the two payloads, widened exactly, in block mode
the tile product of the two tiles from +0; and both groups are consumed. In all but the first two cases the squad stays at the instruction, in a local
wait: that one execution is one turn of the loop of R281 is the model's reading (log 55). One that starts reads a queue from the offset that the
table records where an earlier `jrun` left its head entry in that queue reserved, else from its first record. -/
def Obligations.JoinRuns : Prop :=
  ∀ (s : State) (q : Squad) (f : FormX) (v : VFmt) (tb : Table) (limit : Nat), s.ready q [2] (uniRegs true f.t) = true →
    passes (q.exe.chkJrun f) = true → s.chip.tableAt q f.handle = some tb → q.exe.flags.length = 7 → f.p ≠ f.q →
    6 * q.place.core + q.place.bench < s.chip.benches.length → q.place.core < s.chip.cores.length → (s.chip.core q.place.core).queues.length = 16 →
    (tb.running = some limit ∨ (tb.running = none ∧ q.exe.acting f.g ≠ 0 ∧ mayTouch s.chip q ∧ tb.draining = false ∧
      passes (s.chip.jrunCheck q f v tb) = true ∧ limit = ((s.chip.ctx? q.exe.ctx).map (·.probelimit)).getD 16)) →
    let n := q.place.core;
    let who := (q.uid, f.handle.toNat);
    let qa := (s.chip.queue n f.p.toNat).reserveHead who;
    let qb := (s.chip.queue n f.q.toNat).reserveHead who;
    let off := fun (i recorded o : Nat) =>
      if tb.running = none ∧ ¬ (i = recorded ∧ ∃ x ∈ (s.chip.queue n i).entries, x.join = some who) then 0 else o;
    let offA := off f.p.toNat tb.queueA tb.offA;
    let offB := off f.q.toNat tb.queueB tb.offB;
    let ra := qa.recs who offA;
    let rb := qb.recs who offB;
    let ga := headGroup ra;
    let gb := headGroup rb;
    let key := fun (g : List StreamRec) => (g.head?.map (·.key)).getD 0;
    let table := fun (t : State) => (t.chip.benchOf q).tables.find? fun y => y.first == tb.first;
    let ended := fun (val : Bool) => ∃ t p y, exec (.jrun f v) s = .next t ∧ t.chip.squad? q.uid = some p ∧
      flagEffect f.g f.s.toNat (fun _ => val) q.exe p.exe ∧ table t = some y ∧ y.stopped = !val ∧ y.running = none ∧
      (val = false → y.queueA = f.p.toNat ∧ y.queueB = f.q.toNat) ∧ y.offA = offA ∧ y.offB = offB ∧ t.plat = s.plat ∧
      ∀ l, t.chip.byteAt l = s.chip.byteAt l;
    let ate := fun (t : State) (a b : Bool) => exec (.jrun f v) s = .next t ∧
      (∃ p, t.chip.squad? q.uid = some p ∧ p.exe = q.exe ∧ p.stall = some .localWait) ∧
      t.chip.queue n f.p.toNat = (if a then (qa.consume who offA ga.length).1 else qa) ∧
      t.chip.queue n f.q.toNat = (if b then (qb.consume who offB gb.length).1 else qb) ∧
      ∃ y, table t = some y ∧ y.running = some limit ∧ y.offA = (if a then (qa.consume who offA ga.length).2 else offA) ∧
        y.offB = (if b then (qb.consume who offB gb.length).2 else offB);
    (s.chip.stopRequest q = true → ended false) ∧
    (s.chip.stopRequest q = false → (ga.length < ra.length ∨ qa.noMore who = true) → (gb.length < rb.length ∨ qb.noMore who = true) →
      (ra = [] → rb = [] → ended true) ∧
      (ra ≠ [] → rb = [] ∨ key ga < key gb → ∃ t, ate t true false ∧ t.plat = s.plat ∧ ∀ l, t.chip.byteAt l = s.chip.byteAt l) ∧
      (rb ≠ [] → ra = [] ∨ key gb < key ga → ∃ t, ate t false true ∧ t.plat = s.plat ∧ ∀ l, t.chip.byteAt l = s.chip.byteAt l) ∧
      ∀ (va vb : StreamRec → StreamRec → List (List Loc)) (xs : List (Nat × List Nat)) (ls : List (List Loc)), ra ≠ [] → rb ≠ [] → key ga = key gb →
        ga.length ≤ 64 → gb.length ≤ 64 →
        let pairs := ga.flatMap fun x => gb.map fun y => (x, y);
        let at_ := fun (p : StreamRec × StreamRec) => p.1.coord * 2 ^ 16 + p.2.coord;
        let reads := pairs.flatMap fun p => (va p.1 p.2 ++ vb p.1 p.2).flatten;
        let fw := (q.exe.uniReg f.t.toNat).toNat;
        let elems := fun (code : Nat) (v : List Loc) => vecElems (matFmt code) (s.chip.readOver q.region v);
        (tb.block = false → xs = pairs.map fun p => (at_ p, [mul32 (widen v p.1.payload) (widen v p.2.payload)])) →
        (tb.block = true → (∀ p ∈ pairs, s.chip.tileVectors q f p.1 p.2 = .ok (va p.1 p.2, vb p.1 p.2)) ∧ s.chip.present reads = true ∧
          s.chip.acquiring q (q.exe.acting f.g) = false ∧ s.chip.openAt q (q.exe.acting f.g) reads = false ∧
          (∀ p ∈ pairs, ∀ v ∈ va p.1 p.2 ++ vb p.1 p.2, s.chip.raceAt q.place v = none) ∧
          xs = pairs.map fun p => (at_ p, (va p.1 p.2).flatMap fun a => (vb p.1 p.2).map fun b =>
            matElem fw [] (elems (bits fw 3 0) a) (elems (bits fw 7 4) b) 0)) →
        joinFits s q tb (q.tableBanks f.handle tb) limit xs ls →
        ∃ t, ate t true true ∧ joinDone s t q tb (q.tableBanks f.handle tb) limit xs ls)

/-- PROBE (R271) of a key that is not the empty mark: at the first of the slots HASH(key), HASH(key) + 1, … up to the limit that holds the key or is
empty, the value is added, or the slot takes key and value; with no such slot the contribution spills. The empty mark always spills.
DRAIN_COMPLETION (R284, R285) of a drain whose spoil region and output translate, none of their rows being copied (R381): one record for each key of
the table and its spills, in strictly ascending order, goes out up to the capacity; the table is empty and Open again; the command completes, with the
sticky fault bit exactly where the capacity was too small. -/
def Obligations.ProbesAndDrains : Prop :=
  (∀ (b : Bench) (t : Table) (ks : List Nat) (limit : Nat) (sp : List (Nat × List Nat)) (key v : Nat), t.block = false →
    let slot := fun j => (HASH key (10 + t.n) + j) % (1024 * 2 ^ t.n);
    let bank := fun j => ks.getD (slot j / 1024) 0;
    let word := fun j => slot j % 1024;
    let steps := min limit (1024 * 2 ^ t.n);
    probeInto ks limit (b, t, sp) (0xFFFFFFFF, [v]) = (b, t, sp ++ [(0xFFFFFFFF, [v])]) ∧
    (key ≠ 0xFFFFFFFF →
      (∀ j, j < steps → (∀ i, i < j → b.key (bank i) (word i) ≠ key ∧ b.key (bank i) (word i) ≠ 0xFFFFFFFF) →
        (b.key (bank j) (word j) = key →
          probeInto ks limit (b, t, sp) (key, [v]) = (b.setVal (bank j) (word j) (add32 (b.val (bank j) (word j)) v), t, sp)) ∧
        (b.key (bank j) (word j) = 0xFFFFFFFF →
          probeInto ks limit (b, t, sp) (key, [v]) =
            ((b.setVal (bank j) (word j) v).setKey (bank j) (word j) key, { t with occupied := t.occupied + 1 }, sp))) ∧
      ((∀ i, i < steps → b.key (bank i) (word i) ≠ key ∧ b.key (bank i) (word i) ≠ 0xFFFFFFFF) →
        probeInto ks limit (b, t, sp) (key, [v]) = (b, t, sp ++ [(key, [v])])))) ∧
  (∀ (s : State) (n k : Nat) (d : Drain) (tb : Table) (sp : List (Nat × List Nat)) (c : Chip) (w : Nat), s.chip.drain? d.id = some (n, k, d) →
    (s.chip.bench n k).tables.find? (fun y => y.first == d.first) = some tb → s.chip.spoils d.id n d.ctx tb = .ok sp → (∀ i ∈ d.banks, i < 16) →
    6 * n + k < s.chip.benches.length → (s.chip.bench n k).modes.length = 16 →
    let held := (s.chip.bench n k).held tb d.banks;
    let all := drainAll held sp;
    let at_ := fun (need : Need) (base m : Nat) =>
      (List.range m).flatMap fun r => ((s.chip.xl n d.ctx need (base + r * tb.recBytes) tb.recBytes).toOption).getD [];
    s.chip.drainWrite d.id n d.ctx tb d.out 0 (all.take d.capacity) = (c, w, none) →
    s.chip.inCopy (at_ { r := true } tb.base tb.count ++ at_ { w := true } d.out (min d.capacity all.length)) = false →
    (all.map (·.1)).Pairwise (fun a b => a < b) ∧ (∀ key, key ∈ all.map (·.1) ↔ key ∈ held.map (·.1) ∨ key ∈ sp.map (·.1)) ∧
      w = min d.capacity all.length ∧
      ∃ t y, exec (.drainCompletion d.id) s = .next t ∧ (t.chip.bench n k).tables.find? (fun y => y.first == d.first) = some y ∧
        y.drained = all.length ∧ y.occupied = 0 ∧ y.count = 0 ∧ y.draining = false ∧ y.stopped = false ∧
        (∀ i ∈ d.banks, (t.chip.bench n k).modes.getD i .free = .hash ∧
          ∀ x, x < 1024 → (t.chip.bench n k).val i x = 0 ∧ (t.chip.bench n k).key i x = 0xFFFFFFFF) ∧
        (t.chip.bench n k).drains = (s.chip.bench n k).drains.filter (fun x => x.id != d.id) ∧
        (d.slot < (s.chip.core n).slots.length → (t.chip.core n).slots.getD d.slot {} =
          ((s.chip.core n).slots.getD d.slot {}).finish d.num (decide (d.capacity < all.length))) ∧
        t.chip.squads = s.chip.squads ∧ t.plat = s.plat ∧ (all.length ≤ d.capacity → ∀ l, t.chip.byteAt l = c.byteAt l))

/-! ### The fabric -/

/-- What the packet of a lane's aperture load or atomic carries: opcode, operation, Bytes and payload (R304, R315, R317); the compare-and-swap's are the
model's choice (log 37). -/
def peerPart (m : MemOp) (e : Exe) (l : Nat) : Nat × Nat × Nat × List Byte :=
  match m.kind with
  | .load => (0, 0, m.size, [])
  | .store => (1, 0, 0, [])
  | .atom op _ => (2, atomFab op, m.size, m.dataOf e l)
  | .cas _ => (2, fabCas, 2 * m.size, m.cmpOf e l ++ m.dataOf e l)

/-- A load, store or atomic of R182 whose lanes all have aperture addresses that translate and that their peers can perform issues (R186, R312, R315,
R316): one request goes out with an access to its peer for each lane that takes part. A load or an atomic queues one unordered packet for each lane, in
ascending order; one that returns a value holds the squad until its responses. A store's lanes are merged into the write-combining buffer in ascending
order; that it waits while an earlier load or atomic of a lane to the same bytes is open is the model's reading of R51 (log 34). -/
def apertureIssues (s : State) (q : Squad) : Prop :=
  ∀ (i : Instr) (m : MemOp) (dest : Nat → FabAddr), memOpOf i = some m → m.space = .glob → s.ready q [0] m.uses = true → passes (m.check q.exe) = true →
    q.exe.acting m.g ≠ 0 → s.chip.acquiring q (q.exe.acting m.g) = false → q.pennantFull (q.exe.pennant m.ps) = false →
    (m.tryFlag.isSome = true → s.chip.escortRoom q 1 m.escortSet.length = true) → q.exe.flags.length = 7 → s.chip.committing q.uid = false →
    (m.kind ≠ .load → s.chip.regionHeld q = false) → (2 ≤ m.order → s.chip.hasWc q = false) →
    (m.order ≠ 0 → s.chip.earlier (.squad q.uid) s.chip.nextId (q.exe.acting m.g) = false) →
    (∀ l, q.exe.takesPart m.g l = true →
      s.chip.lane q m l = .peer (dest l) ∧ s.chip.unsupported q.exe.ctx m.kind m.size (s.chip.laneVa q m l) (.peer (dest l)) = false) →
    (m.kind = .store → ∀ l, q.exe.takesPart m.g l = true → ∀ r ∈ s.chip.requests, r.agent = .squad q.uid → r.kind ≠ .store →
      r.peerOpen (dest l) m.size (fun k => k == l) = false) →
    let base := if m.kind = .load then s.chip else s.chip.commitRegion q.uid;
    let lanes := (List.range 32).filter fun l => q.exe.takesPart m.g l;
    ∃ t r p x, exec i s = .next t ∧ t.chip.requests = s.chip.requests ++ [r] ∧ t.chip.squad? q.uid = some p ∧ base.squad? q.uid = some x ∧
      (r.id = s.chip.nextId ∧ r.agent = .squad q.uid ∧ r.core = q.place.core ∧ r.ctx = q.exe.ctx ∧ r.kind = m.kind ∧ r.size = m.size ∧
        r.order = m.order ∧ r.scope = m.scope ∧ r.ty = m.ty ∧ r.dst = (if m.ret then some m.data else none) ∧ r.pennant = q.exe.pennant m.ps ∧
        r.escorted = m.escorted ∧ r.escort = m.escortSet.map fun n => (n, (List.range 32).map fun l => q.exe.reg n l)) ∧
      r.accs.map (fun a => (a.lane, a.va, a.fab, a.status)) = lanes.map (fun l => (l, s.chip.laneVa q m l, some (dest l), .waiting)) ∧
      (m.kind ≠ .store → ∃ os, t.chip.fab.out = s.chip.fab.out ++ os ∧
        os.map (fun o => (o.owner, o.pkt.channel, o.pkt.ordered, o.sent)) = lanes.map (fun l => (.lane r.id l, 0, false, none)) ∧
        os.map (fun o => (o.pkt.dest, o.pkt.index, o.pkt.key, o.pkt.offset)) =
          lanes.map (fun l => (BitVec.ofNat 10 (dest l).node, BitVec.ofNat 8 (dest l).index, BitVec.ofNat 16 (dest l).key, BitVec.ofNat 40 (dest l).off)) ∧
        os.map (fun o => (o.pkt.opcode, o.pkt.operation, o.pkt.bytes, o.pkt.payload)) = lanes.map fun l =>
          let y := peerPart m q.exe l;
          (BitVec.ofNat 4 y.1, BitVec.ofNat 4 y.2.1, BitVec.ofNat 11 y.2.2.1, y.2.2.2)) ∧
      (m.kind = .store → ∃ d : Chip, d.requests = t.chip.requests ∧ d.fab.out = s.chip.fab.out ∧ d.cores.length = s.chip.cores.length ∧
        (d.core q.place.core).wc = (s.chip.core q.place.core).wc ∧ s.chip.nextId ≤ d.nextId ∧
        let u := lanes.foldl (fun c l => c.wcStore q.place.core q.exe.ctx q.uid r.id (s.chip.laneVa q m l) (dest l) (m.dataOf q.exe l)) d;
        (t.chip.core q.place.core).wc = (u.core q.place.core).wc ∧ t.chip.fab.out = u.fab.out) ∧
      (∀ n l, l < 32 → n ∉ m.escortSet → p.exe.reg n l = q.exe.reg n l) ∧ p.exe.uni = q.exe.uni ∧
      (∀ k l, l < 32 → p.exe.flag k l = if (m.tryFlag.map (·.toNat)) = some k ∧ k < 7 ∧ q.exe.takesPart m.g l = true then true else q.exe.flag k l) ∧
      p.awaiting = (if m.ret then some r.id else none) ∧ p.pennants = (x.raise (q.exe.pennant m.ps)).pennants ∧
      p.region = (if m.kind = .load then q.region else none) ∧ t.plat = s.plat ∧ (∀ u, u ≠ q.uid → t.chip.squad? u = s.chip.squad? u) ∧
      ∀ l, t.chip.byteAt l = s.chip.byteAt l

/-- Entry x is entry w with a store's bytes merged in from byte p of the line on (R312). -/
def mergedInto (w x : WcEntry) (uid req p : Nat) (bs : List Byte) : Prop :=
  (x.id, x.node, x.index, x.key, x.line, x.va) = (w.id, w.node, w.index, w.key, w.line, w.va) ∧ x.bytes.length = 128 ∧ x.mask.length = 128 ∧
    (∀ i, i < 128 → x.mask.getD i false = if p ≤ i ∧ i < p + bs.length then true else w.mask.getD i false) ∧
    (∀ i, i < 128 → x.bytes.getD i 0 = if p ≤ i ∧ i < p + bs.length then bs.getD (i - p) 0 else w.bytes.getD i 0) ∧
    x.stores = w.stores ++ [(req, p, bs)] ∧ uid ∈ x.squads ∧ ∀ u, u ∈ w.squads → u ∈ x.squads

/-- Entry w drains: one unordered write packet for each run of its valid bytes joins the waiting packets (R312). -/
def drained (w : WcEntry) (old new : List OutPacket) : Prop :=
  ∃ os, new = old ++ os ∧
    (∀ o ∈ os, o.pkt.opcode = 1 ∧ o.pkt.channel = 0 ∧ o.pkt.ordered = false ∧ o.sent = none ∧
      (o.pkt.dest, o.pkt.index, o.pkt.key) = (BitVec.ofNat 10 w.node, BitVec.ofNat 8 w.index, BitVec.ofNat 16 w.key)) ∧
    os.map (fun o => (o.pkt.offset, o.pkt.payload)) = (maskRuns 0 w.mask).map fun r => (BitVec.ofNat 40 (w.line * 128 + r.1), (w.bytes.drop r.1).take r.2)

/-- The write-combining buffer (R312): runs of set bits of a mask are apart and cover exactly the set bits; a store's bytes are merged into the entry of
its node, index, key and line, which drains once all its bytes are valid, or into a new entry, for which the oldest of 64 drains first. -/
def writesCombine : Prop :=
  (∀ mask : List Bool, (∀ i, mask[i]? = some true ↔ ∃ r ∈ maskRuns 0 mask, r.1 ≤ i ∧ i < r.1 + r.2) ∧
    (maskRuns 0 mask).Pairwise (fun a b => a.1 + a.2 < b.1) ∧ ∀ r ∈ maskRuns 0 mask, 0 < r.2) ∧
  ∀ (c : Chip) (n ctx uid req va : Nat) (a : FabAddr) (bs : List Byte), n < c.cores.length → bs ≠ [] → bs.length ≤ 8 → a.off % 128 + bs.length ≤ 128 →
    (∀ w ∈ (c.core n).wc, w.bytes.length = 128 ∧ w.mask.length = 128 ∧ w.id < c.nextId) → ((c.core n).wc.map (·.id)).Nodup →
    let wc := (c.core n).wc;
    let d := c.wcStore n ctx uid req va a bs;
    let mine := fun (w : WcEntry) => w.node == a.node && w.index == a.index && w.key == a.key && w.line == a.off / 128;
    let fresh := fun (x : WcEntry) => mergedInto
      { id := x.id, ctxs := [], node := a.node, index := a.index, key := a.key, line := a.off / 128, va := va / 128 * 128 } x uid req (a.off % 128) bs;
    (∀ w, wc.find? mine = some w → ∃ x, mergedInto w x uid req (a.off % 128) bs ∧
      ((∃ i, i < 128 ∧ x.mask.getD i false = false) → (d.core n).wc = wc.map (fun y => if y.id = w.id then x else y) ∧ d.fab.out = c.fab.out) ∧
      ((∀ i, i < 128 → x.mask.getD i false = true) → (d.core n).wc = wc.filter (fun y => y.id != w.id) ∧ drained x c.fab.out d.fab.out)) ∧
    (wc.find? mine = none → wc.length < 64 → ∃ x, fresh x ∧ (d.core n).wc = wc ++ [x] ∧ d.fab.out = c.fab.out) ∧
    ∀ w ws, wc.find? mine = none → 64 ≤ wc.length → wc = w :: ws → ∃ x, fresh x ∧ (d.core n).wc = ws ++ [x] ∧ drained w c.fab.out d.fab.out

/-- `ld`, `st`, `atom`, `red` and `cas` on aperture addresses issue (R312, R315, R316), stores through the write-combining buffer.
`fatom` and `fcas` (R315 to R317) on aperture addresses that translate: one request goes out with an access for each lane that takes part, and one
packet for each, in ascending lane order, with the operation, the size, the operands and the target of its address; a form with a return holds the
squad at the instruction until its responses.
`fput`, `fget`, `fmcast` and `fred` (R314, R318 to R321): one command for each destination under one number of the slot; a multicast reads its list after
the region's stores; a get's read packets go out at once, and the scratch lines it fills are absent.
`fwin` (R302, R322): an open takes a closed entry, and fails where it is open; a revoke closes an entry with nothing in flight, waits where
something is, and completes at once where it is closed.
`fflush` (R323): with nothing of the squad unanswered the flag tells whether every response since the last was clean.
The model's choice: the operation code of `fcas`, its payload of compare and new value, and its Bytes of twice the width (log 37). -/
def Obligations.FabricCommands : Prop :=
  (∀ (s : State) (q : Squad), apertureIssues s q) ∧ writesCombine ∧
  ∀ (s : State) (q : Squad) (f : FormX), q.exe.acting f.g ≠ 0 →
    let base := s.chip.commitRegion q.uid;
    let n := q.place.core;
    let slot := f.handle.toNat;
    let num := ((s.chip.core n).slots.getD slot {}).issue + 1;
    let lanes := (List.range 32).filter fun l => q.exe.takesPart f.g l;
    let ready := mayIssue s q f.g f.ps ∧ s.chip.hasWc q = false;
    (∀ (i : Instr) (m : MemOp) (ord : Bool) (opn : Nat) (pay : Nat → List Byte),
      ((∃ w64 noRet order op, i = .fatom f ord w64 noRet order op ∧ m = fabMem f order (.atom (fatomOp op w64) (!noRet)) (casTy w64) ∧
          s.ready q [4] (fabRegs f w64 (!noRet) false) = true ∧ passes (m.chkFab f false q.exe) = true ∧ opn = atomFab (fatomOp op w64) ∧
          pay = fun l => leBytes m.size (q.exe.src w64 f.s l)) ∨
        ∃ w64 order, i = .fcas f ord w64 order ∧ m = fabMem f order (.cas w64) (casTy w64) ∧ s.ready q [4] (fabRegs f w64 true true) = true ∧
          passes (m.chkFab f true q.exe) = true ∧ opn = fabCas ∧
          pay = fun l => leBytes m.size (q.exe.src w64 f.s l) ++ leBytes m.size (q.exe.src w64 f.t l)) →
      s.chip.acquiring q (q.exe.acting f.g) = false → q.pennantFull (q.exe.pennant f.ps) = false → s.chip.regionHeld q = false →
      s.chip.hasWc q = false → (m.order ≠ 0 → s.chip.earlier (.squad q.uid) s.chip.nextId (q.exe.acting f.g) = false) →
      ∀ dest : Nat → FabAddr, (∀ l, l ∈ lanes → s.chip.lane q m l = .peer (dest l)) →
      ∃ t r p, exec i s = .next t ∧ t.chip.requests = s.chip.requests ++ [r] ∧ r.id = s.chip.nextId ∧ r.agent = .squad q.uid ∧ r.kind = m.kind ∧
        r.size = m.size ∧ r.order = m.order ∧ r.scope = 4 ∧ r.dst = (if m.ret then some f.p else none) ∧ r.pennant = q.exe.pennant f.ps ∧
        r.accs.map (fun a => (a.lane, a.fab, a.status)) = lanes.map (fun l => (l, some (dest l), .waiting)) ∧
        (∃ os, t.chip.fab.out = s.chip.fab.out ++ os ∧
          os.map (fun o => (o.owner, o.pkt.opcode, o.pkt.operation, o.pkt.channel, o.pkt.ordered)) =
            lanes.map (fun l => (.lane r.id l, 2, BitVec.ofNat 4 opn, 0, ord)) ∧
          os.map (fun o => (o.pkt.dest, o.pkt.index, o.pkt.key, o.pkt.offset, o.pkt.bytes, o.pkt.payload)) =
            lanes.map (fun l => (BitVec.ofNat 10 (dest l).node, BitVec.ofNat 8 (dest l).index, BitVec.ofNat 16 (dest l).key, BitVec.ofNat 40 (dest l).off,
              BitVec.ofNat 11 (pay l).length, pay l))) ∧
        t.chip.squad? q.uid = some p ∧ p.exe.regs = q.exe.regs ∧ p.exe.flags = q.exe.flags ∧ p.exe.uni = q.exe.uni ∧
        (m.ret = true → p.awaiting = some r.id ∧ p.exe = q.exe) ∧ (m.ret = false → p.awaiting = none) ∧ t.plat = s.plat ∧
        ∀ l, t.chip.byteAt l = base.byteAt l) ∧
    (ready → ∀ (ord cnt sig scr : Bool), s.ready q [4] (uniRegs true f.p ++ localRegs scr f.q ++ uniRegs false f.s ++ uniRegs true f.t) = true →
      let len := q.exe.uniVal false f.s;
      let bar := fun (a : Nat) => if cnt || sig then some a else none;
      let shape := fun (k : FabCmd) => (k.kind, k.slot, k.num, k.core, k.ctx, k.len) = (0, slot, num, n, q.exe.ctx, len) ∧
        (k.counted, k.signal, k.ordered, k.scr) = (cnt, sig, ord, scr) ∧ (k.localAt, k.room) = s.chip.localSide q scr f.q ∧ k.loaded = false;
      let kept := fun (t : State) => numbered s.chip t.chip n slot ∧ t.plat = s.plat ∧ ∀ l, t.chip.byteAt l = base.byteAt l;
      (∀ x, passes (s.chip.chkPut q f scr) = true → passes (q.exe.chkPutVals f cnt sig scr) = true →
        s.chip.putSides q 3 (q.exe.uniVal true f.p) len (bar (q.exe.uniVal true f.t)) cnt = .ok x →
        ∃ t k, exec (.fput f ord cnt sig scr) s = .next t ∧ t.chip.fab.cmds = s.chip.fab.cmds ++ [k] ∧ shape k ∧ k.dst = x.1 ∧ k.bar = x.2 ∧
          k.remote = q.exe.uniVal true f.p ∧ kept t) ∧
      ∀ xs ys, passes (s.chip.chkMcast q f scr) = true → passes (q.exe.chkMcastVals f sig scr) = true →
        base.mcastList q (q.exe.uniVal true f.p) (q.exe.uniVal false f.t) = .ok xs → passes (q.exe.chkEntries cnt sig xs) = true →
        (xs.mapM fun x => base.putSides q 0 x.1 len (bar x.2) cnt) = .ok ys →
        ∃ t ks, exec (.fmcast f ord cnt sig scr) s = .next t ∧ t.chip.fab.cmds = s.chip.fab.cmds ++ ks ∧ (∀ k ∈ ks, shape k) ∧
          ks.map (fun k => (k.remote, k.dst, k.bar)) = (xs.zip ys).map (fun z => (z.1.1, z.2.1, z.2.2)) ∧ kept t) ∧
    (ready → ∀ (dScr bScr : Bool) (a : FabAddr), s.ready q [4] (uniRegs true f.p ++ localRegs dScr f.q ++ uniRegs false f.s ++ localRegs bScr f.t) = true →
      passes (s.chip.chkGet q f dScr bScr) = true → passes (q.exe.chkGetVals f dScr bScr) = true → s.chip.homeIn q f bScr = true →
      let len := q.exe.uniVal false f.s;
      let side := s.chip.localSide q dScr f.q;
      s.chip.fabAt q (q.exe.uniVal true f.p) len = .ok a →
      ∃ t k os, exec (.fget f dScr bScr) s = .next t ∧ t.chip.fab.cmds = s.chip.fab.cmds ++ [k] ∧ (k.kind, k.slot, k.num, k.len) = (1, slot, num, len) ∧
        k.dst = a ∧ (k.localAt, k.room) = side ∧ k.home = s.chip.getHome q f bScr ∧ t.chip.fab.out = s.chip.fab.out ++ os ∧
        os.map (fun o => (o.owner, o.pkt.opcode, o.pkt.offset, o.pkt.bytes, o.pkt.payload)) =
          (packetsOf a.off len).map (fun x => (.cmd k.id x.1, 0, BitVec.ofNat 40 x.2.1, BitVec.ofNat 11 x.2.2, [])) ∧
        (∀ l, Sparse.get false (t.chip.core n).absent l =
          if dScr = true ∧ l ∈ linesAt side.1 (min len side.2) then true else Sparse.get false (s.chip.core n).absent l) ∧
        numbered s.chip t.chip n slot ∧ t.plat = s.plat ∧ ∀ l, t.chip.byteAt l = base.byteAt l) ∧
    (ready → ∀ (cnt scr : Bool) (op : FredOp) (g : RedGroup) (b : Option FabAddr),
      s.ready q [4] (uniRegs false f.p ++ localRegs scr f.q ++ uniRegs true f.s ++ uniRegs true f.t) = true → passes (s.chip.chkRed q f scr) = true →
      passes (q.exe.chkRedVals f cnt scr (fredCode op) s.chip.fab.groups) = true →
      (s.chip.fab.groups[q.exe.uniVal false f.p]?).join = some g →
      (if cnt then (s.chip.fabAt q (q.exe.uniVal true f.t) 16).map some else .ok none) = .ok b →
      let count := q.exe.uniVal true f.s % 2 ^ 32;
      ∃ t k, exec (.fred f cnt scr op) s = .next t ∧ t.chip.fab.cmds = s.chip.fab.cmds ++ [k] ∧ (k.kind, k.slot, k.num) = (2, slot, num) ∧
        k.op = fredCode op ∧ k.group = q.exe.uniVal false f.p ∧ k.rank = g.rank ∧ k.round = q.exe.uniVal true f.s / 2 ^ 32 ∧
        k.len = count * redBytes (fredCode op) ∧ k.dst.node = g.root ∧ k.counted = cnt ∧ k.bar = b ∧
        (k.localAt, k.room) = s.chip.localSide q scr f.q ∧ numbered s.chip t.chip n slot ∧ t.plat = s.plat ∧ ∀ l, t.chip.byteAt l = base.byteAt l) ∧
    (ready →
      let i := q.exe.uniVal false f.p;
      let x := s.chip.fab.expo.getD i {};
      let y := fun (failed : Bool) => Slot.finish { (s.chip.core n).slots.getD slot {} with issue := num } num failed;
      let finish := fun (i' : Instr) (e : Expo) (failed : Bool) => ∃ t, exec i' s = .next t ∧ t.chip.fab.expo.getD i {} = e ∧
        (t.chip.core n).slots.getD slot {} = y failed ∧ t.chip.fab.wins = s.chip.fab.wins ∧ t.plat = s.plat ∧ ∀ l, t.chip.byteAt l = base.byteAt l;
      let waits := fun (i' : Instr) (e : Expo) => ∃ t w, exec i' s = .next t ∧ t.chip.fab.expo.getD i {} = e ∧
        t.chip.fab.wins = s.chip.fab.wins ++ [w] ∧ (w.entry, w.slot, w.num) = (i, slot, num) ∧ numbered s.chip t.chip n slot ∧ t.plat = s.plat ∧
        ∀ l, t.chip.byteAt l = base.byteAt l;
      (∀ w ∈ s.chip.fab.wins, w.entry ≠ i) → s.chip.fab.expo.length = 256 →
      (s.ready q [4] (uniRegs false f.p ++ uniRegs true f.q ++ uniRegs false f.s) = true → passes (s.chip.chkWin q f true) = true →
        passes (s.chip.chkWinVals q.exe f true) = true →
        let d := BitVec.ofNat 32 (q.exe.uniVal false f.s);
        (x.state ≠ 1 → x.state ≠ 2 → finish (.fwinOpen f)
          { base := q.exe.uniVal true f.q, key := d.toNat % 2 ^ 16, size := d.toNat / 2 ^ 16 % 64, ctx := q.exe.ctx, state := 1
            read := d.getLsbD 22, write := d.getLsbD 23, atomic := d.getLsbD 24, reduce := d.getLsbD 25, signal := d.getLsbD 26 } false) ∧
        (x.state = 1 → finish (.fwinOpen f) x true) ∧ (x.state = 2 → waits (.fwinOpen f) x)) ∧
      (s.ready q [4] (uniRegs false f.p) = true → passes (s.chip.chkWin q f false) = true → passes (s.chip.chkWinVals q.exe f false) = true →
        (x.state = 0 → finish (.fwinRevoke f) x false) ∧
        (∀ k, x.state = 1 → x.inFlight = 0 → s.chip.ctx? x.ctx = some k → k.closing = none → finish (.fwinRevoke f) { x with state := 0 } false) ∧
        (x.state = 1 → x.inFlight ≠ 0 → waits (.fwinRevoke f) { x with state := 2 }))) ∧
    (s.ready q [4] [] = true → f.p.toNat ≤ 7 → q.exe.flags.length = 7 → s.chip.acquiring q (q.exe.acting f.g) = false → s.chip.regionHeld q = false →
      s.chip.hasWc q = false → s.chip.fabricOpen q.uid = false → s.chip.earlier (.squad q.uid) s.chip.nextId (q.exe.acting f.g) = false →
      ∃ t p, exec (.fflush f) s = .next t ∧ t.chip.squad? q.uid = some p ∧ flagEffect f.g f.p.toNat (fun _ => !q.badResponse) q.exe p.exe ∧
        p.badResponse = false ∧ t.plat = s.plat ∧ ∀ l, t.chip.byteAt l = base.byteAt l)

/-- The packet leaves on a port, onto whose queue its flits go (R297, R310); no other port's queue changes. -/
def leaves (s t : State) (p : Packet) (port : Nat) : Prop :=
  t.chip.fab.sent = { p with port } :: s.chip.fab.sent ∧
    t.chip.fab.ports = modAt s.chip.fab.ports port fun x => { x with queue := x.queue + flits p }

/-- The response of this device to a request packet (R305, R307): to the device itself where the packet was looped back and has not timed out there
meanwhile, else a packet of opcode 5 on channel 3 to its source, on the port of the route entry that the message number selects; where no route leads
to the source nothing is sent. -/
def responded (s t : State) (p : Packet) (own : Option Nat) (cause : Nat) (data : List Byte) : Prop :=
  match own with
  | some id => t.chip.fab.back = s.chip.fab.back ++ (if s.chip.fab.out.any (fun o => o.id == id) then [(id, cause, data)] else []) ∧
    t.chip.fab.sent = s.chip.fab.sent
  | none => t.chip.fab.back = s.chip.fab.back ∧
    let ps := s.chip.fab.routePorts p.src.toNat;
    if s.chip.fab.reaches p.src.toNat = true ∧ (p.src.toNat = s.chip.fab.node ∨ ps ≠ []) then
      ∃ r, leaves s t r (ps.getD (p.message.toNat % ps.length) 0) ∧ r.dest = p.src ∧ r.src = BitVec.ofNat 10 s.chip.fab.node ∧ r.opcode = 5 ∧
        r.channel = 3 ∧ r.ordered = false ∧ r.cause = BitVec.ofNat 4 cause ∧ r.message = p.message ∧ r.offset = p.offset ∧ r.payload = data
    else t.chip.fab.sent = s.chip.fab.sent

/-- The target of the fabric. An arriving request is checked in the order of R301 and answered with the cause of the first failure, or is in flight on its
entry; one from a node without a route entry, or of an opcode above 5, is discarded and counted on its port (R298, R304). A contribution is held under
its ranks, or refused; one that covers held ranks and more is held in their place, and they are refused (R311). An accepted packet whose turn it is is
placed (R301, R306): a write stores its bytes, a read returns those at the location, an atomic writes what its operation gives and returns the old
value, a signal arrives at the object, counted bytes count down; the entry's in-flight count falls and the response goes out; an atomic waits for
another of its cycle at its location that comes before it in the order of R331. A packet for another node goes on with one hop less, on the lowest
port of its entry where it is ordered and on one of them where it is not, or its source is answered with cause 1 (R297, R305). With every rank's
contribution the root writes the result and answers each of them; on the way two neighbours that the tree of R76 pairs go on as one partial sum, which
its contributors wait for (R311). A packet is its header of 32 bytes, each field in its bits, and its payload from byte (offset mod 64) of the first
payload flit (R303, R304).
The model's choices: the span and the wire form of a partial sum, its own response that the device relays to its contributors, a lone contribution
sent on as it is and a wider one held in the place of a narrower (log 42); half of Bytes as the size of a compare-and-swap under code fabCas (log 37). -/
def Obligations.FabricTarget : Prop :=
  (∀ p : Packet, p.port = 0 → p.span = 1 → p.payload.length = (if p.opcode = 0 ∨ p.opcode = 4 then 0 else p.bytes.toNat) →
    let h := ofLe ((packetWire p).take 32);
    packetOfWire (packetWire p) = p ∧ (packetWire p).length = 64 * flits p ∧ (packetWire p).length % 64 = 0 ∧
      (∀ i, i < p.payload.length → (packetWire p)[64 + p.offset.toNat % 64 + i]? = p.payload[i]?) ∧
      bits h 27 0 = p.seq.toNat ∧ bits h 37 28 = p.src.toNat ∧ bits h 47 38 = p.dest.toNat ∧ bits h 57 48 = p.rank.toNat ∧
      bits h 61 58 = p.operation.toNat ∧ bits h 65 62 = p.opcode.toNat ∧ bits h 67 66 = p.channel.toNat ∧ bit h 68 = p.ordered ∧
      bits h 79 69 = p.bytes.toNat ∧ bits h 119 80 = p.offset.toNat ∧ bits h 127 120 = p.index.toNat ∧ bits h 143 128 = p.key.toNat ∧
      bits h 147 144 = 0 ∧ bits h 151 148 = p.cause.toNat ∧ bits h 159 152 = p.hops.toNat ∧ bits h 175 160 = p.message.toNat ∧
      bits h 182 176 = 0 ∧ bit h 183 = p.counted ∧ bits h 191 184 = p.group.toNat ∧ bits h 207 192 = p.barKey.toNat ∧
      bits h 215 208 = p.barIndex.toNat ∧ bits h 255 216 = p.barOffset.toNat) ∧
  (∀ (s : State) (p : Packet), p.dest.toNat = s.chip.fab.node → s.chip.fab.reaches p.src.toNat = true →
    let e := s.chip.fab.expo.getD p.index.toNat {};
    let b := s.chip.fab.expo.getD p.barIndex.toNat {};
    let n := if p.opcode = 2 ∧ p.operation.toNat = fabCas then p.bytes.toNat / 2 else if p.opcode = 0 ∨ p.opcode = 2 then p.bytes.toNat else p.payload.length;
    let right := if p.opcode = 0 then e.read else if p.opcode = 1 then e.write else if p.opcode = 2 then e.atomic else e.signal;
    let cause := if e.state ≠ 1 then 3 else if e.key ≠ p.key.toNat then 2 else if 2 ^ e.size < p.offset.toNat + n then 5
      else if right = false then 4
      else if p.counted = true ∧ (b.state ≠ 1 ∨ b.key ≠ p.barKey.toNat ∨ 2 ^ b.size < p.barOffset.toNat + 16 ∨ b.signal = false ∨ p.barOffset.toNat % 16 ≠ 0)
      then 8 else 0;
    (p.opcode = 0 ∨ p.opcode = 1 ∨ p.opcode = 2 ∨ p.opcode = 4 → ∃ t, exec (.fabricRequestArrival p) s = .next t ∧ t.plat = s.plat ∧
      (∀ l, t.chip.byteAt l = s.chip.byteAt l) ∧ (cause ≠ 0 → responded s t p none cause [] ∧ t.chip.fab.expo = s.chip.fab.expo) ∧
      (cause = 0 → t.chip.fab.sent = s.chip.fab.sent ∧
        (∃ x, t.chip.fab.inn = s.chip.fab.inn ++ [x] ∧ x.pkt = p ∧ x.expo = p.index.toNat ∧ x.refused = false ∧ x.own = none ∧
          (x.cycle = s.chip.fab.cycle ∨ x.cycle = s.chip.fab.cycle + 1)) ∧
        (p.index.toNat < s.chip.fab.expo.length → t.chip.fab.expo.getD p.index.toNat {} = { e with inFlight := e.inFlight + 1 }))) ∧
    ∀ g, p.opcode = 3 → (s.chip.fab.groups[p.group.toNat]?).join = some g →
      let meets := fun (a b : Packet) => a.rank.toNat < b.rank.toNat + b.span ∧ b.rank.toNat < a.rank.toNat + a.span;
      let within := fun (a b : Packet) => decide (b.rank.toNat ≤ a.rank.toNat) && decide (a.rank.toNat + a.span ≤ b.rank.toNat + b.span);
      let taken := (∃ h ∈ s.chip.fab.partials, h.group = p.group.toNat ∧ h.round = p.seq.toNat ∧ ∃ x ∈ h.parts, meets p x.2.1 ∧ (within p x.2.1 = true ∨ within x.2.1 p = false)) ∨
        ∃ x ∈ s.chip.fab.inn, ∃ y ∈ x.parts, y.1.group = p.group ∧ y.1.seq = p.seq ∧ meets p y.1;
      let covered := (s.chip.fab.partials.filter fun h => h.group == p.group.toNat && h.round == p.seq.toNat).flatMap fun h =>
        h.parts.filter fun x => within x.2.1 p;
      let fits := 0 < p.span ∧ p.rank.toNat + p.span ≤ g.count ∧ ¬ taken;
      (¬ fits → ∃ t, exec (.fabricRequestArrival p) s = .next t ∧ responded s t p none 9 [] ∧ t.chip.fab.partials = s.chip.fab.partials ∧
        t.plat = s.plat ∧ ∀ l, t.chip.byteAt l = s.chip.byteAt l) ∧
      (fits → ∃ t h, exec (.fabricRequestArrival p) s = .next t ∧ h ∈ t.chip.fab.partials ∧ h.group = p.group.toNat ∧ h.round = p.seq.toNat ∧
        (p.rank.toNat, p, none) ∈ h.parts ∧ (∀ x ∈ h.parts, x.2.1 = p ∨ ¬ meets p x.2.1) ∧ (covered = [] → t.chip.fab.sent = s.chip.fab.sent) ∧
        (∀ x, covered = [x] → responded s t x.2.1 x.2.2 9 []) ∧ t.plat = s.plat ∧ ∀ l, t.chip.byteAt l = s.chip.byteAt l)) ∧
  (∀ (s : State) (p : Packet), 5 < p.opcode.toNat ∨ s.chip.fab.reaches p.src.toNat = false →
    let counted := { s with chip := { s.chip with fab := { s.chip.fab with
      ports := modAt s.chip.fab.ports p.port fun x => { x with refused := x.refused + 1 } } } };
    exec (if p.dest.toNat = s.chip.fab.node then .fabricRequestArrival p else .fabricForward p) s = .next counted) ∧
  (∀ (s : State) (x : InPacket) (ls bar : List Loc), s.chip.fab.inn.find? (fun y => y.id == x.id) = some x → x.refused = false →
    (x.pkt.ordered = true → x.pkt.seq.toNat = s.chip.fab.expects x.pkt) → s.chip.packetLocs x = .ok (ls, bar) → s.chip.lockWaits x.pkt ls = false →
    s.chip.batchHeld x ls = false → s.chip.inCopy (ls ++ bar) = false → x.parts = [] → ls.Nodup → (∀ l ∈ ls ++ bar, takesStores s.chip l) → x.expo < s.chip.fab.expo.length → (s.chip.fab.expo.getD x.expo {}).state = 1 →
    let p := x.pkt;
    let old := s.chip.readLocs ls;
    let placed := fun (cause : Nat) (data : List Byte) (bytes : State → Prop) => ∃ t, exec (.fabricPlacement x.id) s = .next t ∧
      responded s t p x.own cause data ∧ (∀ y ∈ t.chip.fab.inn, y.id ≠ x.id) ∧
      t.chip.fab.expo.getD x.expo {} =
        { s.chip.fab.expo.getD x.expo {} with inFlight := (s.chip.fab.expo.getD x.expo {}).inFlight - 1 } ∧ t.plat = s.plat ∧ bytes t;
    let stored := fun (bs : List Byte) (t : State) => (∀ l v, (l, v) ∈ ls.zip bs → t.chip.byteAt l = v) ∧
      (∀ l, l ∉ ls → l ∉ bar → t.chip.byteAt l = s.chip.byteAt l) ∧ (p.counted = false → ∀ l, l ∉ ls → t.chip.byteAt l = s.chip.byteAt l) ∧
      (p.counted = true → bar.Nodup → bar.length = 16 → t.chip.barObj bar = barrierAfter (s.chip.barObj bar) false (-(p.payload.length : Int)));
    (p.opcode = 0 → p.counted = false →
      (s.chip.anyBad ls = false → placed 0 old fun t => ∀ l, t.chip.byteAt l = s.chip.byteAt l) ∧
      (s.chip.anyBad ls = true → placed 7 [] fun t => ∀ l, t.chip.byteAt l = s.chip.byteAt l)) ∧
    (p.opcode = 1 → (∀ l ∈ ls, l ∉ bar) → placed 0 [] (stored p.payload)) ∧
    (∀ op w64, p.opcode = 2 → p.counted = false → s.chip.anyBad ls = false → p.bytes.toNat = (if w64 then 8 else 4) → ls.length = p.bytes.toNat →
      p.operation = BitVec.ofNat 4 (atomFab (fatomOp op w64)) →
      placed 0 old (stored (leBytes ls.length (atomApply (fatomOp op w64) (ofLe old) (ofLe (p.payload.take p.bytes.toNat)))))) ∧
    (p.opcode = 4 → p.counted = false → ls.length = 16 → (s.chip.barObj ls).arrivals < 2 ^ 16 - 1 → placed 0 [] fun t =>
      t.chip.barObj ls = barrierAfter (s.chip.barObj ls) true 0 ∧ ∀ l, l ∉ ls → t.chip.byteAt l = s.chip.byteAt l)) ∧
  (∀ (s : State) (x y : InPacket) (ls ls' bar bar' : List Loc) (l : Loc), s.chip.fab.inn.find? (fun z => z.id == x.id) = some x → y ∈ s.chip.fab.inn →
    x.pkt.opcode = 2 → y.pkt.opcode = 2 → y.cycle = x.cycle → s.chip.packetLocs x = .ok (ls, bar) → s.chip.packetLocs y = .ok (ls', bar') →
    l ∈ ls → l ∈ ls' → y.refused = false → (y.pkt.ordered = true → y.pkt.seq.toNat = s.chip.fab.expects y.pkt) →
    let before := fun (a b : Nat) (rest : Prop) => a < b ∨ (a = b ∧ rest);
    before y.pkt.src.toNat x.pkt.src.toNat (before y.expo x.expo (before y.pkt.message.toNat x.pkt.message.toNat (y.pkt.seq.toNat < x.pkt.seq.toNat))) →
    x.expo < 256 → y.expo < 256 → ∃ t, exec (.fabricPlacement x.id) s = .next t ∧ t.chip = s.chip ∧ t.plat = s.plat) ∧
  (∀ (s : State) (p : Packet), p.dest.toNat ≠ s.chip.fab.node → p.opcode.toNat ≤ 5 → s.chip.fab.reaches p.src.toNat = true →
    let ps := s.chip.fab.routePorts p.dest.toNat;
    (s.chip.fab.reaches p.dest.toNat = true → ps ≠ [] → 1 < p.hops.toNat → s.chip.fab.combines p = false →
      ∃ t port, exec (.fabricForward p) s = .next t ∧ leaves s t { p with hops := p.hops - 1 } port ∧ port ∈ ps ∧
        (p.ordered = true → ∀ k ∈ ps, port ≤ k) ∧ t.chip.fab.out = s.chip.fab.out ∧ t.plat = s.plat ∧ ∀ l, t.chip.byteAt l = s.chip.byteAt l) ∧
    (s.chip.fab.reaches p.dest.toNat = false ∨ ps = [] ∨ p.hops.toNat ≤ 1 →
      ∃ t, exec (.fabricForward p) s = .next t ∧ responded s t p none 1 [] ∧ t.plat = s.plat ∧ ∀ l, t.chip.byteAt l = s.chip.byteAt l)) ∧
  (∀ (s : State) (g : RedGroup) (h : Partial) (p0 : Packet) (own : Option Nat) (rest : List (Packet × Option Nat)) (ls : List Loc),
    (s.chip.fab.groups[h.group]?).join = some g → s.chip.fab.partials.find? (fun y => y.group == h.group && y.round == h.round) = some h →
    h.ranked g.count = (p0, own) :: rest → rest.length + 1 = g.count → g.root = s.chip.fab.node → p0.counted = false → p0.operation.toNat ≤ 12 →
    p0.span = 1 → (∀ x ∈ rest, x.1.operation = p0.operation ∧ x.1.payload.length = p0.payload.length ∧ x.1.span = 1) →
    let op := p0.operation.toNat;
    let m := p0.payload.length / redWire op;
    let bs := (List.range m).flatMap fun i => leBytes (redBytes op) (redResult op (((p0, own) :: rest).map fun x => (redElems op x.1).getD i 0));
    bs.length ≤ 1024 → s.chip.fab.checks (resultPacket g p0 bs) bs.length = 0 →
    s.chip.targetLocs s.chip.nextId (s.chip.fab.expo.getD g.index {}) { w := true } g.offset bs.length = .ok ls → ls.Nodup → ls.length = bs.length →
    s.chip.inCopy ls = false → g.index < 256 → g.offset < 2 ^ 40 →
    (op = 0 → m = 1 → bs = leBytes 4 (((p0, own) :: rest).map fun x => ofLe (x.1.payload.take 4)).sum) ∧
    ∃ t, exec (.reductionCombine h.group h.round) s = .next t ∧ (∀ l v, (l, v) ∈ ls.zip bs → takesStores s.chip l → t.chip.byteAt l = v) ∧
      (∀ l, l ∉ ls → t.chip.byteAt l = s.chip.byteAt l) ∧ (∀ y ∈ t.chip.fab.partials, y.id ≠ h.id) ∧ t.plat = s.plat ∧
      ((∀ x ∈ (p0, own) :: rest, x.2 = none ∧ s.chip.fab.leads x.1.src.toNat = true) → ∃ rs, t.chip.fab.sent = rs ++ s.chip.fab.sent ∧
        rs.map (·.dest) = (((p0, own) :: rest).map (·.1.src)).reverse ∧ ∀ r ∈ rs, r.opcode = 5 ∧ r.cause = 0)) ∧
  ∀ (s : State) (g : RedGroup) (h : Partial) (x y : Packet × Option Nat), (s.chip.fab.groups[h.group]?).join = some g →
    s.chip.fab.partials.find? (fun y => y.group == h.group && y.round == h.round) = some h → g.root ≠ s.chip.fab.node →
    (h.ranked g.count = [x] → 0 < x.1.span → s.chip.fab.routePorts x.1.dest.toNat ≠ [] →
      ∃ t port, exec (.reductionCombine h.group h.round) s = .next t ∧ leaves s t { x.1 with hops := x.1.hops - 1 } port ∧
        port ∈ s.chip.fab.routePorts x.1.dest.toNat ∧ (∀ z ∈ t.chip.fab.partials, z.id ≠ h.id) ∧ t.plat = s.plat ∧
        ∀ l, t.chip.byteAt l = s.chip.byteAt l) ∧
    (h.ranked g.count = [x, y] → pairs g.count x.1 y.1 = true → y.1.rank.toNat < g.count →
      ∃ t o, exec (.reductionCombine h.group h.round) s = .next t ∧ t.chip.fab.out = s.chip.fab.out ++ [o] ∧ o.owner = .relay [x.1, y.1] ∧
        o.pkt.rank = x.1.rank ∧ o.pkt.span = x.1.span + y.1.span ∧ o.pkt.operation = x.1.operation ∧ o.pkt.src = BitVec.ofNat 10 s.chip.fab.node ∧
        o.pkt.dest = x.1.dest ∧ o.pkt.group = x.1.group ∧ o.pkt.seq = x.1.seq ∧
        o.pkt.payload = ((redElems x.1.operation.toNat x.1).zip (redElems x.1.operation.toNat y.1)).flatMap (fun z =>
          leBytes (redWire x.1.operation.toNat) (redPair x.1.operation.toNat z.1 z.2)) ∧
        t.chip.fab.sent = s.chip.fab.sent ∧ (∀ z ∈ t.chip.fab.partials, z.id ≠ h.id) ∧ t.plat = s.plat ∧ ∀ l, t.chip.byteAt l = s.chip.byteAt l)

/-- The initiator of the fabric. A waiting packet that the congestion window admits goes out on the port that R305 names (R307, R309), and with the last
packet of a command the command completes on its timeline (R314); a put or a multicast reads its local source once and queues its packets (R303,
R318). A response ends its packet: a lane's access has its value, or its cause, or leaves a record where it has no return; a get's bytes land, or its
slot takes the sticky bit and a record (R307, R315, R316, R319, R324); the read of an unsupported atomic's service is followed by its write, whose
response frees the lock (R181, R315); a response to a combined partial sum goes on to its contributors (R311). A get's response whose page is absent
is kept, and no timeout answers its packet any more; a packet whose response never comes is answered with cause 1 (R307). An entry of the
write-combining buffer drains by age, one packet for each run of bytes, which the stores with bytes in the run wait for (R312). A port whose queue is
short gives up half its wavelengths, down to two; one whose queue is long wakes to its full width (R310); how far a queue has drained is a free value
(log 39). -/
def Obligations.FabricInitiator : Prop :=
  (∀ (s : State) (o : OutPacket), s.chip.fab.out.find? (fun x => x.id == o.id) = some o → o.sent = none → s.chip.fab.reaches o.pkt.dest.toNat = true →
    s.chip.fab.routePorts o.pkt.dest.toNat ≠ [] → s.chip.fab.mayInject o = true → s.chip.packetHeld o = false → o.pkt.dest.toNat ≠ s.chip.fab.node →
    let ps := s.chip.fab.routePorts o.pkt.dest.toNat;
    ∃ t x, exec (.packetInjection o.id) s = .next t ∧
      leaves s t o.pkt (if o.pkt.ordered then ps.headD 0 else ps.getD ((o.pkt.message.toNat + o.pos) % ps.length) 0) ∧
      t.chip.fab.out.find? (fun x => x.id == o.id) = some x ∧ x = { o with sent := some s.chip.fab.injected } ∧
      t.chip.fab.injected = s.chip.fab.injected + 1 ∧ t.plat = s.plat ∧ (∀ n off, t.chip.byteAt (.scr n off) = s.chip.byteAt (.scr n off)) ∧
      ∀ (k : FabCmd) (pos : Nat), o.owner = .cmd k.id pos → s.chip.fab.cmds.find? (fun y => y.id == k.id) = some k → k.loaded = true → k.stopped = false →
        k.signal = false → k.left = false → (∀ y ∈ s.chip.fab.out, y.owner.isOf k.id = true → y.id ≠ o.id → y.sent.isSome = true) →
        (∀ y ∈ s.chip.fab.cmds, y.id ≠ k.id → ¬(y.core = k.core ∧ y.slot = k.slot ∧ y.num = k.num)) → k.core < s.chip.cores.length →
        k.slot < (s.chip.core k.core).slots.length →
        (t.chip.core k.core).slots.getD k.slot {} = ((s.chip.core k.core).slots.getD k.slot {}).finish k.num false) ∧
  (∀ (s : State) (k : FabCmd) (ls : List Loc), s.chip.fab.out.find? (fun x => x.id == k.id) = none →
    s.chip.fab.cmds.find? (fun y => y.id == k.id) = some k → k.kind = 0 → k.loaded = false → k.stopped = false → 0 < k.len →
    s.chip.fab.cmds.filter (fun y => y.core == k.core && y.slot == k.slot && y.num == k.num) = [k] →
    s.chip.localLocs k { r := true } 0 k.len = .ok ls → s.chip.inCopy ls = false →
    ∃ t os y, exec (.packetInjection k.id) s = .next t ∧ t.chip.fab.out = s.chip.fab.out ++ os ∧
      os.map (fun o => (o.owner, o.pkt.opcode, o.pkt.channel, o.pkt.offset, o.pkt.payload)) = (packetsOf k.dst.off k.len).map (fun x =>
        (.cmd k.id x.1, 1, 0, BitVec.ofNat 40 x.2.1, ((s.chip.readLocs ls).drop x.1).take x.2.2)) ∧
      (∀ o ∈ os, o.sent = none ∧ o.pkt.ordered = k.ordered ∧ o.pkt.dest = BitVec.ofNat 10 k.dst.node ∧ o.pkt.counted = (k.counted && k.bar.isSome)) ∧
      t.chip.fab.cmds.find? (fun y => y.id == k.id) = some y ∧ y = { k with loaded := true } ∧ t.plat = s.plat ∧
      ∀ l, t.chip.byteAt l = s.chip.byteAt l) ∧
  (∀ (s : State) (o : OutPacket) (late : Bool) (data : List Byte) (cause : BitVec 4), s.chip.fab.out.find? (fun x => x.id == o.id) = some o →
    o.sent.isSome = true → o.pkt.dest.toNat ≠ s.chip.fab.node → cause.toNat ≤ 9 → s.chip.fab.kept.find? (fun x => x.1 == o.id) = none →
    let finish := fun (t : State) => (∀ x ∈ t.chip.fab.out, x.id ≠ o.id) ∧ t.plat = s.plat;
    let poisons := fun (t : State) (v : Bool) => ∀ q, q.uid ∈ o.uids → s.chip.squad? q.uid = some q →
      ∃ p, t.chip.squad? q.uid = some p ∧ p.badResponse = (q.badResponse || v) ∧ p.exe = q.exe;
    (∀ (r : Request) (a : Access), o.owner = .lane r.id a.lane → s.chip.request? r.id = some r → r.accs.find? (fun (x : Access) => x.lane == a.lane) = some a →
      r.returns = true → (r.dst.isSome = true ∨ ∃ p, a.fab = some p) →
      let status := fun (t : State) => (t.chip.request? r.id).bind fun r => (r.accs.find? fun (x : Access) => x.lane == a.lane).map (·.status);
      (∃ t, exec (.fabricResponse o.id cause data late) s = .next t ∧ finish t ∧ poisons t (decide (cause ≠ 0)) ∧
        status t = some (if cause = 0 then .done (fitTo r.size data) else if r.dst.isSome then .refused cause.toNat else .done []) ∧
        (cause = 0 ∨ r.dst.isSome = true → ∀ l, t.chip.byteAt l = s.chip.byteAt l) ∧
        ∀ p, cause ≠ 0 → r.dst = none → a.fab = some p →
          t.chip.dev = (s.chip.errAppend r.ctx (record326 0x30 cause.toNat p.peer 0 r.core (s.chip.fab.refuser cause.toNat p.node) 0 r.size a.va)).dev) ∧
      ∃ t, exec (.responseTimeout o.id) s = .next t ∧ finish t ∧ poisons t true ∧
        (r.dst.isSome = true → status t = some (.refused 1) ∧ ∀ l, t.chip.byteAt l = s.chip.byteAt l)) ∧
    (∀ (r : Request) (a : Access) (op : AtomOp) (ret : Bool), o.owner = .service r.id a.lane → s.chip.request? r.id = some r →
      r.accs.find? (fun (x : Access) => x.lane == a.lane) = some a → r.kind = .atom op ret → cause = 0 → a.cmp = [] → o.pkt.ordered = false →
      ∃ t x, exec (.fabricResponse o.id cause data late) s = .next t ∧ t.chip.fab.out = s.chip.fab.out.filter (fun y => y.id != o.id) ++ [x] ∧
        x.owner = .service r.id a.lane ∧ x.pkt.opcode = 1 ∧ (x.pkt.dest, x.pkt.index, x.pkt.key, x.pkt.offset) = (o.pkt.dest, o.pkt.index, o.pkt.key, o.pkt.offset) ∧
        x.pkt.payload = leBytes r.size (atomApply op (ofLe (fitTo r.size data)) (ofLe a.data)) ∧ t.chip.locks = s.chip.locks ∧ t.plat = s.plat ∧
        ∀ l, t.chip.byteAt l = s.chip.byteAt l) ∧
    (∀ (r : Request) (a : Access), o.owner = .service r.id a.lane → s.chip.request? r.id = some r →
      r.accs.find? (fun (x : Access) => x.lane == a.lane) = some a → cause = 0 → a.cmp ≠ [] → r.returns = true →
      ∃ t, exec (.fabricResponse o.id cause data late) s = .next t ∧ finish t ∧
        ((t.chip.request? r.id).bind fun r => (r.accs.find? fun (x : Access) => x.lane == a.lane).map (·.status)) = some (.done a.cmp) ∧
        t.chip.locks = s.chip.locks.filter (fun k => k != lockOf o.pkt.offset.toNat) ∧ ∀ l, t.chip.byteAt l = s.chip.byteAt l) ∧
    (∀ parts, o.owner = .relay parts → (∀ p ∈ parts, s.chip.fab.leads p.src.toNat = true) →
      ∃ t rs, exec (.fabricResponse o.id cause data late) s = .next t ∧ finish t ∧ t.chip.fab.sent = rs ++ s.chip.fab.sent ∧
        rs.map (·.dest) = (parts.map (·.src)).reverse ∧ (∀ r ∈ rs, r.opcode = 5 ∧ r.cause = cause) ∧ ∀ l, t.chip.byteAt l = s.chip.byteAt l) ∧
    (∀ (k : FabCmd) (pos : Nat), o.owner = .cmd k.id pos → s.chip.fab.cmds.find? (fun y => y.id == k.id) = some k → k.kind = 1 → k.signal = false →
      k.home = none → k.core < s.chip.cores.length → k.slot < (s.chip.core k.core).slots.length → cause ≠ 0 →
      ∃ t, exec (.fabricResponse o.id cause data late) s = .next t ∧ finish t ∧ ((t.chip.core k.core).slots.getD k.slot {}).fault = true ∧
        t.chip.dev = (s.chip.errAppend k.ctx (record326 0x33 cause.toNat k.dst.peer k.slot k.core (s.chip.fab.refuser cause.toNat k.dst.node) k.num
          o.pkt.bytes.toNat (k.remote + pos))).dev ∧ ∀ n off, t.chip.byteAt (.scr n off) = s.chip.byteAt (.scr n off)) ∧
    (∀ (k : FabCmd) (pos p : Nat), o.owner = .cmd k.id pos → s.chip.fab.cmds.find? (fun y => y.id == k.id) = some k → k.kind = 1 →
      k.stopped = false → cause = 0 → s.chip.localLocs k { w := true } pos o.pkt.bytes.toNat = .error (some p) →
      ∃ t, exec (.fabricResponse o.id cause data late) s = .next t ∧ t.chip.fab.out = s.chip.fab.out ∧
        t.chip.fab.kept.find? (fun x => x.1 == o.id) = some (o.id, 0, data) ∧ t.plat = s.plat ∧
        ∃ u, exec (.responseTimeout o.id) t = .next u ∧ u.chip = t.chip) ∧
    ∀ (k : FabCmd) (pos : Nat) (ls : List Loc), o.owner = .cmd k.id pos → s.chip.fab.cmds.find? (fun y => y.id == k.id) = some k → k.kind = 1 →
      k.stopped = false → k.signal = false → k.home = none → k.scr = false → cause = 0 → s.chip.localLocs k { w := true } pos o.pkt.bytes.toNat = .ok ls → ls.Nodup →
      s.chip.inCopy ls = false → ls.length = o.pkt.bytes.toNat →
      ∃ t, exec (.fabricResponse o.id cause data late) s = .next t ∧ finish t ∧
        (∀ l v, (l, v) ∈ ls.zip (fitTo o.pkt.bytes.toNat data) → takesStores s.chip l → t.chip.byteAt l = v) ∧
        ∀ l, l ∉ ls → t.chip.byteAt l = s.chip.byteAt l) ∧
  (∀ (s : State) (n : Nat) (w : WcEntry), (s.chip.core n).wc.find? (fun x => x.id == w.id) = some w →
    ∃ t os, exec (.writeCombiningAgeExpiry n w.id) s = .next t ∧ (t.chip.core n).wc = (s.chip.core n).wc.filter (fun x => x.id != w.id) ∧
      t.chip.fab.out = s.chip.fab.out ++ os ∧ os.map (fun o => (o.owner, o.pkt.opcode, o.pkt.ordered, o.pkt.offset, o.pkt.payload)) =
        (maskRuns 0 w.mask).map (fun r =>
          (.wc n (w.va + r.1) ((w.stores.filter fun x => x.2.1 < r.1 + r.2 && r.1 < x.2.1 + x.2.2.length).map (·.1)).eraseDups, 1, false, BitVec.ofNat 40 (w.line * 128 + r.1), (w.bytes.drop r.1).take r.2)) ∧
      t.chip.squads = s.chip.squads ∧ t.plat = s.plat ∧ ∀ l, t.chip.byteAt l = s.chip.byteAt l) ∧
  ∀ (s : State) (i : Nat) (p : Port), s.chip.fab.ports[i]? = some p →
    let port := fun (t : State) => t.chip.fab.ports[i]?;
    let rest := fun (t : State) =>
      { s with chip := { s.chip with fresh := t.chip.fresh, fab := { s.chip.fab with ports := t.chip.fab.ports } } } = t ∧
        ∀ j, j ≠ i → t.chip.fab.ports[j]? = s.chip.fab.ports[j]?;
    let d := s.chip.fab.params.parkDepth;
    let w := s.chip.fab.params.wakeDepth;
    (∃ t x k, exec (.wavelengthPark i) s = .next t ∧ rest t ∧ k ≤ p.queue ∧ x = { p with queue := k } ∧
      port t = some (if p.waking = false ∧ k ≤ d ∧ k < w then { x with width := if 8 ≤ p.width then 4 else if 4 ≤ p.width then 2 else p.width } else x)) ∧
    (∃ t x k, exec (.wavelengthWake i) s = .next t ∧ rest t ∧ k ≤ p.queue ∧ x = { p with queue := k } ∧
      port t = some (if w ≤ k ∧ p.width < p.full then { x with waking := true } else x)) ∧
    ∃ t, exec (.wavelengthWakeComplete i) s = .next t ∧ rest t ∧ port t = some (if p.waking then { p with waking := false, width := p.full } else p)

/-! ### How squads come and go -/

/-- Device and host memory read as before. -/
def offChip (c d : Chip) : Prop := d.dev = c.dev ∧ d.host = c.host

/-- A squad at its start (R34): every live lane is eligible at the entry, its uniform registers 0 to 3 hold its number, the size of what it belongs to and
the argument address. -/
def startsAt (q : Squad) (l : Launch) (n number count entry live : Nat) : Prop :=
  q.launch = l.id ∧ q.place.core = n ∧ q.exe.core = n ∧ q.exe.ctx = l.ctx ∧ q.number = number ∧ q.entry = entry ∧
    (∀ k, k < 32 → q.lpc.getD k 0 = entry ∧ q.state k = if k < live then .eligible else .exited) ∧ q.exe.inClause = false ∧
    q.exe.uniReg 0 = BitVec.ofNat 32 number ∧ q.exe.uniReg 1 = BitVec.ofNat 32 count ∧ q.exe.uniReg 2 = BitVec.ofNat 32 l.args ∧
    q.exe.uniReg 3 = BitVec.ofNat 32 (l.args / 2 ^ 32) ∧ (∀ k, q.burgees.getD k 0 = 0) ∧ (∀ k, q.pennants.getD k 0 = 0) ∧
    ∀ k, q.handles.getD k none = none

/-- Windows that a core has gained are zero, present and unwritten (R32, R59). -/
def windowsFresh (c d : Chip) (n : Nat) : Prop :=
  ∀ w ∈ (d.core n).windows, w ∉ (c.core n).windows →
    (∀ off, 128 * w.base ≤ off → off < 128 * (w.base + w.lines) → d.byteAt (.scr n off) = 0) ∧
    ∀ l, w.base ≤ l → l < w.base + w.lines → Sparse.get false (d.core n).absent l = false ∧ Sparse.get false (d.core n).written l = false

/-- A formed squad of launch l is dispatched to core n (R34): thread i in lane i with its arguments in r0 on. -/
def spawnRuns (s t : State) (f : Formed) (l : Launch) (n : Nat) (q : Squad) : Prop :=
  t.chip.squads = s.chip.squads ++ [q] ∧ q.spawned = true ∧ startsAt q l n 0xFFFFFFFF f.threads.length f.entry f.threads.length ∧
    q.exe.declared = f.declared ∧ q.exe.mslots.getD 0 none = f.muster ∧
    (∀ i k (th : Spawned) (w : Word), f.threads[i]? = some th → th.args[k]? = some w → q.exe.reg k i = w) ∧
    t.chip.formed = s.chip.formed.filter (fun x => x.id != f.id) ∧ windowsFresh s.chip t.chip n ∧ offChip s.chip t.chip ∧ t.plat = s.plat

/-- Spawned squads (R33, R34, R346): a bin whose timer expires forms a squad of its threads, in their order; a formed squad is dispatched to the core that
takes it, thread i in lane i with its arguments in r0 on, once that core's cluster is On and its bench has blocks and no escort or evicted squad that
goes first (R162, R164); where the cluster is gating or off, the dispatch makes it abandon gating or wake, and the squad keeps the place chosen for it
until the cluster is On. That it keeps that place and that a bin belongs to one launch are the model's choices (log 92).
Retirement (R37, R246): a squad of which nothing is left frees its banks; a spawned squad is gone, a launch squad's exit record goes out with its scratch
fault mask, number, place and status; when the record is written, the squad's slot is free and its launch counts it as retired.
Musters and launches (R38, R217): a muster that is over frees its windows, slots and queues everywhere; with the last muster and squad, the launch and
its command end. -/
def Obligations.SquadsEnd : Prop :=
  (∀ (s : State) (n i : Nat) (b : Bin), (s.chip.core n).bins[i]? = some b →
    ∃ t f, exec (.spawnBinTimerExpiry n i) s = .next t ∧ (t.chip.core n).bins = (s.chip.core n).bins.filter (fun x => x != b) ∧
      t.chip.formed = s.chip.formed ++ [f] ∧
      f = { id := s.chip.nextId, launch := b.launch, ctx := b.ctx, core := n, entry := b.entry, muster := b.muster, threads := b.threads
            saves := s.chip.binLeaves n b.ctx b.launch b.muster } ∧
      t.chip.squads = s.chip.squads ∧ t.plat = s.plat ∧ ∀ l, t.chip.byteAt l = s.chip.byteAt l) ∧
  (∀ (s : State) (f : Formed) (l : Launch), s.chip.formed.find? (fun x => x.id == f.id) = some f → s.chip.launch? f.launch = some l → f.threads.length ≤ 32 →
    (∀ n d, f.place = none → s.chip.placeFormed f = some (n, d) →
      (s.chip.coreOn n = true → (∀ b, s.chip.moveDue n b = false) → (∀ p, s.chip.clusterOf n = some p → s.powerOf p.1 = .on) →
        ∃ t q, exec (.spawnedSquadDispatch f.id) s = .next t ∧ spawnRuns s t f l n q) ∧
      ∀ p, s.chip.clusterOf n = some p →
        let waits := fun (a b : ClusterPower) => s.powerOf p.1 = a →
          ∃ t g, exec (.spawnedSquadDispatch f.id) s = .next t ∧ t.powerOf p.1 = b ∧ t.chip.formed.find? (fun x => x.id == f.id) = some g ∧
            (g.place.map (·.core)) = some n ∧ g = { f with place := g.place } ∧ t.chip.squads = s.chip.squads ∧ offChip s.chip t.chip;
        waits .gating .abandoning ∧ waits .off .waking) ∧
    ∀ pl, f.place = some pl → s.chip.coreOn pl.core = true → s.chip.benchReady pl.core pl.bench f.declared = true →
      ∃ t q, exec (.spawnedSquadDispatch f.id) s = .next t ∧ spawnRuns s t f l pl.core q ∧ q.place = pl) ∧
  (∀ (s : State) (q : Squad), s.chip.squad? q.uid = some q → s.chip.mayRetire q = true →
    let stays := fun (t : State) => t.plat = s.plat ∧ (∀ u, u ≠ q.uid → t.chip.squad? u = s.chip.squad? u) ∧
      (∀ n off, t.chip.byteAt (.scr n off) = (s.chip.commitRegion q.uid).byteAt (.scr n off)) ∧
      ((s.chip.benchOf q).accValid = true → (s.chip.benchOf q).accCtx = q.exe.ctx → ∀ k, some k ∈ q.handles →
        (t.chip.benchOf q).modes.getD k .free = .free);
    (q.spawned = true → ∃ t, exec (.squadRetirement q.uid) s = .next t ∧ stays t ∧ t.chip.squad? q.uid = none ∧
      t.chip.exitRecords = s.chip.exitRecords) ∧
    ∀ l, q.spawned = false → s.chip.launch? q.launch = some l →
      ∃ t p e, exec (.squadRetirement q.uid) s = .next t ∧ stays t ∧ t.chip.squad? q.uid = some p ∧ (∀ k, p.handles.getD k none = none) ∧ p.st = q.st ∧
        t.chip.exitRecords = s.chip.exitRecords ++ [e] ∧ e.id = q.uid ∧ e.ctx = l.ctx ∧ e.core = q.place.core ∧ e.addr = l.exits + 16 * q.number ∧
        e.value = q.scfMask.toNat * 2 ^ 96 + q.number * 2 ^ 64 + q.place.core * 2 ^ 40 + q.place.bench * 2 ^ 37 + q.place.slot * 2 ^ 32 +
          (if q.scfMask = 0 then 0 else 1)) ∧
  (∀ (s : State) (q : Squad) (l : Launch) (e : ExitRecord), s.chip.exitRecords.find? (fun x => x.id == e.id) = some e →
    s.chip.squad? e.id = some q → s.chip.launch? q.launch = some l → (∀ x, s.chip.ctx? e.ctx = some x → x.closing = none) →
    (∀ ls, s.chip.xlFor e.id e.core e.ctx { w := true } e.addr 16 = .ok ls → s.chip.inCopy ls = false → ls.Nodup → ls.length = 16 → l.retired + 1 ≠ l.squads →
      ∃ t, exec (.exitRecordWrite e.id) s = .next t ∧ (∀ a v, (a, v) ∈ ls.zip (leBytes 16 e.value) → takesStores s.chip a → t.chip.byteAt a = v) ∧
        (∀ a, a ∉ ls → t.chip.byteAt a = s.chip.byteAt a) ∧ t.chip.squads = s.chip.squads.filter (fun x => x.uid != e.id) ∧
        t.chip.exitRecords = s.chip.exitRecords.filter (fun x => x.id != e.id) ∧
        t.chip.launch? q.launch = some { l with retired := l.retired + 1 } ∧ t.plat = s.plat) ∧
    ∀ r, s.chip.xlFor e.id e.core e.ctx { w := true } e.addr 16 = .error (.access r) →
      ∃ t, exec (.exitRecordWrite e.id) s = .next t ∧ t.chip.squads = s.chip.squads.filter (fun x => x.uid != e.id) ∧
        t.chip.exitRecords = s.chip.exitRecords.filter (fun x => x.id != e.id) ∧ t.plat = s.plat ∧
        ∀ n off, t.chip.byteAt (.scr n off) = s.chip.byteAt (.scr n off)) ∧
  ∀ (s : State) (l : Launch) (m : Muster), s.chip.launch? l.id = some l → s.chip.muster? l.id m.idx = some m → m.retired = false →
    s.chip.musterOver l m = true →
    let gone := fun (t : State) => ∀ n, (t.chip.core n).windows = (s.chip.core n).windows.filter (fun w => !(w.launch == l.id && w.muster == m.idx)) ∧
      (∀ k, (l.id, m.idx) ∉ ((t.chip.core n).slots.getD k {}).owners) ∧
      ∀ k, let u := s.chip.queue n k; t.chip.queue n k = if u.launch = l.id ∧ u.muster = m.idx ∧ u.state ≠ .free then {} else u;
    ((l.retired ≠ l.squads ∨ ∃ k ∈ l.musters, k.idx ≠ m.idx ∧ k.retired = false) →
      ∃ t, exec (.musterRetirement l.id m.idx) s = .next t ∧ gone t ∧ (∀ a, t.chip.byteAt a = s.chip.byteAt a) ∧ t.chip.squads = s.chip.squads ∧
        t.plat = s.plat ∧ t.chip.launch? l.id =
          some { l with musters := l.musters.map fun k => if k.idx = m.idx then { k with retired := true, cores := [] } else k }) ∧
    (l.retired = l.squads → (∀ k ∈ l.musters, k.idx ≠ m.idx → k.retired = true) → s.chip.anySquad l.id (fun _ => true) = false →
      (∀ f ∈ s.chip.formed, f.launch ≠ l.id) → (∀ k ∈ s.chip.cores, ∀ b ∈ k.bins, b.launch ≠ l.id) →
      ∃ t, exec (.musterRetirement l.id m.idx) s = .next t ∧ gone t ∧ t.chip.launch? l.id = none ∧
        t.chip.cmds = s.chip.cmds.filter (fun k => k.id != l.id) ∧
        (∀ k, s.chip.cmd? l.id = some k → k.sigOk = true →
          t.chip.timelines = modAt s.chip.timelines k.sigTl fun x => x.finish k.number 0) ∧
        t.chip.squads = s.chip.squads ∧ t.plat = s.plat)

/-- A launch whose command may start (R29, R336, R339): it fails without its context or where a check fails; else it waits for its first unit, with
the values of its record and a muster for each table entry.
Placement (R30 to R32, R342, R343, R346): the unit of the lowest squad that is not placed goes whole to one core, each squad in a place of its own; with
its first unit a launch starts, and the members that hold pages of its reused ranges have their access counts set to 255 (R369). Where no barrier
object of the unit's musters is still to be written and the core's cluster is On, its squads are dispatched, at their entry; windows gained are zero
and present. A cluster that gates or is off begins to come back, and the squads keep their places; those that may be dispatched go first, where the
pool of their bench has blocks for them (R162, R164). A barrier object is written with the muster's size as its expected count (R16, R32).
The model's choices: squads keep their places while the cluster is not On (log 92), the expected count is the muster's size modulo 2^16 (log 49), and the
object's address is global (log 50). -/
def Obligations.LaunchesStart : Prop :=
  (∀ (s : State) (k : Cmd), s.chip.cmd? k.id = some k → k.typ = 0x01 → s.chip.launch? k.id = none → s.chip.mayStart k = true →
    s.chip.inherits k = none → s.chip.closing k.ctx = false →
    (s.chip.ctx? k.ctx = none → exec (.launch k.id) s = .next { s with chip := s.chip.endCmd k.id 0x04 0 }) ∧
    (∀ cause detail, (s.chip.ctx? k.ctx).isSome = true → s.chip.checkLaunch k = .error (cause, detail) →
      exec (.launch k.id) s = .next { s with chip := s.chip.endCmd k.id cause detail }) ∧
    (bits k.record 599 576 = 0 ∨ bits k.record 711 704 = 0 ∨ 30 < bits k.record 711 704 ∨ bits k.record 319 256 % 8 ≠ 0 →
      s.chip.checkLaunch k = .error (0x01, 0)) ∧
    ∀ l, (s.chip.ctx? k.ctx).isSome = true → s.chip.checkLaunch k = .ok l →
      (l.id = k.id ∧ l.ctx = k.ctx ∧ l.entry = bits k.record 319 256 ∧ l.args = bits k.record 383 320 ∧ l.exits = bits k.record 447 384 ∧
        l.squads = bits k.record 599 576 ∧ l.declared = 8 * bits k.record 711 704 ∧ l.number = k.number ∧
        l.musters.length = bits k.record 607 600 + 1 ∧ l.placing = [] ∧ l.dispatched = [] ∧ l.retired = 0) ∧
      exec (.launch k.id) s = .next { s with chip := { s.chip with launches := s.chip.launches ++ [l] } }) ∧
  (∀ (s : State) (l : Launch) (n i : Nat) (d : Chip), s.chip.dispatchable = none →
    (∀ f ∈ s.chip.formed, f.place = none → s.chip.placeFormed f = none) →
    s.chip.launchOrder.findSome? (fun x => (s.chip.placeUnit x).map fun r => (x, r)) = some (l, n, d) → s.chip.launch? l.id = some l →
    l.nextSquad = some i →
    let started := (s.chip.cmd? l.id).any fun k => k.started;
    let counts := fun (t : State) => ∀ key, Sparse.get 0 t.plat.counts key =
      if started = false ∧ key ∈ (d.reusedPages l).map (countKey s.chip.fast) then 255 else Sparse.get 0 s.plat.counts key;
    ((∀ m ∈ l.musters, (∃ j ∈ l.unitSquads i, m.has j = true) → m.barInit = false ∨ m.barDone = true) → s.chip.coreOn n = true →
      (∀ b, s.chip.moveDue n b = false) →
      (∀ p, s.chip.clusterOf n = some p → s.powerOf p.1 = .on) →
      ∃ t qs y, exec .unitPlacement s = .next t ∧ t.chip.squads = s.chip.squads ++ qs ∧ qs.map (·.number) = l.unitSquads i ∧
        (∀ q ∈ qs, q.spawned = false ∧ startsAt q l n q.number l.squads l.entry 32 ∧ q.exe.declared = l.declared ∧
          q.exe.mslots = l.mslotsOf q.number ∧ (∀ x ∈ s.chip.squads, x.place ≠ q.place)) ∧ (qs.map (·.place)).Nodup ∧
        t.chip.launch? l.id = some y ∧ y.dispatched = l.dispatched ++ l.unitSquads i ∧ windowsFresh s.chip t.chip n ∧
        t.chip.host = s.chip.host ∧ counts t ∧ t.plat = { s.plat with counts := t.plat.counts }) ∧
    ∀ p, s.chip.clusterOf n = some p →
      let waits := fun (a b : ClusterPower) => s.powerOf p.1 = a →
        ∃ t y xs, exec .unitPlacement s = .next t ∧ t.powerOf p.1 = b ∧ t.chip.squads = s.chip.squads ∧ t.chip.launch? l.id = some y ∧
          y.placing = l.placing ++ xs ∧ xs.map (·.1) = l.unitSquads i ∧ (∀ x ∈ xs, x.2.core = n) ∧ (xs.map (·.2)).Nodup ∧ y.dispatched = l.dispatched ∧
          counts t;
      waits .gating .abandoning ∧ waits .off .waking) ∧
  (∀ (s : State) (l : Launch), s.chip.dispatchable = some l → s.chip.launch? l.id = some l →
    let now := l.placing.filter fun x => s.chip.mayDispatch l x;
    (∀ n b, (now.filter fun x => x.2.core == n && x.2.bench == b).length * (l.declared / 8) ≤ s.chip.pool n b) →
    ∃ t qs y, exec .unitPlacement s = .next t ∧ t.chip.squads = s.chip.squads ++ qs ∧ qs.map (fun q => (q.number, q.place)) = now ∧
      (∀ q ∈ qs, q.spawned = false ∧ startsAt q l q.place.core q.number l.squads l.entry 32 ∧ q.exe.declared = l.declared) ∧
      t.chip.launch? l.id = some y ∧ y.dispatched = l.dispatched ++ now.map (·.1) ∧ offChip s.chip t.chip ∧ t.plat = s.plat) ∧
  ∀ (s : State) (b : BarInit) (l : Launch) (m : Muster) (ls : List Loc), s.chip.barInits.find? (fun x => x.id == b.id) = some b →
    s.chip.launch? b.launch = some l → s.chip.muster? b.launch b.muster = some m → m.barrier ≠ 0 →
    s.chip.xlFor b.id b.core l.ctx { w := true } m.barrier 16 = .ok ls → s.chip.inCopy ls = false → ls.Nodup → ls.length = 16 →
    (∀ a ∈ ls, takesStores s.chip a) →
    ∃ t, exec (.barrierInitWrite b.id) s = .next t ∧
      t.chip.barObj ls = { excess := false, remote := m.remote, gated := m.byteGated, pending := 0, phase := 0, expected := m.size % 2 ^ 16, arrivals := 0 } ∧
      (∀ a, a ∉ ls → t.chip.byteAt a = s.chip.byteAt a) ∧ t.chip.barInits = s.chip.barInits.filter (fun x => x.id != b.id) ∧
      t.chip.muster? b.launch b.muster = some { m with barDone := true } ∧ t.chip.squads = s.chip.squads ∧ t.plat = s.plat

/-! ### Commands -/

/-- Address of a command's journal entry (R340). -/
def entryAddr (c : Chip) (k : Cmd) : Nat := c.journal + 64 + 64 * (k.entry % 2 ^ c.journalC)

/-- Two ranges of device bytes do not meet. -/
def apart (a n b m : Nat) : Prop := a + n ≤ b ∨ b + m ≤ a

/-- A command is over (R339, R340): it is no longer held, its journal entry says completed, or failed with cause and detail, and its timeline has
completed its number. -/
def cmdOver (c d : Chip) (k : Cmd) (cause detail : Nat) : Prop :=
  d.cmds = c.cmds.filter (fun j => j.id != k.id) ∧
    d.timelines = (if k.sigOk then modAt c.timelines k.sigTl fun x => x.finish k.number cause else c.timelines) ∧
    d.dev.le (entryAddr c k) 64 = k.journal (if cause = 0 then 2 else 3) cause detail % 2 ^ 512

/-- A command is over and nothing else has changed. -/
def cmdFails (i : Instr) (s : State) (k : Cmd) (cause detail : Nat) : Prop :=
  ∃ t, exec i s = .next t ∧ cmdOver s.chip t.chip k cause detail ∧ t.plat = s.plat ∧ t.agenda = s.agenda ∧
    (∀ a, apart a 1 (entryAddr s.chip k) 64 → t.chip.dev.byte a = s.chip.dev.byte a) ∧
    { t.chip with dev := s.chip.dev, cmds := s.chip.cmds, timelines := s.chip.timelines } = s.chip

/-- A command of a type that has started. -/
def begun (s : State) (k : Cmd) (typ : Nat) : Prop := s.chip.cmd? k.id = some k ∧ k.started = true ∧ k.typ = typ

/-- Acceptance (R333, R334, R337, R340): the posted queue of the highest priority gives its head record a journal entry, the next number of the timeline
it signals and its place among the commands; the queue then expects the next sequence number. A record with reserved bits fails with
cause 0x01, one of an unknown type with 0x09, and one of a queue that may not send it with 0x0A.
Start (R339): a command whose waits are met and whose queue's earlier commands have started starts, which its journal entry says; one that inherits
a failure fails with cause 0x08 and the number that failed, and one whose context does not exist with 0x04; a context create reads its record then
(R352). A record in a slot that a disable has discarded is not accepted (R335). Which of the three causes a record with several defects has is the model's
reading (log 57).
A timeline completes numbers in order and keeps its earliest failure. -/
def Obligations.CommandsStart : Prop :=
  (∀ (s : State) (i : Nat), s.chip.running = true → s.chip.journalRoom = true → s.chip.nextQueue = some i → i < s.chip.queues.length →
    (∀ j ∈ s.chip.cmds, j.id < s.chip.nextId) →
    let q := s.chip.queues.getD i {};
    let r := s.chip.headRecord i;
    let w := s.chip.dev.le s.chip.journal 8;
    let x := s.chip.timelines.getD (bits r 109 104) {};
    let k : Cmd := { id := s.chip.nextId, queue := i, record := r, entry := w, number := if bit r 110 then x.issue + 1 else 0 };
    (s.chip.posted i = true ∧ ∀ j, j < 64 → s.chip.posted j = true → (s.chip.queues.getD j {}).prio ≤ q.prio) ∧
    ∃ t, exec .commandAcceptance s = .next t ∧ t.chip.queues.getD i {} = { q with expect := q.expect + 1 } ∧
      (∀ j, j ≠ i → t.chip.queues.getD j {} = s.chip.queues.getD j {}) ∧ t.chip.served = i ∧ t.chip.dev.le s.chip.journal 8 = (w + 1) % 2 ^ 64 ∧
      (∀ a, apart a 1 s.chip.journal 8 → apart a 1 (entryAddr s.chip k) 64 → t.chip.dev.byte a = s.chip.dev.byte a) ∧
      t.chip.squads = s.chip.squads ∧ t.plat = s.plat ∧
      (recordCause q i r = 0 → t.chip.cmds = s.chip.cmds ++ [k] ∧ t.chip.dev.le (entryAddr s.chip k) 64 = k.journal 0 0 0 % 2 ^ 512 ∧
        t.chip.timelines = if bit r 110 then modAt s.chip.timelines (bits r 109 104) fun x => { x with issue := x.issue + 1 } else s.chip.timelines) ∧
      (recordCause q i r ≠ 0 → t.chip.cmds = s.chip.cmds ∧
        t.chip.dev.le (entryAddr s.chip k) 64 = k.journal 3 (recordCause q i r) 0 % 2 ^ 512)) ∧
  (∀ (q : CmdQueue) (i r : Nat),
    (bits r 127 111 ≠ 0 ∨ bits r 87 64 ≠ 0 ∨ bits r 17 0 ≠ 0 → recordCause q i r = 0x01) ∧
    (bits r 127 111 = 0 → bits r 87 64 = 0 → bits r 17 0 = 0 →
      (bits r 31 24 = 0 ∨ 0x0A < bits r 31 24 → recordCause q i r = 0x09) ∧
      (1 ≤ bits r 31 24 → bits r 31 24 ≤ 0x0A → i ≠ 0 → (bits r 31 24 = 0x09 ∨ bits r 23 18 ≠ q.ctx) → recordCause q i r = 0x0A))) ∧
  (∀ (c : Chip) (i : Nat), (c.queues.getD i {}).expect % 64 ∈ (c.queues.getD i {}).dead → c.posted i = false ∧ c.nextQueue ≠ some i) ∧
  (∀ (s : State) (k : Cmd), s.chip.cmd? k.id = some k → k.started = false →
    (∀ (w : Nat × Nat × Bool) (rest : List (Nat × Nat × Bool)), k.waits = w :: rest → w.2.1 ≤ (s.chip.timelines.getD w.1 {}).done → w.2.2 = true →
      (s.chip.timelines.getD w.1 {}).failNo ≠ 0 → (s.chip.timelines.getD w.1 {}).failNo ≤ w.2.1 →
      cmdFails (.commandStart k.id) s k 0x08 (s.chip.timelines.getD w.1 {}).failNo) ∧
    ((∀ w ∈ k.waits, w.2.1 ≤ (s.chip.timelines.getD w.1 {}).done ∧
        (w.2.2 = true → (s.chip.timelines.getD w.1 {}).failNo = 0 ∨ w.2.1 < (s.chip.timelines.getD w.1 {}).failNo)) →
      (∀ j ∈ s.chip.cmds, j.queue = k.queue → j.id < k.id → j.started = true) →
      (k.typ ∈ [1, 2, 3, 5, 6, 10] → s.chip.ctx? k.ctx = none → cmdFails (.commandStart k.id) s k 0x04 0) ∧
      ((k.typ ∈ [2, 3, 5, 6, 10] → (s.chip.ctx? k.ctx).isSome = true) → (k.typ ∈ [2, 3, 5, 6] → s.chip.closing k.ctx = false) → k.typ ≠ 1 →
        (k.typ = 4 → s.chip.quiescent = true) →
        ∃ t, exec (.commandStart k.id) s = .next t ∧
          t.chip.cmds = s.chip.cmds.map (fun j => if j.id = k.id then
            { j with started := true, data := if k.typ = 7 then t.chip.dev.le (bits k.record 319 256) 128 else j.data } else j) ∧
          t.chip.dev.le (entryAddr s.chip k) 64 = k.journal 1 0 0 % 2 ^ 512 ∧ t.chip.timelines = s.chip.timelines ∧
          (∀ a, apart a 1 (entryAddr s.chip k) 64 → t.chip.dev.byte a = s.chip.dev.byte a) ∧ t.plat = s.plat))) ∧
  ∀ (x : CmdTimeline) (n cause : Nat), x.finished = [] → x.done + 1 = n →
    (x.finish n cause).done = n ∧ (x.finish n cause).finished = [] ∧ (x.finish n cause).issue = x.issue ∧
      (cause ≠ 0 → x.failNo = 0 → (x.finish n cause).failNo = n ∧ (x.finish n cause).failCause = cause) ∧
      (x.failNo ≠ 0 → x.failNo < n → (x.finish n cause).failNo = x.failNo ∧ (x.finish n cause).failCause = x.failCause) ∧
      (cause = 0 → (x.finish n cause).failNo = x.failNo)

/-- The commands on code and tables, once started.
A code load (R94, R95, R335) whose relocation records hold and whose one page is present in device memory writes the relocated image and sets the
page's rights; a record that does not hold fails it with its index, and a page that is not present, or whose memory key is not released (R377), with
0x04; it waits for an earlier load of its context (R391). That a key not released gives 0x04 (log 45), that records are judged before pages and that
loads wait for each other (log 59), and that routes leave out retired ports (log 84) are the model's readings. Relocation replaces one place field.
A view registration (R42, R43) waits for the accesses through its old windows, replaces the entry and drops L1 lines of those windows. A group
configuration (R308, R338) waits for a quiescent device and then replaces node, routes, parameters and groups. The invalidations (R299, R177) drop
cached translations, and complete when no access is under way that may have used one: of a range rounded out to pages of 2 MiB, which one entry may
cover (log 46). A queue configuration (R335) sets the queue anew, and a disable discards the records in its slots; of queue 0 it changes the priority
alone. -/
def Obligations.DeviceCommands : Prop :=
  (∀ (s : State) (k : Cmd), begun s k 0x02 →
    let img := bits k.record 319 256;
    let load := bits k.record 383 320;
    let len := bits k.record 415 384;
    let n := bits k.record 447 416;
    let tab := bits k.record 511 448;
    let off := bits k.record 543 512;
    let rec_ := fun (i : Nat) => s.chip.dev.le (tab + 8 * i) 8;
    let page := load / 65536 * 65536;
    (s.chip.loadAhead k = true → exec (.codeLoad k.id) s = .next s) ∧
    (s.chip.loadAhead k = false → s.chip.regionReadable img len = false → cmdFails (.codeLoad k.id) s k 0x04 0) ∧
    (s.chip.loadAhead k = false → s.chip.regionReadable img len = true → s.chip.regionReadable tab (8 * n) = true → load + len ≤ 2 ^ 56 →
    (∀ i cause, i < n → (∀ j, j < i → s.chip.relocCause s.chip.retired len (rec_ j) = none) →
      s.chip.relocCause s.chip.retired len (rec_ i) = some cause → cmdFails (.codeLoad k.id) s k cause i) ∧
    ((∀ i, i < n → s.chip.relocCause s.chip.retired len (rec_ i) = none) → 0 < len → load % 65536 + len ≤ 65536 →
      (s.chip.leafAt k.ctx page = none → cmdFails (.codeLoad k.id) s k 0x04 0) ∧
      ∀ a, s.chip.leafAt k.ctx page = some a →
        let e := s.chip.dev.le a 8;
        let frame := bits e 51 16 * 65536;
        let bytes := (List.range n).foldl (fun m i => s.chip.relocate s.chip.retired m (rec_ i)) (Mem.setBytes [] 0 (s.chip.dev.bytes img len));
        (bit e 8 = false → s.chip.isLocked frame = true → cmdFails (.codeLoad k.id) s k 0x04 0) ∧
        (bit e 8 = false → s.chip.isLocked frame = false → apart frame 65536 a 8 → apart frame 65536 (entryAddr s.chip k) 64 → apart a 8 (entryAddr s.chip k) 64 →
        (n = 0 → ∀ j, j < len → bytes.byte j = s.chip.dev.byte (img + j)) ∧
        ∃ t, exec (.codeLoad k.id) s = .next t ∧ cmdOver s.chip t.chip k 0 0 ∧
          (∀ j, j < len → t.chip.dev.byte (frame + load % 65536 + j) = bytes.byte j) ∧
          bits (t.chip.dev.le a 8) 4 2 = 1 + (if off < len then 2 else 0) + (if 0 < off then 4 else 0) ∧
          (∀ i, i < 64 → (i < 2 ∨ 4 < i) → bit (t.chip.dev.le a 8) i = bit e i) ∧
          (∀ b, apart b 1 (frame + load % 65536) len → apart b 1 a 8 → apart b 1 (entryAddr s.chip k) 64 → t.chip.dev.byte b = s.chip.dev.byte b) ∧
          t.chip.squads = s.chip.squads ∧ t.chip.host = s.chip.host ∧ t.plat = s.plat)))) ∧
  (∀ (c : Chip) (retired : List Nat) (len w v : Nat) (m : Mem), c.relocCause retired len w = none →
    let at_ := 8 * bits w 63 32;
    let low := bits w 31 26;
    let kind := bits w 25 22;
    let n := if kind = 1 then 7 else if kind = 2 then 10 else 12;
    c.placeOf retired kind (bits w 21 0) = some v → v < 2 ^ n →
    bits ((c.relocate retired m w).le at_ 8) (low + n - 1) low = v ∧
      (∀ i, i < 64 → (i < low ∨ low + n ≤ i) → bit ((c.relocate retired m w).le at_ 8) i = bit (m.le at_ 8) i) ∧
      ∀ b, apart b 1 at_ 8 → (c.relocate retired m w).byte b = m.byte b) ∧
  (∀ (s : State) (k : Cmd) (x : Ctx), begun s k 0x03 → s.chip.ctx? k.ctx = some x → k.ctx < s.chip.ctxs.length →
    let i := bits k.record 263 256;
    let e := bits k.record 767 512;
    let old := fun (va : Nat) => x.views.any fun v => v.idx == i && v.holds va;
    (bit e 83 = true → s.chip.viewCause x i e ≠ 0 → cmdFails (.viewRegistration k.id) s k (s.chip.viewCause x i e) 0) ∧
    (bits e 82 0 ≠ 0 ∨ bits e 85 84 = 3 → s.chip.viewCause x i e = 0x01) ∧
    ((bit e 83 = true → s.chip.viewCause x i e = 0) → s.chip.accessesIn k.ctx old = true → exec (.viewRegistration k.id) s = .next s) ∧
    ((bit e 83 = true → s.chip.viewCause x i e = 0) → s.chip.accessesIn k.ctx old = false →
      ∃ t, exec (.viewRegistration k.id) s = .next t ∧ cmdOver s.chip t.chip k 0 0 ∧
        t.chip.ctx? k.ctx = some { x with views := x.views.filter (fun v => v.idx != i) ++ if bit e 83 then [View.ofEntry i e] else [] } ∧
        (∀ n, ∀ y ∈ (t.chip.core n).l1, y ∈ (s.chip.core n).l1 ∧ ¬(y.ctx = k.ctx ∧ old y.va = true)) ∧ t.chip.squads = s.chip.squads ∧ t.plat = s.plat)) ∧
  (∀ (s : State) (k : Cmd), begun s k 0x04 →
    let b := bits k.record 319 256;
    let entry := fun (i : Nat) => s.chip.dev.le (b + 0x1010 + 16 * i) 16;
    let p := s.chip.dev.le (b + 0x1000) 16;
    (s.chip.quiescent = false → exec (.groupConfiguration k.id) s = .next s) ∧
    (s.chip.quiescent = true → s.chip.regionReadable b 0x2010 = false → cmdFails (.groupConfiguration k.id) s k 0x04 0) ∧
    (s.chip.quiescent = true → s.chip.regionReadable b 0x2010 = true → (∃ i, i < 256 ∧ (bits (entry i) 127 104 ≠ 0 ∨ bits (entry i) 9 1 ≠ 0)) →
      cmdFails (.groupConfiguration k.id) s k 0x01 0) ∧
    (s.chip.quiescent = true → s.chip.regionReadable b 0x2010 = true → (∀ i, i < 256 → bits (entry i) 127 104 = 0 ∧ bits (entry i) 9 1 = 0) →
      ∃ t, exec (.groupConfiguration k.id) s = .next t ∧ cmdOver s.chip t.chip k 0 0 ∧ t.chip.fab.node = bits k.record 329 320 ∧
        (∀ i, i < 1024 → Sparse.get 0 t.chip.fab.routes i = BitVec.ofNat 32 (s.chip.dev.le (b + 4 * i) 4) &&& ~~~s.chip.retiredPorts) ∧
        t.chip.fab.params = { timeout := bits p 127 112, target := bits p 111 96, step := bits p 95 88, gain := bits p 87 80, minimum := bits p 79 64
                              maximum := bits p 63 48, parkDepth := bits p 47 40, wakeDepth := bits p 39 32, parkInterval := bits p 31 16 } ∧
        (∀ i, i < 256 → t.chip.fab.groups[i]? = some (if bit (entry i) 0 then
            some { offset := bits (entry i) 103 64, key := bits (entry i) 63 48, index := bits (entry i) 47 40, rank := bits (entry i) 39 30
                   root := bits (entry i) 29 20, count := bits (entry i) 19 10 + 1 }
          else none)) ∧ t.chip.fab.expo = s.chip.fab.expo ∧ t.chip.squads = s.chip.squads ∧ t.plat = s.plat)) ∧
  (∀ (s : State) (k : Cmd), begun s k 0x05 →
    ∃ t, exec (.fabricTableInvalidation k.id) s = .next t ∧ t.chip.fab = { s.chip.fab with tlb := s.chip.fab.tlb.filter fun x => x.ctx != k.ctx } ∧
      t.chip.squads = s.chip.squads ∧ t.plat = s.plat ∧
      let peers := ∃ r ∈ s.chip.requests, r.ctx = k.ctx ∧ ∃ a ∈ r.accs, a.open_ = true ∧ a.fab.isSome = true;
      ((∃ o ∈ s.chip.fab.out, o.ctx = k.ctx) ∨ peers → t.chip.cmds = s.chip.cmds) ∧
      (¬ peers → (∀ o ∈ s.chip.fab.out, o.ctx ≠ k.ctx) → (∀ f ∈ s.chip.fab.cmds, f.ctx ≠ k.ctx) → (∀ n ∈ s.chip.cores, ∀ w ∈ n.wc, k.ctx ∉ w.ctxs) →
        cmdOver s.chip t.chip k 0 0)) ∧
  (∀ (s : State) (k : Cmd), begun s k 0x06 →
    let lo := bits k.record 319 256;
    let len := bits k.record 383 320;
    let left := fun (new old : List TlbEntry) => new = old.filter fun x => !(x.ctx == k.ctx && x.within lo len);
    let reached := fun (va : Nat) => len == 0 || (decide (va / 2 ^ 21 ≤ (lo + len - 1) / 2 ^ 21) && decide (lo / 2 ^ 21 ≤ (va + 127) / 2 ^ 21));
    ∃ t, exec (.tlbInvalidation k.id) s = .next t ∧ (∀ n, left (t.chip.core n).tlb (s.chip.core n).tlb) ∧
      (∀ d, left (t.chip.tlb2.getD d []) (s.chip.tlb2.getD d [])) ∧ t.chip.squads = s.chip.squads ∧ t.plat = s.plat ∧
      (s.chip.accessesIn k.ctx reached = true → t.chip.cmds = s.chip.cmds) ∧
      (s.chip.accessesIn k.ctx reached = false → cmdOver s.chip t.chip k 0 0)) ∧
  ∀ (s : State) (k : Cmd), begun s k 0x09 →
    let i := bits k.record 261 256;
    let prio := bits k.record 266 264;
    i < s.chip.queues.length →
    (i = 0 → bit k.record 267 = false → cmdFails (.queueConfiguration k.id) s k 0x04 0) ∧
    ((i ≠ 0 ∨ bit k.record 267 = true) →
      ∃ t, exec (.queueConfiguration k.id) s = .next t ∧ cmdOver s.chip t.chip k 0 0 ∧
        t.chip.queues.getD i {} = (if i = 0 then { (s.chip.queues.getD 0 {}) with prio }
          else { enabled := bit k.record 267, prio, ctx := bits k.record 273 268, expect := 1
                 dead := if bit k.record 267 then (s.chip.queues.getD i {}).dead else List.range 64 }) ∧
        (∀ j, j ≠ i → t.chip.queues.getD j {} = s.chip.queues.getD j {}) ∧ t.chip.squads = s.chip.squads ∧ t.plat = s.plat)

/-- A context is created from the record that the command read when it started, with its error and page-fault queues empty (R325, R352); it fails where the
context exists, where the record has reserved bits, or where a region it names does not exist.
A teardown (R302, R353) leaves no squad, launch, access, thread or core set of the context; once its exit records are written and its exposure entries are
closed it ends, and the context's places on cores and benches are free; without a context it fails.
A page-fault resolution (R179) ends the fault: squads that wait for the page go on; accesses that wait fail with reason 3 where it is reported
unresolvable, and so do what engines wait to do with that page and a join's spill, when they are tried again (R179, R273); a number that no fault has
fails. -/
def Obligations.ContextCommands : Prop :=
  (∀ (s : State) (k : Cmd), begun s k 0x07 → k.ctx < s.chip.ctxs.length →
    let a := bits k.record 319 256;
    let r := k.data;
    let x := Ctx.ofRecord r;
    ((s.chip.ctx? k.ctx).isSome = true → cmdFails (.contextCreate k.id) s k 0x04 0) ∧
    (s.chip.ctx? k.ctx = none → a % 128 ≠ 0 → cmdFails (.contextCreate k.id) s k 0x01 0) ∧
    (s.chip.ctx? k.ctx = none → a % 128 = 0 → a < 2 ^ 57 → s.chip.regionReadable a 128 = false → cmdFails (.contextCreate k.id) s k 0x04 0) ∧
    (s.chip.ctx? k.ctx = none → a % 128 = 0 → a < 2 ^ 57 → s.chip.regionReadable a 128 = true →
      (bits r 1023 680 ≠ 0 ∨ bits r 607 604 ≠ 0 ∨ bits r 599 592 < 7 ∨ 16 < bits r 599 592 ∨ bits r 63 0 % 16384 ≠ 0 →
        cmdFails (.contextCreate k.id) s k 0x01 0) ∧
      (bits r 1023 680 = 0 → bits r 607 604 = 0 → x.badFields = false → s.chip.ctxRegions x = false → cmdFails (.contextCreate k.id) s k 0x04 0) ∧
      (bits r 1023 680 = 0 → bits r 607 604 = 0 → x.badFields = false → s.chip.ctxRegions x = true → apart x.errBase 64 x.pfBase 64 →
        apart x.errBase 64 (entryAddr s.chip k) 64 → apart x.pfBase 64 (entryAddr s.chip k) 64 →
        (x.level1 = bits r 63 0 ∧ x.trapvec = bits r 191 128 ∧ x.errBase = bits r 255 192 ∧ x.prio = bits r 602 600 ∧ x.views = [] ∧ x.faults = [] ∧
          x.closing = none) ∧
        ∃ t, exec (.contextCreate k.id) s = .next t ∧ cmdOver s.chip t.chip k 0 0 ∧ t.chip.ctx? k.ctx = some x ∧
          (∀ n, n ≠ k.ctx → t.chip.ctx? n = s.chip.ctx? n) ∧ t.chip.dev.le x.errBase 8 = 0 ∧ t.chip.dev.le (x.errBase + 8) 8 = 0 ∧
          t.chip.dev.le (x.errBase + 24) 8 = x.errCap ∧ t.chip.dev.le x.pfBase 8 = 0 ∧ t.chip.dev.le (x.pfBase + 8) 8 = 0 ∧
          t.chip.dev.le (x.pfBase + 24) 8 = x.pfCap ∧ t.chip.squads = s.chip.squads ∧ t.plat = s.plat))) ∧
  (∀ (s : State) (k : Cmd), begun s k 0x08 →
    (s.chip.ctx? k.ctx = none → cmdFails (.contextTeardown k.id) s k 0x04 0) ∧
    (s.chip.closing k.ctx = true → exec (.contextTeardown k.id) s = .next s) ∧
    ∀ x, s.chip.ctx? k.ctx = some x → x.closing = none → k.ctx < s.chip.ctxs.length →
      ∃ t, exec (.contextTeardown k.id) s = .next t ∧ t.plat = s.plat ∧
        t.chip.squads = s.chip.squads.filter (fun q => q.exe.ctx != k.ctx) ∧ t.chip.requests = s.chip.requests.filter (fun r => r.ctx != k.ctx) ∧
        t.chip.launches = s.chip.launches.filter (fun l => l.ctx != k.ctx) ∧ t.chip.updates = s.chip.updates.filter (fun u => u.ctx != k.ctx) ∧
        t.chip.coreSets = s.chip.coreSets.filter (fun y => y.ctx != k.ctx) ∧
        (∀ n i, (t.chip.thread? n i).isSome = true → ∃ th, s.chip.thread? n i = some th ∧ th.exe.ctx ≠ k.ctx) ∧
        (∀ j ∈ t.chip.cmds, j.ctx = k.ctx → j.id ≠ k.id → j.started = true) ∧
        (t.chip.ctx? k.ctx = none ∨ t.chip.closing k.ctx = true ∧ t.chip.formed = s.chip.formed) ∧
        (t.chip.ctx? k.ctx = none → (∀ j ∈ t.chip.cmds, j.id ≠ k.id) ∧ t.chip.formed = s.chip.formed.filter (fun f => f.ctx != k.ctx) ∧
          (∀ n, ∀ y ∈ (t.chip.core n).tlb, y.ctx ≠ k.ctx) ∧ (∀ n, ∀ y ∈ (t.chip.core n).bins, y.ctx ≠ k.ctx) ∧
          ∀ b ∈ t.chip.benches, b.accValid = true → b.accCtx ≠ k.ctx) ∧
        ((∀ e ∈ t.chip.exitRecords, e.ctx ≠ k.ctx) → (∀ e ∈ s.chip.fab.expo, e.state = 0 ∨ e.ctx ≠ k.ctx) → t.chip.ctx? k.ctx = none)) ∧
  ∀ (s : State) (k : Cmd) (x : Ctx), begun s k 0x0A → s.chip.ctx? k.ctx = some x → k.ctx < s.chip.ctxs.length →
    let num := bits k.record 319 256;
    ((∀ f ∈ x.faults, f.num ≠ num) → cmdFails (.pageFaultResolution k.id) s k 0x04 0) ∧
    ∀ f, x.faults.find? (fun g => g.num == num) = some f →
      s.chip.walkHeld k.ctx f.page = false →
      (bit k.record 320 = false → (∀ r ∈ s.chip.requests, r.ctx = k.ctx → ∀ a ∈ r.accs, a.status ≠ .faulted num) → (∀ r ∈ s.chip.requests, r.isOver = false) →
        ∃ t, exec (.pageFaultResolution k.id) s = .next t ∧ cmdOver s.chip t.chip k 0 0 ∧
          t.chip.ctx? k.ctx = some { x with faults := x.faults.filter fun g => g.num != num } ∧
          t.chip.squads = s.chip.squads.map (fun q => if q.exe.ctx = k.ctx ∧ q.parked = some num then { q with parked := none } else q) ∧
          (∀ n, ∀ y ∈ (t.chip.core n).tlb, ¬(y.ctx = k.ctx ∧ y.within f.page 65536 = true)) ∧ t.plat = s.plat) ∧
      (bit k.record 320 = true → (∀ q ∈ s.chip.squads, (q.parked = some num → q.spills f = true) ∧ q.awaiting = none) → (s.chip.requests.map (·.id)).Nodup →
        ∃ t, exec (.pageFaultResolution k.id) s = .next t ∧ cmdOver s.chip t.chip k 0 0 ∧
          t.chip.ctx? k.ctx = some { x with faults := x.faults.filter fun g => g.num != num } ∧
          (∀ r ∈ s.chip.requests, r.ctx = k.ctx → r.returns = true → (r.accs.map (·.lane)).Nodup →
            ∃ y, t.chip.request? r.id = some y ∧
              y.accs = r.accs.map fun a => if a.status = .faulted num then { a with status := .failed 3 } else a) ∧
          (∀ w ∈ f.waiters, (w, f.page) ∈ t.chip.failed ↔ (w, f.page) ∈ s.chip.failed ∨ s.chip.squad? w = none ∨
              (∃ q, s.chip.squad? w = some q ∧ (q.spills f = true ∨ ∃ x ∈ s.chip.exitRecords, x.id = w))) ∧
          (∀ w page, page ≠ f.page → ((w, page) ∈ t.chip.failed ↔ (w, page) ∈ s.chip.failed)) ∧ t.plat = s.plat)

/-! ### The context engine -/

/-- A formed squad once what leaves core n has been recalled (R36, R361): there it is saved with its context, and no place on n stays chosen. -/
def recalled (n : Nat) (leaves : Formed → Bool) (f : Formed) : Formed :=
  if leaves f then { f with saves := f.saves || f.core == n, place := f.place.filter fun p => f.core != n && p.core != n } else f

/-- The pre-emption of context x on core n for the sake of context w begins (R354, R36): the context's bins form squads at once, and what waits for dispatch
is recalled. -/
def preemptBegins (s t : State) (n x w : Nat) : Prop :=
  (t.chip.core n).preempt = some x ∧ (t.chip.core n).preemptBy = w ∧ (t.chip.core n).bins = (s.chip.core n).bins.filter (fun b => b.ctx != x) ∧
    (∃ fs, t.chip.formed = (s.chip.formed ++ fs).map (recalled n fun f => f.ctx == x) ∧
      fs.map (fun f => (f.core, f.ctx, f.entry, f.muster, f.threads)) =
        ((s.chip.core n).bins.filter fun b => b.ctx == x).map (fun b => (n, x, b.entry, b.muster, b.threads))) ∧
    t.chip.squads = s.chip.squads ∧ t.plat = s.plat ∧ ∀ a, t.chip.byteAt a = s.chip.byteAt a

/-- A context leaves a core (R354, R36). Of the residents that some waiting context pushes off the core, by a higher priority or by an equal one where
their slice may have expired, one is chosen: of those that go at once, one of the lowest priority, there the one of the lowest number or one with a
slice; or one with a slice that gives way to an equal of no higher priority than those. When slices expire is a matter of time: the model's choice
(log 68). A core has one request in progress; a request for a context that moves off the core waits for the end of the move (R361).
A squad that has stopped at a safe point with nothing outstanding is saved (R355, R356): its image in the lowest free slot holds its number, entry
states, lane states, saved pcs, flags, uniform registers and general registers, and the squad is gone from its bench. A reply for a saved squad, an
escorted one too, is written into the image but for lanes that have exited, and what failed of it traps after the restore (R141, R179, R357).
With the last squad saved and no scratch access of it under way, the core state of a muster is saved (R358): its record holds the slots' counters and
the window's bytes, and the core is free of it. -/
def Obligations.ContextsLeave : Prop :=
  (∀ (s : State) (n : Nat), n < s.chip.cores.length →
    ((s.chip.core n).preempt.isSome = true → exec (.preemptionRequest n) s = .next s) ∧
    ((∃ m ∈ s.chip.moves, m.core = n ∧ m.asked.isSome = true) → exec (.preemptionRequest n) s = .next s) ∧
    ((s.chip.core n).preempt = none → (∀ m ∈ s.chip.moves, m.core = n → m.asked = none) →
      (∀ a, s.chip.asked.find? (fun a => a.1 == n && (s.chip.residents n).contains a.2.1) = some a → (∀ m ∈ s.chip.moves, m.core ≠ n) →
        ∃ t, exec (.preemptionRequest n) s = .next t ∧ preemptBegins s t n a.2.1 a.2.2 ∧ t.chip.asked = s.chip.asked.filter fun b => b != a) ∧
      ((∀ a ∈ s.chip.asked, a.1 = n → a.2.1 ∉ s.chip.residents n) →
        let waits := fun (w : Nat) => w < 64 ∧ (s.chip.ctx? w).isSome = true ∧ s.chip.waitsFor w n = true;
        let here := fun (x : Nat) => x < 64 ∧ x ∈ s.chip.residents n ∧ (s.chip.ctx? x).isSome = true;
        let now := fun (x : Nat) => here x ∧ ∃ w, waits w ∧ s.chip.prio x < s.chip.prio w;
        let late := fun (x : Nat) => here x ∧ s.chip.slice x ≠ 0 ∧ ∃ w, waits w ∧ w ≠ x ∧ s.chip.prio x = s.chip.prio w;
        let chosen := fun (x : Nat) =>
          (now x ∧ (∀ y, now y → s.chip.prio x ≤ s.chip.prio y) ∧ (s.chip.slice x ≠ 0 ∨ ∀ y, now y → s.chip.prio y = s.chip.prio x → x ≤ y)) ∨
            (late x ∧ ∀ y, now y → s.chip.prio x ≤ s.chip.prio y);
        let pushes := fun (w x : Nat) => waits w ∧ (s.chip.prio x < s.chip.prio w ∨ (w ≠ x ∧ s.chip.prio x = s.chip.prio w ∧ s.chip.slice x ≠ 0));
        ((∀ x, ¬ now x ∧ ¬ late x) → exec (.preemptionRequest n) s = .next s) ∧
        ((∃ x, now x ∨ late x) → (∀ m ∈ s.chip.moves, m.core ≠ n) →
          ∃ t x w, exec (.preemptionRequest n) s = .next t ∧ chosen x ∧ pushes w x ∧ preemptBegins s t n x w) ∧
        ((∃ x, now x ∨ late x) → (∀ x, chosen x → s.chip.moving x n = true) →
          ∃ t x w, exec (.preemptionRequest n) s = .next t ∧ chosen x ∧ pushes w x ∧ t.chip.cores = s.chip.cores ∧ t.chip.squads = s.chip.squads ∧
            t.plat = s.plat ∧ t.chip.moves = s.chip.moves.map fun m =>
              if m.core = n ∧ ((s.chip.launch? m.launch).map (·.ctx)) = some x then { m with asked := some w } else m)))) ∧
  (∀ (s : State) (q : Squad) (h : DWord) (slot : Nat), s.chip.squad? q.uid = some q → s.chip.safeHeader q = some h → q.exe.inClause = false →
    q.dead = false → q.deferred = none → (s.chip.core q.place.core).preempt = some q.exe.ctx → q.region = none → q.restart = false → q.evicted = none →
    (∀ r ∈ s.chip.requests, r.agent ≠ .squad q.uid) → (∀ u ∈ s.chip.updates, u.uid ≠ some q.uid) → (∀ f ∈ s.chip.fab.cmds, f.uid ≠ q.uid) →
    (∀ w ∈ (s.chip.core q.place.core).wc, q.uid ∉ w.squads) → (∀ x ∈ (s.chip.benchOf q).landing, x.uid ≠ q.uid) →
    s.chip.freeImage q.exe.ctx = some slot → q.exe.declared ≤ 240 →
    q.exe.mslots.length = 4 → q.exe.flags.length = 7 → q.st.length = 32 → q.burgees.length = 12 → q.pennants.length = 12 → q.ensigns.length = 4 →
    q.handles.length = 16 → q.lpc.length = 32 →
    let img := s.chip.image q.exe.ctx slot;
    let map := fun (c : Chip) => c.dev.le (img + 0x700) 32;
    ∃ t cs v, exec (.squadSave q.uid) s = .next t ∧ t.chip.squads = s.chip.squads.filter (fun x => x.uid != q.uid) ∧ cs ∈ t.chip.coreSets ∧
      cs.ctx = q.exe.ctx ∧ cs.core = q.place.core ∧ cs.complete = false ∧ cs.target = none ∧ v ∈ cs.squads ∧ v.uid = q.uid ∧ v.slot = slot ∧
      v.launch = q.launch ∧ v.resume = q.resume ∧
      t.chip.dev.le img 4 = 0 ∧ t.chip.dev.le (img + 0x008) 4 = q.number % 2 ^ 32 ∧ t.chip.dev.le (img + 0x00C) 4 = q.scfMask.toNat ∧
      (∀ l, l < 32 → t.chip.dev.le (img + 0x200 + 8 * l) 8 = q.lpc.getD l 0 % 2 ^ 64 ∧
        ∀ k, k < 7 → bit (t.chip.dev.le (img + 0x070 + l) 1) k = q.exe.flag k l) ∧
      (∀ k, k < 64 → t.chip.dev.le (img + 0x300 + 4 * k) 4 = (q.exe.uniReg k).toNat) ∧
      ((∀ l b, q.state l = .burgeeWait b → b < 12) → ∀ l, l < 32 → bits (t.chip.dev.le (img + 0x020) 16) (4 * l + 3) (4 * l) = (q.state l).code) ∧
      (∀ k, k < 12 → t.chip.dev.le (img + 0x030 + 4 * k) 4 = (q.burgees.getD k 0).toNat ∧
        t.chip.dev.le (img + 0x060 + k) 1 = q.pennants.getD k 0 % 2 ^ 8) ∧
      (∀ n l, n < 8 * bits h.toNat 31 24 → n < 240 → l < 32 →
        if bit (map t.chip) n then t.chip.dev.le (img + 0x800 + 128 * mapRank (map t.chip) n + 4 * l) 4 = (q.exe.reg n l).toNat else q.exe.reg n l = 0) ∧
      (∀ a, apart a 1 img 32768 → t.chip.dev.byte a = s.chip.dev.byte a) ∧ t.chip.host = s.chip.host ∧ t.plat = s.plat) ∧
  (∀ (s : State) (r : Request) (uid x : Nat) (v : SavedSquad), s.chip.request? r.id = some r → r.agent = .squad uid → s.chip.squad? uid = none →
    s.chip.saved? uid = some (x, v) → r.isOver = true → r.returns = true → r.size ∈ [1, 2, 4, 8] → r.size = tyBytes r.ty →
    (∀ a ∈ r.accs, a.lane < 32 ∧ ∀ bs, a.status = .done bs → bs.length = r.size) → (r.accs.map (·.lane)).Nodup → (∀ k, r.pennant = some k → k < 12) →
    (r.escorted = true → (r.escort.map (·.1)).Nodup ∧ ∀ e ∈ r.escort, e.2.length = 32) →
    let img := s.chip.image x v.slot;
    let map := s.chip.dev.le (img + 0x700) 32;
    let word := fun (c : Chip) (n l : Nat) => c.dev.le (img + 0x800 + 128 * mapRank map n + 4 * l) 4;
    0 < s.chip.dev.le img 4 → map < 2 ^ 240 →
    ∃ t, exec (.savedReply r.id) s = .next t ∧ t.chip.request? r.id = none ∧ t.chip.dev.le img 4 = s.chip.dev.le img 4 - 1 ∧
      (∀ k, r.pennant = some k → t.chip.dev.le (img + 0x60 + k) 1 = s.chip.dev.le (img + 0x60 + k) 1 - 1) ∧
      (∀ n l, n < 240 → l < 32 → bit map n = true →
        (v.st.getD l .exited = .exited → word t.chip n l = word s.chip n l) ∧
        (v.st.getD l .exited ≠ .exited →
          (r.escorted = false → word t.chip n l = ((returnedWord r n l).map BitVec.toNat).getD (word s.chip n l)) ∧
          (r.escorted = true → word t.chip n l = match r.escort.find? fun e => e.1 == n with
            | some e => ((returnedWord r n l).getD (e.2.getD l 0)).toNat
            | none => word s.chip n l))) ∧
      t.chip.saved? uid = some (x, { v with deferred := r.defer v.deferred }) ∧
      (∀ a, apart a 1 img 32768 → t.chip.dev.byte a = s.chip.dev.byte a) ∧ t.chip.squads = s.chip.squads ∧ t.plat = s.plat) ∧
  ∀ (s : State) (n x slot : Nat) (l : Launch) (m : Muster) (w : Window), n < s.chip.cores.length → (s.chip.core n).preempt = some x →
    (∀ q ∈ s.chip.squads, ¬(q.place.core = n ∧ q.exe.ctx = x)) → (∀ f ∈ s.chip.formed, ¬(f.core = n ∧ f.ctx = x)) →
    (∀ b ∈ (s.chip.core n).bins, b.ctx ≠ x) → (∀ y ∈ s.chip.launches, y.ctx = x → ∀ p ∈ y.placing, p.2.core ≠ n) → s.chip.mustersOn n (fun y _ => y.ctx == x) = [(l, m)] → s.chip.slotsQuiet n l m = true →
    (∀ r ∈ s.chip.rings, r.ctx ≠ x) → s.chip.scratchOpen x n = false →
    s.chip.threadsQuiet n l.id m.idx = true → s.chip.freeRecords x 1 = some [slot] → (s.chip.core n).window? l.id m.idx = some w →
    let base := s.chip.musterRecord x slot;
    ∃ t cs, exec (.musterCoreSave n) s = .next t ∧ (t.chip.core n).preempt = none ∧ cs ∈ t.chip.coreSets ∧ cs.ctx = x ∧ cs.core = n ∧
      cs.complete = true ∧ (l.id, m.idx, slot) ∈ cs.musters ∧ (t.chip.core n).window? l.id m.idx = none ∧
      (∀ off, off < 128 * w.lines → t.chip.dev.byte (base + 0x30000 + off) = s.chip.byteAt (.scr n (128 * w.base + off))) ∧
      (∀ i, i < 64 → bit m.timelines i = true →
        (((s.chip.core n).slots.getD i {}).issue < 2 ^ 64 →
          t.chip.dev.le (base + 0x40 + 16 * i) 8 = ((s.chip.core n).slots.getD i {}).issue ∧
          t.chip.dev.le (base + 0x48 + 16 * i) 8 = ((s.chip.core n).slots.getD i {}).done % 2 ^ 64) ∧
        (l.id, m.idx) ∉ ((t.chip.core n).slots.getD i {}).owners) ∧
      t.chip.squads = s.chip.squads ∧ t.chip.host = s.chip.host ∧ t.plat = s.plat

/-- The squad that an image holds, restored on core n (R356, R359). -/
def squadBack (c : Chip) (k : CoreSet) (v : SavedSquad) (n : Nat) (q : Squad) : Prop :=
  let img := c.image k.ctx v.slot;
  let map := c.dev.le (img + 0x700) 32;
  q.uid = v.uid ∧ q.place.core = n ∧ q.launch = v.launch ∧ q.exe.ctx = k.ctx ∧ q.number = c.dev.le (img + 8) 4 ∧ q.resume = v.resume ∧
    q.exe.inClause = false ∧ q.byTransfer = 0 ∧ q.deferred = v.deferred ∧
    (∀ r l, r < 240 → l < 32 → q.exe.reg r l =
      if bit map r then BitVec.ofNat 32 (c.dev.le (img + 0x800 + 128 * mapRank map r + 4 * l) 4) else 0) ∧
    (∀ i, i < 64 → q.exe.uniReg i = BitVec.ofNat 32 (c.dev.le (img + 0x300 + 4 * i) 4)) ∧
    ∀ l, l < 32 → q.lpc.getD l 0 = c.dev.le (img + 0x200 + 8 * l) 8 ∧ ∀ j, j < 7 → q.exe.flag j l = bit (c.dev.le (img + 0x70 + l) 1) j

/-- A muster's window is on core n again with the bytes, presence bits and written bits of its record (R358, R359). -/
def windowBack (c d : Chip) (k : CoreSet) (m : Nat × Nat × Nat) (n : Nat) : Prop :=
  let base := c.musterRecord k.ctx m.2.2;
  let hdr := c.dev.le base 64;
  let lines := bits hdr 143 128;
  lines ≠ 0 → ∃ w, (d.core n).window? m.1 m.2.1 = some w ∧ w.lines = lines ∧ w.check = bits hdr 151 144 ∧
    (∀ i, i < lines → Sparse.get false (d.core n).absent (w.base + i) = !bit (c.dev.le (base + 0x440) 2048) i ∧
      Sparse.get false (d.core n).written (w.base + i) = bit (c.dev.le (base + 0xC40) 2048) i) ∧
    ∀ off, off < 128 * lines → d.byteAt (.scr n (128 * w.base + off)) = c.dev.byte (base + 0x30000 + off)

/-- A saved core set comes back (R357, R359): once its replies have landed, the first core that takes it has its squads again, in ascending number, each
on a place of its own with the registers, flags and pcs of its image; its musters' windows and timeline counters, its queues and its quarry threads. A
cluster that gates or is off leaves that state first.
A closed bench without squads gives up its banks and is retired (R360, R381). A migration (R361) begins where the group may move, and its bins form
squads; a move in which some squad has not stopped and none is saved may be abandoned: its squads go on, and a pre-emption that was asked for
meanwhile begins, or waits for the one in progress.
The model's choices: threads and queues come back from the core set, whatever the record's bytes hold (log 73), and so do a squad's launch and resume
positions, which the image does not hold (log 72). -/
def Obligations.ContextsReturn : Prop :=
  (∀ (s : State) (k : CoreSet) (n : Nat) (d : Chip), s.chip.coreSets.find? (fun x => x.id == k.id) = some k → k.complete = true →
    s.chip.bindings k = [] → n < s.chip.cores.length → (∀ v ∈ k.squads, s.chip.dev.le (s.chip.image k.ctx v.slot) 4 = 0) →
    (s.chip.setCores k).findSome? (fun n => (s.chip.setOnto k n).map fun d => (n, d)) = some (n, d) →
    (s.chip.coreOn n = true →
      ∃ t qs, exec (.coreSetRestore k.id) s = .next t ∧ t.chip.squads = s.chip.squads ++ qs ∧ qs.length = k.squads.length ∧
        (∀ v ∈ k.squads, ∃ q ∈ qs, squadBack s.chip k v n q) ∧ qs.Pairwise (fun a b => a.number ≤ b.number) ∧
        (s.chip.squads ++ qs).Pairwise (fun a b => b ∈ qs → a.place ≠ b.place) ∧
        ((k.musters.map fun m => (m.1, m.2.1)).Nodup → ∀ m ∈ k.musters, (s.chip.core n).window? m.1 m.2.1 = none → windowBack s.chip t.chip k m n) ∧
        (∀ m ∈ k.musters, ∀ i, i < (s.chip.core n).slots.length → ((s.chip.core n).slots.getD i {}).owners = [] →
          let base := s.chip.musterRecord k.ctx m.2.2;
          bit (s.chip.dev.le base 64) i = true → (∀ y ∈ k.musters, y ≠ m → bit (s.chip.dev.le (s.chip.musterRecord k.ctx y.2.2) 64) i = false) →
          k.musters.Nodup →
          let x := (t.chip.core n).slots.getD i {};
          x.issue = s.chip.dev.le (base + 0x40 + 16 * i) 8 ∧ x.done = s.chip.dev.le (base + 0x48 + 16 * i) 8 ∧
            x.fault = bit (s.chip.dev.le (base + 8) 8) i ∧ x.owners = [(m.1, m.2.1)]) ∧
        ((s.chip.core n).threads.length = 16 → ∀ e ∈ k.threads, ∃ i, i < 16 ∧ s.chip.thread? n i = none ∧
          t.chip.thread? n i = some { e.2 with byTransfer := false, exe := { e.2.exe with core := n, thread := some i } }) ∧
        ((s.chip.core n).threads.length = 16 → (s.chip.core n).queues.length = 16 → (k.queues.map (·.1)).Nodup → (k.threads.map (·.1)).Nodup →
          ∀ e ∈ k.queues, e.1 < 16 → ∃ i, t.chip.queue n e.1 = { e.2 with thread := i } ∧
            (e.2.ended = false → ∀ x ∈ k.threads, x.1 = e.2.thread →
              t.chip.thread? n i = some { x.2 with byTransfer := false, exe := { x.2.exe with core := n, thread := some i } })) ∧
        (∀ e ∈ s.chip.setMusters k, ∀ m, t.chip.muster? e.1 e.2 = some m → n ∈ m.cores) ∧
        t.chip.coreSets = s.chip.coreSets.filter (fun x => x.id != k.id) ∧ (k.squads ≠ [] → (t.chip.core n).l1 = []) ∧ offChip s.chip t.chip ∧
        (k.musters = [] → ∀ a, t.chip.byteAt a = s.chip.byteAt a) ∧ t.plat = s.plat) ∧
    ∀ p, s.chip.clusterOf n = some p → s.chip.coreOn n = false →
      (s.powerOf p.1 = .gating → exec (.coreSetRestore k.id) s = .next (s.setPower p.1 .abandoning)) ∧
      (s.powerOf p.1 = .off → exec (.coreSetRestore k.id) s = .next (s.setPower p.1 .waking))) ∧
  (∀ (s : State) (n b : Nat), 6 * n + b < s.chip.benches.length →
    ((s.chip.bench n b).closed = false → exec (.benchCloseSpill n b) s = .next s) ∧
    ((s.chip.bench n b).closed = true → s.chip.onBench n b = [] → (s.chip.bench n b).drains = [] →
      ∃ t, exec (.benchCloseSpill n b) s = .next t ∧ (t.chip.bench n b).enabled = false ∧ (t.chip.bench n b).accValid = false ∧
        (t.chip.bench n b).service = none ∧ (t.chip.bench n b).closed = true ∧
        (∀ i, 6 * n + b ≠ i → t.chip.benches.getD i {} = s.chip.benches.getD i {}) ∧
        ((s.chip.bench n b).accValid = false → ∀ a, t.chip.byteAt a = s.chip.byteAt a) ∧
        ((s.chip.bench n b).accValid = true → ∀ i w, i < 16 → w < 1024 → (s.chip.bench n b).modes.getD i .free ≠ .free →
          (s.chip.bench n b).val i w < 2 ^ 32 →
          t.chip.dev.le (s.chip.saveArea (s.chip.bench n b).accCtx n b + 8192 * i + 4 * w) 4 = (s.chip.bench n b).val i w) ∧
        t.chip.squads = s.chip.squads ∧ t.chip.host = s.chip.host ∧ t.plat = s.plat)) ∧
  (∀ (s : State) (l : Launch) (m : Muster) (n n' : Nat), s.chip.launch? l.id = some l → s.chip.muster? l.id m.idx = some m →
    (s.chip.mayMove l m n n' = false → exec (.migration l.id m.idx n n') s = .next s) ∧
    (s.chip.mayMove l m n n' = true →
      let ours := fun (b : Bin) => b.launch == l.id && match b.muster with
        | some i => (l.groupOf m.idx).contains i
        | none => false;
      m.place = 2 ∧ n ∈ m.cores ∧ n ≠ n' ∧ (s.chip.core n').enabled = true ∧
      ∃ t fs, exec (.migration l.id m.idx n n') s = .next t ∧
        t.chip.moves = s.chip.moves ++ [{ launch := l.id, muster := m.idx, core := n, target := n' }] ∧
        (t.chip.core n).bins = (s.chip.core n).bins.filter (fun b => !ours b) ∧
        t.chip.formed = (s.chip.formed ++ fs).map (recalled n fun f => f.launch == l.id && f.muster.any (l.groupOf m.idx).contains) ∧
        (∀ f ∈ fs, f.core = n) ∧ fs.map (·.threads) = ((s.chip.core n).bins.filter ours).map (·.threads) ∧ t.chip.squads = s.chip.squads ∧ t.plat = s.plat ∧
        ∀ a, t.chip.byteAt a = s.chip.byteAt a)) ∧
  ∀ (s : State),
    ((∀ m ∈ s.chip.moves, s.chip.allStopped m = true ∨ s.chip.moveSaves m = true) → exec .migrationAbandon s = .next s) ∧
    ∀ m, s.chip.moves.find? (fun m => !s.chip.allStopped m && !s.chip.moveSaves m) = some m →
      let ended : State := { s with chip := { s.chip with
        squads := s.chip.squads.map fun q => if s.chip.moveOf q = some m then { q with stopped := false } else q
        formed := s.chip.formed.map fun f => if f.core = m.core ∧ s.chip.inGroup m f.launch [f.muster] = true then { f with saves := false } else f
        moves := s.chip.moves.filter fun x => x != m } };
      (m.asked = none → exec .migrationAbandon s = .next ended) ∧
      ∀ w l, m.asked = some w → s.chip.launch? m.launch = some l → m.core < s.chip.cores.length →
        ((s.chip.core m.core).preempt = none →
          ∃ t, exec .migrationAbandon s = .next t ∧ t.chip.squads = ended.chip.squads ∧ t.chip.moves = ended.chip.moves ∧
            (t.chip.core m.core).preempt = some l.ctx ∧ (t.chip.core m.core).preemptBy = w ∧ t.plat = s.plat) ∧
        ((s.chip.core m.core).preempt.isSome = true →
          exec .migrationAbandon s = .next { ended with chip := { ended.chip with asked := s.chip.asked ++ [(m.core, l.ctx, w)] } })

/-! ### The platform -/

/-- An event takes cluster n from one power state to another (R345, R346); every other cluster keeps its state, and squads and memory off the cores are
as before. -/
def powerMoves (i : Instr) (s : State) (n : Nat) (old new : ClusterPower) : Prop :=
  s.powerOf n = old → n < s.plat.power.length → n < s.chip.on.length →
    ∃ t, exec i s = .next t ∧ t.powerOf n = new ∧ t.chip.on.getD n true = (new == .on) ∧ (∀ m, m ≠ n → t.powerOf m = s.powerOf m) ∧
      t.chip.squads = s.chip.squads ∧ offChip s.chip t.chip ∧ t.plat = { s.plat with power := t.plat.power }

/-- What a whole chip keeps while its device writes a report: everything but device memory and the model's own count of free values. -/
def reportsOnly (c d : Chip) : Prop := { d with dev := c.dev, fresh := c.fresh } = c

/-- A DRAM channel works, by its kind-4 code: of a fitted stack or of the capacity tier, and not retired (R1, R2, R94, R381). -/
def channelFitted (c : Chip) (code : Nat) : Prop :=
  code ∉ c.retired ∧ ((code < 256 ∧ code / 32 ∈ c.fitted) ∨ (c.cap ≠ 0 ∧ 512 ≤ code ∧ code < 576))

/-- Power gating (R345, R346): an idle cluster that is On may begin to gate, and one that is not idle does not; a gating cluster goes Off, and its cores
lose scratch, presence, timeline counters, L1 and TLB (that these read zero, present and empty is the model's reading, log 79); a cluster whose gating
is abandoned, or that wakes, is On again. The watchdog reports a squad in a local wait with the row of R347 and the address where it waits.
The capacity tier (R366 to R368): halving halves every access count; where a capacity tier is provisioned, the group is not pinned and the member
exists and is held in a capacity slot, a swap is made when the member's count exceeds the fast member's by 16 or more: it exchanges the two slots, and
no address reads otherwise; with a smaller excess nothing is exchanged, and the two counts may have risen (how far is a free value, log 65), but not
where accesses to streaming ranges alone have reached the member (R369). The groups of a lay-by are pinned.
Refresh (R371): a tick lowers a working channel's balance by one, to no less than −8; a pull-in raises it, to no more than 8. Clocks (R20, R379):
after a window a core's clock goes one step down below a quarter of issuing cycles, and one step up from a half on; the package limiter holds an
enabled core at one of the clocks of R5 or below. Fillers (R380) change nothing that a program sees: their energy goes to contexts whose operations
the bench's engines ran. -/
def Obligations.PlatformUpkeep : Prop :=
  (∀ (s : State) (n : Nat),
    (s.chip.clusterIdle n = true → powerMoves (.clusterGateRequest n) s n .on .gating) ∧
    (s.chip.clusterIdle n = false → exec (.clusterGateRequest n) s = .next s) ∧
    powerMoves (.clusterGatingComplete n) s n .gating .off ∧
    (s.powerOf n = .gating → ∃ t, exec (.clusterGatingComplete n) s = .next t ∧ ∀ k ∈ s.chip.clusterCores n,
      (∀ off, t.chip.byteAt (.scr k.1 off) = 0) ∧ (∀ l, Sparse.get false (t.chip.core k.1).absent l = false) ∧ (t.chip.core k.1).l1 = [] ∧
        (t.chip.core k.1).tlb = [] ∧ ∀ i, ((t.chip.core k.1).slots.getD i {}).issue = 0 ∧ ((t.chip.core k.1).slots.getD i {}).done = 0) ∧
    powerMoves (.clusterGatingAbandon n) s n .abandoning .on ∧ powerMoves (.clusterWakeComplete n) s n .waking .on) ∧
  (∀ (s : State) (q : Squad) (x : Ctx) (row a : Nat), s.chip.squad? q.uid = some q → s.chip.ctx? q.exe.ctx = some x → x.watchdog ≠ 0 →
    (s.chip.localWait q = none → exec (.watchdogReport q.uid) s = .next s) ∧
    (s.chip.localWait q = some (row, a) → s.chip.queueRoom x.errBase x.errCap = true →
      ∃ t, exec (.watchdogReport q.uid) s = .next t ∧ appended s.chip t.chip x.errBase x.errCap
        (0x26 + row * 2 ^ 8 + q.place.slot * 2 ^ 30 + q.place.bench * 2 ^ 36 + q.place.core * 2 ^ 40 + a * 2 ^ 128 + a * 2 ^ 192) ∧
        reportsOnly s.chip t.chip ∧ t.plat = s.plat)) ∧
  (∀ (s : State), Sparse.Wf 0 s.plat.counts →
    ∃ t, exec .tierCountHalving s = .next t ∧ (∀ k, Sparse.get 0 t.plat.counts k = Sparse.get 0 s.plat.counts k / 2) ∧
      t.chip = s.chip ∧ t.plat = { s.plat with counts := t.plat.counts }) ∧
  (∀ (s : State) (g m : Nat),
    let e := s.plat.entry g;
    let f := memberAt e 0;
    let count := fun (p : Plat) (k : Nat) => Sparse.get 0 p.counts (4 * g + k);
    (s.chip.cap = 0 ∨ bit e.toNat 8 = true ∨ slotIn e m = 0 ∨ s.chip.memberExists g m = false → exec (.tierSwap g m) s = .next s) ∧
    (s.chip.cap ≠ 0 → bit e.toNat 8 = false → slotIn e m ≠ 0 → s.chip.memberExists g m = true →
      (count s.plat f + 16 ≤ count s.plat m →
        ∃ t, exec (.tierSwap g m) s = .next t ∧ slotIn (t.plat.entry g) m = slotIn e f ∧ slotIn (t.plat.entry g) f = slotIn e m ∧
          (∀ k, k < 4 → k ≠ m → k ≠ f → slotIn (t.plat.entry g) k = slotIn e k) ∧ bits (t.plat.entry g).toNat 15 8 = bits e.toNat 15 8 ∧
          (∀ h, h ≠ g → t.plat.entry h = s.plat.entry h) ∧ t.plat = { s.plat with remap := t.plat.remap } ∧
          t.chip = { s.chip with launches := s.chip.launches.map fun l =>
            { l with hints := l.hints.map fun h => { h with slow := h.slow || h.members.contains (4 * g + f) } } }) ∧
      (count s.plat m < count s.plat f + 16 →
        ∃ t, exec (.tierSwap g m) s = .next t ∧ t.chip = { s.chip with fresh := t.chip.fresh } ∧ t.plat = { s.plat with counts := t.plat.counts } ∧
          (∀ k, k ≠ 4 * g + f → k ≠ 4 * g + m → Sparse.get 0 t.plat.counts k = Sparse.get 0 s.plat.counts k) ∧
          (∀ k, count s.plat k ≤ 255 → count s.plat k ≤ count t.plat k ∧ count t.plat k ≤ 255) ∧
          (∀ k, (∃ l ∈ s.chip.launches, ∃ h ∈ l.hints, h.hint = 1 ∧ 4 * g + k ∈ h.members) → 4 * g + k ∉ s.chip.reached →
            count t.plat k = count s.plat k)))) ∧
  (∀ (s : State) (g : Nat) (a : Nat), a ∈ s.plat.layby → a / 65536 ≤ g → g < a / 65536 + 32 → bit (s.plat.entry g).toNat 8 = true) ∧
  (∀ (s : State) (ch : Nat) (b : Int), s.plat.refresh[ch]? = some b →
    let done := fun (i : Instr) (v : Int) => ∃ t, exec i s = .next t ∧ t.plat.refresh[ch]? = some v ∧
      (∀ j, j ≠ ch → t.plat.refresh[j]? = s.plat.refresh[j]?) ∧ t.plat = { s.plat with refresh := t.plat.refresh } ∧ reportsOnly s.chip t.chip ∧
      (s.chip.running = true → t.chip.dev.byte (s.chip.status + 0x100 + ch) = BitVec.ofInt 8 v) ∧
      ∀ a, ¬(s.chip.running = true ∧ a = s.chip.status + 0x100 + ch) → t.chip.dev.byte a = s.chip.dev.byte a;
    let code := if ch < 256 then ch else 256 + ch;
    (channelFitted s.chip code → done (.refreshTick ch) (if b - 1 < -8 then -8 else b - 1) ∧ done (.refreshPullIn ch) (if b < 8 then b + 1 else b)) ∧
    (¬ channelFitted s.chip code → exec (.refreshTick ch) s = .next s ∧ exec (.refreshPullIn ch) s = .next s)) ∧
  (∀ (s : State) (n i m f : Nat), (s.chip.core n).enabled = true → s.plat.clocks[n]? = some f → f ∈ [1000, 1600, 2000, 2500] →
    let up := if f = 1000 then 1600 else if f = 1600 then 2000 else 2500;
    let down := if f = 2500 then 2000 else if f = 2000 then 1600 else 1000;
    ∃ t, exec (.clockWindowEnd n i m) s = .next t ∧
      t.plat.clocks[n]? = some (if 4 * i < i + m then down else if i + m ≤ 2 * i then up else f) ∧
      (∀ j, j ≠ n → t.plat.clocks[j]? = s.plat.clocks[j]?) ∧ reportsOnly s.chip t.chip ∧
      t.plat = { s.plat with clocks := t.plat.clocks, suppressed := t.plat.suppressed, energy := t.plat.energy }) ∧
  (∀ (s : State) (n mhz : Nat), (mhz ∉ [1000, 1600, 2000, 2500] ∨ (s.chip.core n).enabled = false → exec (.packageLimiter n mhz) s = .next s) ∧
    (mhz ∈ [1000, 1600, 2000, 2500] → (s.chip.core n).enabled = true → n < s.plat.limits.length →
    ∃ t, exec (.packageLimiter n mhz) s = .next t ∧ t.plat.clock n = min (s.plat.clocks.getD n 2500) mhz ∧
      (∀ j, j ≠ n → t.plat.clock j = s.plat.clock j) ∧ reportsOnly s.chip t.chip ∧ t.plat = { s.plat with limits := t.plat.limits })) ∧
  ∀ (s : State) (n b : Nat), ((∀ x ∈ (s.chip.bench n b).lastCtx, x = none) → exec (.fillerInjection n b) s = .next s) ∧
    ∃ t, exec (.fillerInjection n b) s = .next t ∧ reportsOnly s.chip t.chip ∧ t.plat = { s.plat with energy := t.plat.energy } ∧
      ∀ x, some x ∉ (s.chip.bench n b).lastCtx → t.plat.energy.getD x 0 = s.plat.energy.getD x 0

/-- Errors (R381 to R383): each error counts on its own place, a corrected row error on its channel too; an uncorrectable one makes its line of device bytes
unreadable. At the threshold of its kind the place enters the repair table, once: a row is copied to a spare, a channel is retired at the
next Reset, a wavelength leaves its port, a bench closes. A channel that the part has not, or has retired, counts nothing (R2). The end of a window clears
its counter; a row copy that is complete is over. That a channel's uncorrectable errors are counted apart from its corrected ones is the model's reading
(log 81). -/
def Obligations.ErrorsAndRepair : Prop :=
  (∀ (s : State) (e : ErrPlace) (cycle : DWord) (line v : Nat) (p : Nat),
    (match e with
      | .row _ => False
      | .channel x => p = x.toNat ∧ v = 64 ∧ channelFitted s.chip p
      | .wavelength x => p = x.toNat ∧ p < 160 ∧ v = 1024
      | .bench n b => n < 64 ∧ b < 6 ∧ p = 8 * ((s.chip.sites[n]?).join).getD 0 + b ∧ v = 16) →
    let k := s.plat.counter e;
    let src := match e with
      | .row _ => 1
      | .channel _ => 2
      | .wavelength _ => 3
      | .bench _ _ => 4;
    ∃ t, exec (.errorCounted e false cycle line) s = .next t ∧ t.plat.counter e = { k with count := k.count + 1 } ∧
      (∀ x, x ≠ e → t.plat.counter x = s.plat.counter x) ∧ t.chip.squads = s.chip.squads ∧
      (k.count + 1 ≠ v → t.plat.repair = s.plat.repair ∧ t.chip = s.chip) ∧
      (k.count + 1 = v → (src, p) ∉ s.plat.repair → t.plat.repair = s.plat.repair ++ [(src, p)] ∧
        match e with
        | .row _ => True
        | .channel _ => t.plat.retiring = s.plat.retiring ++ [p]
        | .wavelength _ => ∀ x, s.chip.fab.ports[p / 8]? = some x → ∃ y, t.chip.fab.ports[p / 8]? = some y ∧ y.width ≤ x.width ∧
            ∀ j, y.working.getD j false = if j = p % 8 then false else x.working.getD j false
        | .bench n b => 6 * n + b < s.chip.benches.length → (t.chip.bench n b).closed = true)) ∧
  (∀ (s : State) (p : BitVec 40) (cycle : DWord) (line : Nat),
    let ch := ErrPlace.channel (BitVec.ofNat 10 (p.toNat / 2 ^ 30));
    channelFitted s.chip (p.toNat / 2 ^ 30) →
    let k := s.plat.counter (.row p);
    ∃ t, exec (.errorCounted (.row p) false cycle line) s = .next t ∧ t.plat.counter (.row p) = { k with count := k.count + 1 } ∧
      t.plat.counter ch = { s.plat.counter ch with count := (s.plat.counter ch).count + 1 } ∧
      (k.count + 1 = 4 → (1, p.toNat) ∉ s.plat.repair → (1, p.toNat) ∈ t.plat.repair ∧ p.toNat ∈ t.chip.copying)) ∧
  (∀ (s : State) (e : ErrPlace) (ch : BitVec 10) (cycle : DWord) (line : Nat),
    (match e with
      | .row p => ch = BitVec.ofNat 10 (p.toNat / 2 ^ 30)
      | .channel x => ch = x
      | .wavelength _ => False
      | .bench _ _ => False) → channelFitted s.chip ch.toNat →
    let k := s.plat.counter (.channel ch);
    ∃ t, exec (.errorCounted e true cycle line) s = .next t ∧ (∀ j, j < 128 → Sparse.get false t.chip.bad (line / 128 * 128 + j) = true) ∧
      (∀ a, apart a 1 (line / 128 * 128) 128 → Sparse.get false t.chip.bad a = Sparse.get false s.chip.bad a) ∧
      t.plat.counter (.channel ch) = { k with bad := k.bad + 1 } ∧
      (k.bad + 1 = 2 → (2, ch.toNat) ∉ s.plat.repair → (2, ch.toNat) ∈ t.plat.repair ∧ ch.toNat ∈ t.plat.retiring)) ∧
  (∀ (s : State) (e : ErrPlace) (bad : Bool) (cycle : DWord) (line : Nat),
    (match e with
      | .row p => ¬ channelFitted s.chip (p.toNat / 2 ^ 30)
      | .channel x => ¬ channelFitted s.chip x.toNat
      | .wavelength _ => False
      | .bench _ _ => False) → exec (.errorCounted e bad cycle line) s = .next s) ∧
  (∀ (s : State) (e : ErrPlace), ∃ t, exec (.errorWindowEnd e) s = .next t ∧ t.plat.counter e = { place := e, count := 0 } ∧
    (∀ x, x ≠ e → t.plat.counter x = s.plat.counter x) ∧ t.chip = s.chip ∧ t.plat = { s.plat with errors := t.plat.errors }) ∧
  ∀ (s : State) (p : BitVec 40), exec (.rowCopyComplete p) s =
    .next { s with chip := { s.chip with copying := s.chip.copying.filter fun x => x != p.toNat } }

/-- A Reset leaves no squad, launch, access or session, keys released to nobody, and memory as it was (R374, R377; that device and host memory stay is the
model's reading, log 78). -/
def inReset (s t : State) : Prop :=
  t.chip.squads = [] ∧ t.chip.launches = [] ∧ t.chip.requests = [] ∧ t.chip.cmds = [] ∧ (∀ x, t.chip.ctx? x = none) ∧ t.chip.running = false ∧
    t.chip.turn = none ∧ t.chip.locked = keyRanges ∧ t.plat.spdm = {} ∧ t.chip.retired = s.chip.retired ++ s.plat.retiring ∧ t.plat.retiring = [] ∧
    t.plat.repair = s.plat.repair ∧ offChip s.chip t.chip

/-- Boot and recovery (R374, R375): Reset checks the flash image and goes on to Ready, or to Recovery with the cause; Go with a good block and no image
runs the device from Ready, with the bases and sizes of the block, its journal empty and its status block saying Running; a block outside its limits
sets cause 3, no image in Recovery cause 4; an image is verified first, and a bad one leaves the state in which Go was written. A recovery request
takes Ready to Recovery and Running to Reset; a fatal error resets.
Host accesses (R372, R373, R377): a read returns its bytes, or is poisoned where a byte does not exist, its key is not released or its data are lost,
and waits while a row that it names is copied (R381); a write reaches the bytes that exist and are not locked, outside the status block; an atomic
adds, swaps, or swaps on equality at once. A store of the host's own changes host memory alone. The boot parameter block is writable in Ready and
Recovery alone, Go apart; other registers discard writes.
The model's readings: a Reset keeps memory and clears the boot cause (log 78); a read of missing or lost bytes is poisoned as a whole and a write is
discarded byte by byte (log 82). -/
def Obligations.BootAndHost : Prop :=
  (∀ (s : State), ∃ t, exec .reset s = .next t ∧ inReset s t ∧
    (t.plat.boot, t.plat.bootCause) =
      if s.plat.flash ≠ 0 ∨ (Config.flashSigned = true ∧ Config.flashVersionOk = true) then (.ready, 0)
      else if Config.flashSigned = false then (.recovery, 1) else (.recovery, 2)) ∧
  (∀ (s : State) (b : BitVec 512), s.plat.refresh.length = 320 → s.plat.suppressed.length = 64 → s.plat.energy.length = 64 →
    let x := BootBlock.read b.toNat;
    let runs := fun (i : Instr) => ∃ t, exec i s = .next t ∧ t.plat.boot = .running ∧ t.chip.running = true ∧ t.chip.cmdWindow = bits b.toNat 415 352 ∧
      t.chip.journal = bits b.toNat 351 288 ∧ t.chip.journalC = bits b.toNat 287 280 ∧ t.chip.status = bits b.toNat 279 216 ∧
      t.chip.cap = bits b.toNat 215 152 ∧ t.plat.log = 0 ∧ t.chip.dev.le x.status 1 = 4 ∧
      (apart x.journal 64 x.status 65536 → t.chip.dev.le x.journal 8 = 0 ∧ t.chip.dev.le (x.journal + 8) 8 = 0) ∧
      (∀ a, apart a 1 x.journal 64 → apart a 1 x.status 65536 → t.chip.dev.byte a = s.chip.dev.byte a) ∧ t.chip.squads = s.chip.squads;
    let refused := fun (i : Instr) (boot : Boot) (cause : Nat) => ∃ t, exec i s = .next t ∧ t.plat.boot = boot ∧ t.plat.bootCause = cause ∧ t.chip = s.chip;
    ((s.plat.boot = .ready ∨ s.plat.boot = .recovery) →
      (bit b.toNat 0 = true → x.ok s.plat.part.module = false → refused (.bootGo b) s.plat.boot 3) ∧
      (bit b.toNat 0 = true → x.ok s.plat.part.module = true → x.len = 0 → s.plat.boot = .ready → runs (.bootGo b)) ∧
      (bit b.toNat 0 = true → x.ok s.plat.part.module = true → x.len = 0 → s.plat.boot = .recovery → refused (.bootGo b) .recovery 4) ∧
      (bit b.toNat 0 = true → x.ok s.plat.part.module = true → x.len ≠ 0 →
        ∃ t, exec (.bootGo b) s = .next t ∧ t.plat.boot = .verify ∧ t.plat.goFrom = s.plat.boot ∧ t.plat.block = b ∧ t.chip = s.chip)) ∧
    (s.plat.boot ∈ [.reset, .verify, .running] → exec (.bootGo b) s = .next s) ∧
    (s.plat.boot = .verify → s.plat.block = b →
      let signed := Config.postedSigned s.plat.images (BitVec.ofNat 64 x.image) (BitVec.ofNat 32 x.len);
      let version := Config.postedVersionOk s.plat.images (BitVec.ofNat 64 x.image) (BitVec.ofNat 32 x.len);
      (signed = true → version = true → runs .verifyComplete ∧ ∃ t, exec .verifyComplete s = .next t ∧ t.plat.flash = s.plat.images) ∧
      (signed = false → refused .verifyComplete s.plat.goFrom 1) ∧ (signed = true → version = false → refused .verifyComplete s.plat.goFrom 2)) ∧
    (s.plat.boot ≠ .verify → exec .verifyComplete s = .next s)) ∧
  (∀ (s : State),
    (s.plat.boot = .ready → exec .recoveryRequest s = .next { s with plat := { s.plat with boot := .recovery } }) ∧
    (s.plat.boot = .running → ∃ t, exec .recoveryRequest s = .next t ∧ t.plat.boot = .reset ∧ inReset s t) ∧
    (s.plat.boot ∈ [.reset, .recovery, .verify] → exec .recoveryRequest s = .next s) ∧
    (s.plat.boot = .reset → exec .fatalError s = .next s) ∧
    (s.plat.boot ≠ .reset → ∃ t, exec .fatalError s = .next t ∧ t.plat.boot = .reset ∧ inReset s t)) ∧
  (∀ (s : State) (pa n : Nat) (data : List Byte) (v w : DWord),
    let readable := ∀ i, i < n → s.chip.exists (pa + i) = true ∧ s.chip.isLocked (pa + i) = false ∧ Sparse.get false s.chip.bad (pa + i) = false;
    let answers := fun (op : HostOp) (r : Option (List Byte)) (mem : Nat → Byte) => ∃ t, exec (.hostAccess op) s = .next t ∧
      t.plat = { s.plat with completion := r } ∧ (∀ a, t.chip.dev.byte a = mem a) ∧ t.chip.squads = s.chip.squads ∧ t.chip.host = s.chip.host;
    (s.chip.hostWaits pa n = true → exec (.hostAccess (.read pa n)) s = .next s) ∧
    (s.chip.hostWaits pa n = false → (readable → answers (.read pa n) (some (s.chip.dev.bytes pa n)) s.chip.dev.byte) ∧
      (¬readable → answers (.read pa n) none s.chip.dev.byte)) ∧
    (s.chip.hostWaits pa data.length = false → answers (.write pa data) (some []) (fun a =>
      if pa ≤ a ∧ a < pa + data.length ∧ s.chip.exists a = true ∧ s.chip.isLocked a = false ∧ s.chip.inStatus a = false then data.getD (a - pa) 0
      else s.chip.dev.byte a)) ∧
    ((n = 4 ∨ n = 8) → pa % n = 0 → s.chip.hostWaits pa n = false → readable → (∀ i, i < n → s.chip.inStatus (pa + i) = false) →
      let old := s.chip.dev.le pa n;
      let set := fun (x : Nat) => (s.chip.dev.setLe pa n x).byte;
      answers (.atomAdd pa n v) (some (s.chip.dev.bytes pa n)) (set (old + v.toNat)) ∧
      answers (.atomSwap pa n v) (some (s.chip.dev.bytes pa n)) (set v.toNat) ∧
      answers (.atomCas pa n w v) (some (s.chip.dev.bytes pa n)) (if old = w.toNat % 2 ^ (8 * n) then set v.toNat else s.chip.dev.byte)) ∧
    ∃ t, exec (.hostAccess (.own pa data)) s = .next t ∧ t.chip = { s.chip with host := t.chip.host } ∧ t.plat = s.plat ∧
      ∀ a, t.chip.host.byte a = if pa ≤ a ∧ a < pa + data.length then data.getD (a - pa) 0 else s.chip.host.byte a) ∧
  ∀ (s : State) (off : Nat) (v : DWord),
    ((s.plat.boot = .ready ∨ s.plat.boot = .recovery) → off % 8 = 0 → off < 64 →
      ∃ t, exec (.hostRegisterWrite (.config off) v) s = .next t ∧ t.chip = s.chip ∧ t.plat = { s.plat with config := t.plat.config } ∧
        t.plat.config.le off 8 = (if off = 0 then v.toNat / 2 * 2 else v.toNat) ∧ ∀ a, apart a 1 off 8 → t.plat.config.byte a = s.plat.config.byte a) ∧
    (s.plat.boot ∈ [.reset, .verify, .running] → exec (.hostRegisterWrite (.config off) v) s = .next s) ∧
    exec (.hostRegisterWrite (.device off) v) s = .next s

/-- The attestation responder (R376) and memory keys (R377). Negotiation comes first: a request out of its order is answered with an error and changes
nothing else; the responder supports ECDSA on P-521 with SHA-512 and the chain of slot 0 alone. A session opens with KEY_EXCHANGE, is secured by a
FINISH whose code verifies, and ends with END_SESSION. A signed measurement or a challenge in a secured session makes its attestation current; a key
release fills its slot, and unlocks its range, only in a secured session with a current attestation.
The codes and the order are those of the standard that R376 names (log 18), and a key for a slot that is filled replaces the one it held (log 16): the
model's choices and no rule of the spec. -/
def Obligations.Attestation : Prop :=
  ∀ (s : State),
    let p := s.plat.spdm;
    let after := fun (i : Instr) (f : Spdm → Prop) => ∃ t, exec i s = .next t ∧ f t.plat.spdm ∧ t.plat = { s.plat with spdm := t.plat.spdm } ∧
      t.chip = { s.chip with fresh := t.chip.fresh } ∧ t.agenda = s.agenda;
    let answers := fun (i : Instr) (code : Nat) (f : Spdm → Prop) => after i fun x => x.code = code ∧ f x;
    let errs := fun (i : Instr) (e : Nat) => after i fun x => x = { p with code := 0x7F, reply := [BitVec.ofNat 8 e, 0] };
    let keeps := fun (x : Spdm) => x.sessions = p.sessions ∧ x.versioned = p.versioned ∧ x.capable = p.capable ∧ x.negotiated = p.negotiated;
    answers .getVersion 0x04 (fun x => x.versioned = true ∧ x.capable = false ∧ x.negotiated = false ∧ x.sessions = []) ∧
    (p.versioned = true → answers .getCapabilities 0x61 fun x => x.capable = true ∧ x.sessions = p.sessions) ∧
    (p.versioned = false → errs .getCapabilities 0x04) ∧
    (∀ asym hash, (p.capable = false → errs (.negotiateAlgorithms asym hash) 0x04) ∧
      (p.capable = true → bit asym 8 = true → bit hash 2 = true →
        answers (.negotiateAlgorithms asym hash) 0x63 fun x => x.negotiated = true ∧ x.sessions = p.sessions) ∧
      (p.capable = true → bit asym 8 = false ∨ bit hash 2 = false → errs (.negotiateAlgorithms asym hash) 0x01)) ∧
    (∀ (slot off len n m i : Nat) (nonce : List Byte) (ss : Option Nat) (signed : Bool),
      (p.negotiated = false → errs .getDigests 0x04 ∧ errs (.getCertificate slot off len) 0x04 ∧ errs (.challenge slot nonce m ss) 0x04 ∧
        errs (.getMeasurements signed i nonce ss) 0x04 ∧ errs (.keyExchange slot n nonce) 0x04) ∧
      (p.negotiated = true →
        answers .getDigests 0x01 keeps ∧ answers (.getCertificate 0 off len) 0x02 keeps ∧ (slot ≠ 0 → errs (.getCertificate slot off len) 0x01) ∧
        answers (.challenge 0 nonce m none) 0x03 keeps ∧ answers (.getMeasurements false 0 nonce none) 0x60 keeps ∧
        (i ≤ 4 ∨ i = 255 → answers (.getMeasurements signed i nonce none) 0x60 keeps) ∧ (4 < i → i ≠ 255 → errs (.getMeasurements signed i nonce none) 0x01) ∧
        (slot ≠ 0 → errs (.challenge slot nonce m none) 0x01 ∧ errs (.keyExchange slot n nonce) 0x01) ∧
        (∀ y, p.session? n = some y → y.finished = true →
          let attests := fun (x : Spdm) => x.sessions = p.sessions.map fun y => if y.id = n then { y with attested := y.finished } else y;
          answers (.challenge 0 nonce m (some n)) 0x03 attests ∧ answers (.getMeasurements true 255 nonce (some n)) 0x60 attests) ∧
        (p.secured n = false → errs (.challenge 0 nonce m (some n)) 0x02 ∧ errs (.getMeasurements signed i nonce (some n)) 0x02) ∧
        ∃ t, exec (.keyExchange 0 n nonce) s = .next t ∧
          ((∀ y ∈ p.sessions, y.id % 2 ^ 16 ≠ n % 2 ^ 16) → t.plat.spdm.code = 0x64 ∧
            ∃ id, id % 2 ^ 16 = n % 2 ^ 16 ∧ t.plat.spdm.sessions = p.sessions ++ [{ id, finished := false, attested := false }]))) ∧
    (∀ (n : Nat) (mac : List Byte), (p.session? n = none → errs (.finish n mac) 0x02) ∧
      (p.secured n = false → errs (.endSession n) 0x02) ∧
      (p.secured n = true → answers (.endSession n) 0x6C fun x => x.sessions = p.sessions.filter fun y => y.id != n) ∧
      ∀ y, p.session? n = some y →
        (y.finished = true → errs (.finish n mac) 0x04) ∧
        (y.finished = false → Config.finishOk n mac = true →
          answers (.finish n mac) 0x65 fun x => x.sessions = p.sessions.map fun y => if y.id = n then { y with finished := true } else y) ∧
        (y.finished = false → Config.finishOk n mac = false →
          answers (.finish n mac) 0x7F fun x => x.sessions = p.sessions.filter fun y => y.id != n)) ∧
    ∀ (n slot : Nat) (key : List Byte),
      errs (.vendorDefinedRequest none slot key) 0x02 ∧
      (p.session? n = none → errs (.vendorDefinedRequest (some n) slot key) 0x02) ∧
      ∀ y, p.session? n = some y →
        (y.finished = false ∨ y.attested = false ∨ 16 ≤ slot → errs (.vendorDefinedRequest (some n) slot key) 0x01) ∧
        (y.finished = true → y.attested = true → slot < 16 → s.plat.keys.length = 16 →
          ∃ t, exec (.vendorDefinedRequest (some n) slot key) s = .next t ∧ t.plat.spdm.code = 0x7E ∧
            (∀ k, t.plat.keys.getD k {} = if k = slot then { key, filled := true } else s.plat.keys.getD k {}) ∧
            (∀ a, t.chip.isLocked a = true ↔ ∃ k, k < 16 ∧ k ≠ slot ∧ (s.plat.keys.getD k {}).filled = false ∧
              (Config.keyRange k).1 ≤ a ∧ a < (Config.keyRange k).2) ∧
            t.chip = { s.chip with locked := t.chip.locked } ∧ t.plat.spdm.sessions = p.sessions)

/-! ### Reset, and what every step keeps -/

/-- Device, host and scratch memory are in their canonical form. -/
def memoryWf (s : State) : Prop := Mem.Wf s.chip.dev ∧ Mem.Wf s.chip.host ∧ ∀ k ∈ s.chip.cores, Mem.Wf k.scratch

/-- The platform's own limits: every group of the capacity tier places its four members in four different slots (R367), refresh balances stay between −8
and 8 (R371), clocks are the four steps (R379), and the retirement log has room for 127 records (R372). -/
def platformWf (p : Plat) : Prop :=
  (∀ g, ((List.range 4).map fun m => slotIn (p.entry g) m).Nodup) ∧
    (∀ b ∈ p.refresh, -8 ≤ b ∧ b ≤ 8) ∧ (∀ f ∈ p.clocks, f ∈ [1000, 1600, 2000, 2500]) ∧ p.log ≤ 127

/-- The state after reset: what the spec gives. Nothing runs and memory is empty in its canonical form; registers of the platform hold their reset values
(R366, R371, R374, R376, R377, R379, R382), and each ordering code has its cores and stacks (R1); queue 0 alone is enabled, with the highest priority
(R335); both invariants hold. That device and host memory (log 2) and the repair table (log 3) are empty is the model's choice. -/
def Obligations.ResetState : Prop :=
  State.reset.chip.squads = [] ∧ State.reset.chip.launches = [] ∧ State.reset.chip.requests = [] ∧ State.reset.chip.cmds = [] ∧
    (∀ x, State.reset.chip.ctx? x = none) ∧ State.reset.chip.turn = none ∧ State.reset.chip.running = false ∧ State.reset.plat.boot = .reset ∧
    State.reset.chip.queues.getD 0 {} = { enabled := true, prio := 7, ctx := 0, expect := 1 } ∧
    (∀ i, 0 < i → (State.reset.chip.queues.getD i {}).enabled = false) ∧ (∀ b ∈ State.reset.plat.refresh, b = 0) ∧
    (∀ f ∈ State.reset.plat.clocks, f = 2500) ∧ (∀ k ∈ State.reset.plat.keys, k.filled = false) ∧ State.reset.plat.spdm.sessions = [] ∧
    (∀ p : Part, ((List.range 64).filter fun n => ((State.resetOf p).chip.core n).enabled).length = p.cores ∧
      (State.resetOf p).chip.fitted.length = p.stackCount ∧ (State.resetOf p).chip.fast = p.stackCount * 2 ^ 36 ∧ (State.resetOf p).plat.part = p) ∧
    State.reset.plat.repair = [] ∧ State.reset.chip.dev = [] ∧ State.reset.chip.host = [] ∧ memoryWf State.reset ∧ platformWf State.reset.plat

/-- Every step keeps the canonical form of device, host and scratch memory: equal contents are equal data. -/
def Obligations.MemoryStaysCanonical : Prop := ∀ s t : State, memoryWf s → step s = .next t → memoryWf t

/-- Every step keeps the platform within its limits (R367, R371, R372, R379). -/
def Obligations.PlatformStaysLegal : Prop := ∀ s t : State, platformWf s.plat → step s = .next t → platformWf t.plat
end

