-- ==== Sys2Proof/Laws/Bits.lean ====
section
/-! SUPPORT. Laws of lane masks and of little-endian bytes. -/

namespace Sys2Proof

theorem mem_lanesOf {m : LaneMask} {l : Nat} : l ∈ lanesOf m ↔ l < 32 ∧ m.getLsbD l = true := by simp [lanesOf]

theorem nodup_lanesOf (m : LaneMask) : (lanesOf m).Nodup := (List.nodup_range).filter _

/-- Summing distinct powers of two sets exactly their bits. -/
theorem testBit_sum_pow (p : Nat → Bool) (n : Nat) :
    (((List.range n).filter p).foldl (fun s l => s + 2 ^ l) 0 < 2 ^ n) ∧
      ∀ i, (((List.range n).filter p).foldl (fun s l => s + 2 ^ l) 0).testBit i = (decide (i < n) && p i) := by
  induction n with
  | zero => simp
  | succ n ih =>
    obtain ⟨hlt, hb⟩ := ih
    rw [List.range_succ, List.filter_append, List.foldl_append]
    by_cases hp : p n
    · simp only [List.filter_cons, hp, ↓reduceIte, List.filter_nil, List.foldl_cons, List.foldl_nil]
      have hlt2 : (((List.range n).filter p).foldl (fun s l => s + 2 ^ l) 0) + 2 ^ n < 2 ^ (n + 1) := by rw [Nat.pow_succ]; omega
      refine ⟨hlt2, fun i => ?_⟩
      rcases Nat.lt_trichotomy i n with h | h | h
      · rw [Nat.add_comm, Nat.testBit_two_pow_add_gt h, hb i]; simp [h, Nat.lt_succ_of_lt h]
      · subst h
        rw [Nat.add_comm, Nat.testBit_two_pow_add_eq, hb i]; simp [hp]
      · rw [Nat.testBit_lt_two_pow (Nat.lt_of_lt_of_le hlt2 (Nat.pow_le_pow_right (by decide) h))]
        simp [show ¬ i < n + 1 by omega]
    · simp only [List.filter_cons, hp, List.filter_nil, List.foldl_nil, Bool.false_eq_true, ↓reduceIte]
      refine ⟨by rw [Nat.pow_succ]; omega, fun i => ?_⟩
      rw [hb i]
      rcases Nat.lt_trichotomy i n with h | h | h
      · simp [h, Nat.lt_succ_of_lt h]
      · subst h; simp [hp]
      · simp [Nat.not_lt.mpr (Nat.le_of_lt h), show ¬ i < n + 1 by omega]

/-- Bit l of a mask made from a predicate. -/
theorem getLsbD_maskOf (p : Nat → Bool) (l : Nat) : (maskOf p).getLsbD l = (decide (l < 32) && p l) := by
  obtain ⟨hlt, hb⟩ := testBit_sum_pow p 32
  unfold maskOf
  rw [BitVec.getLsbD_ofNat, hb l]
  cases decide (l < 32) <;> simp

theorem lanesOf_maskOf (p : Nat → Bool) : lanesOf (maskOf p) = (List.range 32).filter p := by
  unfold lanesOf
  refine List.filter_congr fun l hl => ?_
  rw [getLsbD_maskOf]
  simp [List.mem_range.mp hl]

theorem getLsbD_laneBit (l i : Nat) (h : l < 32) : (laneBit l).getLsbD i = decide (i = l) := by
  unfold laneBit
  rw [BitVec.getLsbD_ofNat, Nat.testBit_two_pow]
  by_cases hi : i = l
  · subst hi; simp [h]
  · simp [hi, Ne.symm hi]

/-- Setting a lane of a mask changes that lane alone. -/
theorem getLsbD_setLane (m : LaneMask) (l i : Nat) (v : Bool) (h : l < 32) :
    (setLane m l v).getLsbD i = if i = l then v else m.getLsbD i := by
  unfold setLane
  cases v
  · simp only [Bool.false_eq_true, ↓reduceIte, BitVec.getLsbD_and, BitVec.getLsbD_not, getLsbD_laneBit l i h]
    by_cases hi : i = l
    · subst hi; simp
    · simp only [hi, decide_false, Bool.not_false, Bool.and_true, ↓reduceIte]
      cases hm : m.getLsbD i
      · simp
      · simp [BitVec.lt_of_getLsbD hm]
  · simp only [↓reduceIte, BitVec.getLsbD_or, getLsbD_laneBit l i h]
    by_cases hi : i = l
    · simp [hi]
    · simp [hi]

@[simp] theorem length_leBytes (n v : Nat) : (leBytes n v).length = n := by
  induction n generalizing v with
  | zero => rfl
  | succ n ih => simp [leBytes, ih]

/-- The number that the bytes of a number form. -/
theorem ofLe_leBytes (n v : Nat) : ofLe (leBytes n v) = v % 256 ^ n := by
  induction n generalizing v with
  | zero => simp [leBytes, ofLe, Nat.mod_one]
  | succ n ih =>
    rw [leBytes, ofLe, ih, BitVec.toNat_ofNat, show (256 : Nat) ^ (n + 1) = 256 * 256 ^ n from Nat.pow_succ', Nat.mod_mul]

end Sys2Proof
end

