-- ==== Sys2Proof/Laws/Sparse.lean ====
section
/-! SUPPORT. Laws of sparse tables: read after write, and that every operation keeps the canonical form. -/

namespace Sys2Proof.Sparse

variable {α : Type}

theorem get_del_self (d : α) (m : Sparse α) (i : Nat) : get d (del m i) i = d := by
  induction m with
  | nil => rfl
  | cons e m ih =>
    by_cases h : e.1 = i
    · simpa [del, h] using ih
    · simpa [del, h, get] using ih

theorem get_del_ne (d : α) (m : Sparse α) {i j : Nat} (h : i ≠ j) : get d (del m i) j = get d m j := by
  induction m with
  | nil => rfl
  | cons e m ih =>
    by_cases hi : e.1 = i
    · have hj : e.1 ≠ j := fun hj => h (hi ▸ hj)
      simpa [del, hi, get, h] using ih
    · by_cases hj : e.1 = j
      · simp [del, get, hj, Ne.symm h]
      · simpa [del, hi, get, hj] using ih

theorem get_ins_self (d : α) (m : Sparse α) (i : Nat) (v : α) (h : ∀ e ∈ m, e.1 ≠ i) : get d (ins m i v) i = v := by
  induction m with
  | nil => simp [ins, get]
  | cons e m ih =>
    have hi : e.1 ≠ i := h e (by simp)
    have hm : ∀ e ∈ m, e.1 ≠ i := fun e he => h e (by simp [he])
    by_cases hl : i < e.1
    · simp [ins, hl, get]
    · simpa [ins, hl, get, hi] using ih hm

theorem get_ins_ne (d : α) (m : Sparse α) {i j : Nat} (v : α) (h : i ≠ j) : get d (ins m i v) j = get d m j := by
  induction m with
  | nil => simp [ins, get, h]
  | cons e m ih =>
    by_cases hl : i < e.1
    · simp [ins, hl, get, h]
    · simp only [ins, hl, ↓reduceIte, get, ih]

theorem mem_del {m : Sparse α} {i : Nat} {e : Nat × α} : e ∈ del m i ↔ e ∈ m ∧ e.1 ≠ i := by simp [del]

theorem mem_ins {m : Sparse α} {i : Nat} {v : α} {e : Nat × α} : e ∈ ins m i v ↔ e = (i, v) ∨ e ∈ m := by
  induction m with
  | nil => simp [ins]
  | cons x m ih =>
    by_cases hl : i < x.1
    · simp [ins, hl]
    · simp only [ins, hl, ↓reduceIte, List.mem_cons, ih]; exact or_left_comm

/-- A key just set reads back. -/
@[simp] theorem get_set_self [DecidableEq α] (d : α) (m : Sparse α) (i : Nat) (v : α) : get d (set d m i v) i = v := by
  unfold set
  split
  · rename_i h; rw [get_del_self, h]
  · exact get_ins_self d _ i v fun e he => (mem_del.mp he).2

/-- Setting a key leaves every other key alone. -/
theorem get_set_ne [DecidableEq α] (d : α) (m : Sparse α) {i j : Nat} (v : α) (h : i ≠ j) : get d (set d m i v) j = get d m j := by
  unfold set
  split
  · exact get_del_ne d m h
  · rw [get_ins_ne d _ v h, get_del_ne d m h]

theorem get_set [DecidableEq α] (d : α) (m : Sparse α) (i j : Nat) (v : α) : get d (set d m i v) j = if i = j then v else get d m j := by
  split
  · rename_i h; subst h; simp
  · rename_i h; exact get_set_ne d m v h

theorem wf_filter {d : α} {m : Sparse α} (h : Wf d m) (p : Nat × α → Bool) : Wf d (m.filter p) :=
  ⟨h.1.filter p, fun e he => h.2 e (List.mem_filter.mp he).1⟩

theorem wf_ins {d : α} {m : Sparse α} {i : Nat} {v : α} (h : Wf d m) (hi : ∀ e ∈ m, e.1 ≠ i) (hv : v ≠ d) : Wf d (ins m i v) := by
  induction m with
  | nil => exact ⟨by simp [ins], by simp [ins, hv]⟩
  | cons x m ih =>
    have hx : x.1 ≠ i := hi x (by simp)
    obtain ⟨hp, hd⟩ := h
    rw [List.pairwise_cons] at hp
    by_cases hl : i < x.1
    · refine ⟨?_, ?_⟩
      · simp only [ins, hl, ↓reduceIte]
        refine List.pairwise_cons.mpr ⟨fun e he => ?_, List.pairwise_cons.mpr hp⟩
        rcases List.mem_cons.mp he with rfl | he
        · exact hl
        · exact Nat.lt_trans hl (hp.1 e he)
      · intro e he
        rcases mem_ins.mp he with rfl | he
        · exact hv
        · exact hd e he
    · have hlt : x.1 < i := by omega
      have hw := ih ⟨hp.2, fun e he => hd e (by simp [he])⟩ (fun e he => hi e (by simp [he]))
      refine ⟨?_, ?_⟩
      · simp only [ins, hl, ↓reduceIte]
        refine List.pairwise_cons.mpr ⟨fun e he => ?_, hw.1⟩
        rcases mem_ins.mp he with rfl | he
        · exact hlt
        · exact hp.1 e he
      · intro e he
        rcases mem_ins.mp he with rfl | he
        · exact hv
        · exact hd e he

/-- Setting a key keeps the canonical form. -/
theorem wf_set [DecidableEq α] {d : α} {m : Sparse α} (h : Wf d m) (i : Nat) (v : α) : Wf d (set d m i v) := by
  unfold set
  split
  · exact wf_filter h _
  · rename_i hv; exact wf_ins (wf_filter h _) (fun e he => (mem_del.mp he).2) hv

theorem wf_setList [DecidableEq α] {d : α} {m : Sparse α} (h : Wf d m) (i : Nat) (vs : List α) : Wf d (setList d m i vs) := by
  induction vs generalizing m i with
  | nil => exact h
  | cons v vs ih => exact ih (wf_set h i v) (i + 1)

theorem wf_clearRange {d : α} {m : Sparse α} (h : Wf d m) (lo hi : Nat) : Wf d (clearRange m lo hi) := wf_filter h _

/-- Reading after writing consecutive keys. -/
theorem get_setList [DecidableEq α] (d : α) (m : Sparse α) (i : Nat) (vs : List α) (j : Nat) :
    get d (setList d m i vs) j = if h : i ≤ j ∧ j - i < vs.length then vs[j - i]'h.2 else get d m j := by
  induction vs generalizing m i with
  | nil => simp [setList]
  | cons v vs ih =>
    rw [setList, ih, get_set]
    by_cases hj : i = j
    · subst hj; rw [dif_neg (by omega)]; simp
    · by_cases hlt : i + 1 ≤ j ∧ j - (i + 1) < vs.length
      · have h1 : i ≤ j ∧ j - i < (v :: vs).length := by simp; omega
        rw [dif_pos hlt, dif_pos h1]
        have he : j - i = (j - (i + 1)) + 1 := by omega
        simp [he]
      · have h1 : ¬(i ≤ j ∧ j - i < (v :: vs).length) := by simp; omega
        rw [dif_neg hlt, dif_neg h1, if_neg hj]

end Sys2Proof.Sparse

namespace Sys2Proof

@[simp] theorem Mem.byte_setByte_self (m : Mem) (a : Nat) (v : Byte) : (m.setByte a v).byte a = v := Sparse.get_set_self 0 m a v

theorem Mem.byte_setByte_ne (m : Mem) {a b : Nat} (v : Byte) (h : a ≠ b) : (m.setByte a v).byte b = m.byte b := Sparse.get_set_ne 0 m v h

theorem Mem.wf_setByte {m : Mem} (h : m.Wf) (a : Nat) (v : Byte) : (m.setByte a v).Wf := Sparse.wf_set h a v

theorem Mem.wf_setBytes {m : Mem} (h : m.Wf) (a : Nat) (bs : List Byte) : (m.setBytes a bs).Wf := Sparse.wf_setList h a bs

theorem Mem.byte_setBytes_out (m : Mem) (a : Nat) (bs : List Byte) (b : Nat) (h : b < a ∨ a + bs.length ≤ b) : (m.setBytes a bs).byte b = m.byte b := by
  unfold Mem.setBytes Mem.byte
  rw [Sparse.get_setList, dif_neg (by omega)]

end Sys2Proof
end

