-- ==== Sys2Proof/Laws/State.lean ====
section
/-! SUPPORT. What each update of a part of the state does to each field: one lemma per field and update, true by rfl. -/

namespace Sys2Proof.Machine

@[simp] theorem Chip.modCore_dev (c : Chip) (n : Nat) (f : Core → Core) : (c.modCore n f).dev = c.dev := rfl
@[simp] theorem Chip.modCore_host (c : Chip) (n : Nat) (f : Core → Core) : (c.modCore n f).host = c.host := rfl
@[simp] theorem Chip.modCore_bad (c : Chip) (n : Nat) (f : Core → Core) : (c.modCore n f).bad = c.bad := rfl
@[simp] theorem Chip.modCore_locked (c : Chip) (n : Nat) (f : Core → Core) : (c.modCore n f).locked = c.locked := rfl
@[simp] theorem Chip.modCore_copying (c : Chip) (n : Nat) (f : Core → Core) : (c.modCore n f).copying = c.copying := rfl
@[simp] theorem Chip.modCore_fitted (c : Chip) (n : Nat) (f : Core → Core) : (c.modCore n f).fitted = c.fitted := rfl
@[simp] theorem Chip.modCore_cap (c : Chip) (n : Nat) (f : Core → Core) : (c.modCore n f).cap = c.cap := rfl
@[simp] theorem Chip.modCore_retired (c : Chip) (n : Nat) (f : Core → Core) : (c.modCore n f).retired = c.retired := rfl
@[simp] theorem Chip.modCore_reached (c : Chip) (n : Nat) (f : Core → Core) : (c.modCore n f).reached = c.reached := rfl
@[simp] theorem Chip.modCore_cmdWindow (c : Chip) (n : Nat) (f : Core → Core) : (c.modCore n f).cmdWindow = c.cmdWindow := rfl
@[simp] theorem Chip.modCore_journal (c : Chip) (n : Nat) (f : Core → Core) : (c.modCore n f).journal = c.journal := rfl
@[simp] theorem Chip.modCore_journalC (c : Chip) (n : Nat) (f : Core → Core) : (c.modCore n f).journalC = c.journalC := rfl
@[simp] theorem Chip.modCore_status (c : Chip) (n : Nat) (f : Core → Core) : (c.modCore n f).status = c.status := rfl
@[simp] theorem Chip.modCore_running (c : Chip) (n : Nat) (f : Core → Core) : (c.modCore n f).running = c.running := rfl
@[simp] theorem Chip.modCore_turn (c : Chip) (n : Nat) (f : Core → Core) : (c.modCore n f).turn = c.turn := rfl
@[simp] theorem Chip.modCore_cores (c : Chip) (n : Nat) (f : Core → Core) : (c.modCore n f).cores = modAt c.cores n f := rfl
@[simp] theorem Chip.modCore_benches (c : Chip) (n : Nat) (f : Core → Core) : (c.modCore n f).benches = c.benches := rfl
@[simp] theorem Chip.modCore_sites (c : Chip) (n : Nat) (f : Core → Core) : (c.modCore n f).sites = c.sites := rfl
@[simp] theorem Chip.modCore_clusters (c : Chip) (n : Nat) (f : Core → Core) : (c.modCore n f).clusters = c.clusters := rfl
@[simp] theorem Chip.modCore_on (c : Chip) (n : Nat) (f : Core → Core) : (c.modCore n f).on = c.on := rfl
@[simp] theorem Chip.modCore_squads (c : Chip) (n : Nat) (f : Core → Core) : (c.modCore n f).squads = c.squads := rfl
@[simp] theorem Chip.modCore_requests (c : Chip) (n : Nat) (f : Core → Core) : (c.modCore n f).requests = c.requests := rfl
@[simp] theorem Chip.modCore_updates (c : Chip) (n : Nat) (f : Core → Core) : (c.modCore n f).updates = c.updates := rfl
@[simp] theorem Chip.modCore_counted (c : Chip) (n : Nat) (f : Core → Core) : (c.modCore n f).counted = c.counted := rfl
@[simp] theorem Chip.modCore_rings (c : Chip) (n : Nat) (f : Core → Core) : (c.modCore n f).rings = c.rings := rfl
@[simp] theorem Chip.modCore_ringRounds (c : Chip) (n : Nat) (f : Core → Core) : (c.modCore n f).ringRounds = c.ringRounds := rfl
@[simp] theorem Chip.modCore_ctxs (c : Chip) (n : Nat) (f : Core → Core) : (c.modCore n f).ctxs = c.ctxs := rfl
@[simp] theorem Chip.modCore_launches (c : Chip) (n : Nat) (f : Core → Core) : (c.modCore n f).launches = c.launches := rfl
@[simp] theorem Chip.modCore_formed (c : Chip) (n : Nat) (f : Core → Core) : (c.modCore n f).formed = c.formed := rfl
@[simp] theorem Chip.modCore_exitRecords (c : Chip) (n : Nat) (f : Core → Core) : (c.modCore n f).exitRecords = c.exitRecords := rfl
@[simp] theorem Chip.modCore_barInits (c : Chip) (n : Nat) (f : Core → Core) : (c.modCore n f).barInits = c.barInits := rfl
@[simp] theorem Chip.modCore_coreSets (c : Chip) (n : Nat) (f : Core → Core) : (c.modCore n f).coreSets = c.coreSets := rfl
@[simp] theorem Chip.modCore_moves (c : Chip) (n : Nat) (f : Core → Core) : (c.modCore n f).moves = c.moves := rfl
@[simp] theorem Chip.modCore_asked (c : Chip) (n : Nat) (f : Core → Core) : (c.modCore n f).asked = c.asked := rfl
@[simp] theorem Chip.modCore_queues (c : Chip) (n : Nat) (f : Core → Core) : (c.modCore n f).queues = c.queues := rfl
@[simp] theorem Chip.modCore_served (c : Chip) (n : Nat) (f : Core → Core) : (c.modCore n f).served = c.served := rfl
@[simp] theorem Chip.modCore_timelines (c : Chip) (n : Nat) (f : Core → Core) : (c.modCore n f).timelines = c.timelines := rfl
@[simp] theorem Chip.modCore_cmds (c : Chip) (n : Nat) (f : Core → Core) : (c.modCore n f).cmds = c.cmds := rfl
@[simp] theorem Chip.modCore_fab (c : Chip) (n : Nat) (f : Core → Core) : (c.modCore n f).fab = c.fab := rfl
@[simp] theorem Chip.modCore_tlb2 (c : Chip) (n : Nat) (f : Core → Core) : (c.modCore n f).tlb2 = c.tlb2 := rfl
@[simp] theorem Chip.modCore_failed (c : Chip) (n : Nat) (f : Core → Core) : (c.modCore n f).failed = c.failed := rfl
@[simp] theorem Chip.modCore_locks (c : Chip) (n : Nat) (f : Core → Core) : (c.modCore n f).locks = c.locks := rfl
@[simp] theorem Chip.modCore_nextId (c : Chip) (n : Nat) (f : Core → Core) : (c.modCore n f).nextId = c.nextId := rfl
@[simp] theorem Chip.modCore_order (c : Chip) (n : Nat) (f : Core → Core) : (c.modCore n f).order = c.order := rfl
@[simp] theorem Chip.modCore_fresh (c : Chip) (n : Nat) (f : Core → Core) : (c.modCore n f).fresh = c.fresh := rfl

@[simp] theorem Chip.modBench_dev (c : Chip) (n b : Nat) (f : Bench → Bench) : (c.modBench n b f).dev = c.dev := rfl
@[simp] theorem Chip.modBench_host (c : Chip) (n b : Nat) (f : Bench → Bench) : (c.modBench n b f).host = c.host := rfl
@[simp] theorem Chip.modBench_bad (c : Chip) (n b : Nat) (f : Bench → Bench) : (c.modBench n b f).bad = c.bad := rfl
@[simp] theorem Chip.modBench_locked (c : Chip) (n b : Nat) (f : Bench → Bench) : (c.modBench n b f).locked = c.locked := rfl
@[simp] theorem Chip.modBench_copying (c : Chip) (n b : Nat) (f : Bench → Bench) : (c.modBench n b f).copying = c.copying := rfl
@[simp] theorem Chip.modBench_fitted (c : Chip) (n b : Nat) (f : Bench → Bench) : (c.modBench n b f).fitted = c.fitted := rfl
@[simp] theorem Chip.modBench_cap (c : Chip) (n b : Nat) (f : Bench → Bench) : (c.modBench n b f).cap = c.cap := rfl
@[simp] theorem Chip.modBench_retired (c : Chip) (n b : Nat) (f : Bench → Bench) : (c.modBench n b f).retired = c.retired := rfl
@[simp] theorem Chip.modBench_reached (c : Chip) (n b : Nat) (f : Bench → Bench) : (c.modBench n b f).reached = c.reached := rfl
@[simp] theorem Chip.modBench_cmdWindow (c : Chip) (n b : Nat) (f : Bench → Bench) : (c.modBench n b f).cmdWindow = c.cmdWindow := rfl
@[simp] theorem Chip.modBench_journal (c : Chip) (n b : Nat) (f : Bench → Bench) : (c.modBench n b f).journal = c.journal := rfl
@[simp] theorem Chip.modBench_journalC (c : Chip) (n b : Nat) (f : Bench → Bench) : (c.modBench n b f).journalC = c.journalC := rfl
@[simp] theorem Chip.modBench_status (c : Chip) (n b : Nat) (f : Bench → Bench) : (c.modBench n b f).status = c.status := rfl
@[simp] theorem Chip.modBench_running (c : Chip) (n b : Nat) (f : Bench → Bench) : (c.modBench n b f).running = c.running := rfl
@[simp] theorem Chip.modBench_turn (c : Chip) (n b : Nat) (f : Bench → Bench) : (c.modBench n b f).turn = c.turn := rfl
@[simp] theorem Chip.modBench_cores (c : Chip) (n b : Nat) (f : Bench → Bench) : (c.modBench n b f).cores = c.cores := rfl
@[simp] theorem Chip.modBench_benches (c : Chip) (n b : Nat) (f : Bench → Bench) : (c.modBench n b f).benches = modAt c.benches (6 * n + b) f := rfl
@[simp] theorem Chip.modBench_sites (c : Chip) (n b : Nat) (f : Bench → Bench) : (c.modBench n b f).sites = c.sites := rfl
@[simp] theorem Chip.modBench_clusters (c : Chip) (n b : Nat) (f : Bench → Bench) : (c.modBench n b f).clusters = c.clusters := rfl
@[simp] theorem Chip.modBench_on (c : Chip) (n b : Nat) (f : Bench → Bench) : (c.modBench n b f).on = c.on := rfl
@[simp] theorem Chip.modBench_squads (c : Chip) (n b : Nat) (f : Bench → Bench) : (c.modBench n b f).squads = c.squads := rfl
@[simp] theorem Chip.modBench_requests (c : Chip) (n b : Nat) (f : Bench → Bench) : (c.modBench n b f).requests = c.requests := rfl
@[simp] theorem Chip.modBench_updates (c : Chip) (n b : Nat) (f : Bench → Bench) : (c.modBench n b f).updates = c.updates := rfl
@[simp] theorem Chip.modBench_counted (c : Chip) (n b : Nat) (f : Bench → Bench) : (c.modBench n b f).counted = c.counted := rfl
@[simp] theorem Chip.modBench_rings (c : Chip) (n b : Nat) (f : Bench → Bench) : (c.modBench n b f).rings = c.rings := rfl
@[simp] theorem Chip.modBench_ringRounds (c : Chip) (n b : Nat) (f : Bench → Bench) : (c.modBench n b f).ringRounds = c.ringRounds := rfl
@[simp] theorem Chip.modBench_ctxs (c : Chip) (n b : Nat) (f : Bench → Bench) : (c.modBench n b f).ctxs = c.ctxs := rfl
@[simp] theorem Chip.modBench_launches (c : Chip) (n b : Nat) (f : Bench → Bench) : (c.modBench n b f).launches = c.launches := rfl
@[simp] theorem Chip.modBench_formed (c : Chip) (n b : Nat) (f : Bench → Bench) : (c.modBench n b f).formed = c.formed := rfl
@[simp] theorem Chip.modBench_exitRecords (c : Chip) (n b : Nat) (f : Bench → Bench) : (c.modBench n b f).exitRecords = c.exitRecords := rfl
@[simp] theorem Chip.modBench_barInits (c : Chip) (n b : Nat) (f : Bench → Bench) : (c.modBench n b f).barInits = c.barInits := rfl
@[simp] theorem Chip.modBench_coreSets (c : Chip) (n b : Nat) (f : Bench → Bench) : (c.modBench n b f).coreSets = c.coreSets := rfl
@[simp] theorem Chip.modBench_moves (c : Chip) (n b : Nat) (f : Bench → Bench) : (c.modBench n b f).moves = c.moves := rfl
@[simp] theorem Chip.modBench_asked (c : Chip) (n b : Nat) (f : Bench → Bench) : (c.modBench n b f).asked = c.asked := rfl
@[simp] theorem Chip.modBench_queues (c : Chip) (n b : Nat) (f : Bench → Bench) : (c.modBench n b f).queues = c.queues := rfl
@[simp] theorem Chip.modBench_served (c : Chip) (n b : Nat) (f : Bench → Bench) : (c.modBench n b f).served = c.served := rfl
@[simp] theorem Chip.modBench_timelines (c : Chip) (n b : Nat) (f : Bench → Bench) : (c.modBench n b f).timelines = c.timelines := rfl
@[simp] theorem Chip.modBench_cmds (c : Chip) (n b : Nat) (f : Bench → Bench) : (c.modBench n b f).cmds = c.cmds := rfl
@[simp] theorem Chip.modBench_fab (c : Chip) (n b : Nat) (f : Bench → Bench) : (c.modBench n b f).fab = c.fab := rfl
@[simp] theorem Chip.modBench_tlb2 (c : Chip) (n b : Nat) (f : Bench → Bench) : (c.modBench n b f).tlb2 = c.tlb2 := rfl
@[simp] theorem Chip.modBench_failed (c : Chip) (n b : Nat) (f : Bench → Bench) : (c.modBench n b f).failed = c.failed := rfl
@[simp] theorem Chip.modBench_locks (c : Chip) (n b : Nat) (f : Bench → Bench) : (c.modBench n b f).locks = c.locks := rfl
@[simp] theorem Chip.modBench_nextId (c : Chip) (n b : Nat) (f : Bench → Bench) : (c.modBench n b f).nextId = c.nextId := rfl
@[simp] theorem Chip.modBench_order (c : Chip) (n b : Nat) (f : Bench → Bench) : (c.modBench n b f).order = c.order := rfl
@[simp] theorem Chip.modBench_fresh (c : Chip) (n b : Nat) (f : Bench → Bench) : (c.modBench n b f).fresh = c.fresh := rfl

@[simp] theorem Chip.modCtx_dev (c : Chip) (x : Nat) (f : Ctx → Ctx) : (c.modCtx x f).dev = c.dev := rfl
@[simp] theorem Chip.modCtx_host (c : Chip) (x : Nat) (f : Ctx → Ctx) : (c.modCtx x f).host = c.host := rfl
@[simp] theorem Chip.modCtx_bad (c : Chip) (x : Nat) (f : Ctx → Ctx) : (c.modCtx x f).bad = c.bad := rfl
@[simp] theorem Chip.modCtx_locked (c : Chip) (x : Nat) (f : Ctx → Ctx) : (c.modCtx x f).locked = c.locked := rfl
@[simp] theorem Chip.modCtx_copying (c : Chip) (x : Nat) (f : Ctx → Ctx) : (c.modCtx x f).copying = c.copying := rfl
@[simp] theorem Chip.modCtx_fitted (c : Chip) (x : Nat) (f : Ctx → Ctx) : (c.modCtx x f).fitted = c.fitted := rfl
@[simp] theorem Chip.modCtx_cap (c : Chip) (x : Nat) (f : Ctx → Ctx) : (c.modCtx x f).cap = c.cap := rfl
@[simp] theorem Chip.modCtx_retired (c : Chip) (x : Nat) (f : Ctx → Ctx) : (c.modCtx x f).retired = c.retired := rfl
@[simp] theorem Chip.modCtx_reached (c : Chip) (x : Nat) (f : Ctx → Ctx) : (c.modCtx x f).reached = c.reached := rfl
@[simp] theorem Chip.modCtx_cmdWindow (c : Chip) (x : Nat) (f : Ctx → Ctx) : (c.modCtx x f).cmdWindow = c.cmdWindow := rfl
@[simp] theorem Chip.modCtx_journal (c : Chip) (x : Nat) (f : Ctx → Ctx) : (c.modCtx x f).journal = c.journal := rfl
@[simp] theorem Chip.modCtx_journalC (c : Chip) (x : Nat) (f : Ctx → Ctx) : (c.modCtx x f).journalC = c.journalC := rfl
@[simp] theorem Chip.modCtx_status (c : Chip) (x : Nat) (f : Ctx → Ctx) : (c.modCtx x f).status = c.status := rfl
@[simp] theorem Chip.modCtx_running (c : Chip) (x : Nat) (f : Ctx → Ctx) : (c.modCtx x f).running = c.running := rfl
@[simp] theorem Chip.modCtx_turn (c : Chip) (x : Nat) (f : Ctx → Ctx) : (c.modCtx x f).turn = c.turn := rfl
@[simp] theorem Chip.modCtx_cores (c : Chip) (x : Nat) (f : Ctx → Ctx) : (c.modCtx x f).cores = c.cores := rfl
@[simp] theorem Chip.modCtx_benches (c : Chip) (x : Nat) (f : Ctx → Ctx) : (c.modCtx x f).benches = c.benches := rfl
@[simp] theorem Chip.modCtx_sites (c : Chip) (x : Nat) (f : Ctx → Ctx) : (c.modCtx x f).sites = c.sites := rfl
@[simp] theorem Chip.modCtx_clusters (c : Chip) (x : Nat) (f : Ctx → Ctx) : (c.modCtx x f).clusters = c.clusters := rfl
@[simp] theorem Chip.modCtx_on (c : Chip) (x : Nat) (f : Ctx → Ctx) : (c.modCtx x f).on = c.on := rfl
@[simp] theorem Chip.modCtx_squads (c : Chip) (x : Nat) (f : Ctx → Ctx) : (c.modCtx x f).squads = c.squads := rfl
@[simp] theorem Chip.modCtx_requests (c : Chip) (x : Nat) (f : Ctx → Ctx) : (c.modCtx x f).requests = c.requests := rfl
@[simp] theorem Chip.modCtx_updates (c : Chip) (x : Nat) (f : Ctx → Ctx) : (c.modCtx x f).updates = c.updates := rfl
@[simp] theorem Chip.modCtx_counted (c : Chip) (x : Nat) (f : Ctx → Ctx) : (c.modCtx x f).counted = c.counted := rfl
@[simp] theorem Chip.modCtx_rings (c : Chip) (x : Nat) (f : Ctx → Ctx) : (c.modCtx x f).rings = c.rings := rfl
@[simp] theorem Chip.modCtx_ringRounds (c : Chip) (x : Nat) (f : Ctx → Ctx) : (c.modCtx x f).ringRounds = c.ringRounds := rfl
@[simp] theorem Chip.modCtx_ctxs (c : Chip) (x : Nat) (f : Ctx → Ctx) : (c.modCtx x f).ctxs = modAt c.ctxs x (Option.map f) := rfl
@[simp] theorem Chip.modCtx_launches (c : Chip) (x : Nat) (f : Ctx → Ctx) : (c.modCtx x f).launches = c.launches := rfl
@[simp] theorem Chip.modCtx_formed (c : Chip) (x : Nat) (f : Ctx → Ctx) : (c.modCtx x f).formed = c.formed := rfl
@[simp] theorem Chip.modCtx_exitRecords (c : Chip) (x : Nat) (f : Ctx → Ctx) : (c.modCtx x f).exitRecords = c.exitRecords := rfl
@[simp] theorem Chip.modCtx_barInits (c : Chip) (x : Nat) (f : Ctx → Ctx) : (c.modCtx x f).barInits = c.barInits := rfl
@[simp] theorem Chip.modCtx_coreSets (c : Chip) (x : Nat) (f : Ctx → Ctx) : (c.modCtx x f).coreSets = c.coreSets := rfl
@[simp] theorem Chip.modCtx_moves (c : Chip) (x : Nat) (f : Ctx → Ctx) : (c.modCtx x f).moves = c.moves := rfl
@[simp] theorem Chip.modCtx_asked (c : Chip) (x : Nat) (f : Ctx → Ctx) : (c.modCtx x f).asked = c.asked := rfl
@[simp] theorem Chip.modCtx_queues (c : Chip) (x : Nat) (f : Ctx → Ctx) : (c.modCtx x f).queues = c.queues := rfl
@[simp] theorem Chip.modCtx_served (c : Chip) (x : Nat) (f : Ctx → Ctx) : (c.modCtx x f).served = c.served := rfl
@[simp] theorem Chip.modCtx_timelines (c : Chip) (x : Nat) (f : Ctx → Ctx) : (c.modCtx x f).timelines = c.timelines := rfl
@[simp] theorem Chip.modCtx_cmds (c : Chip) (x : Nat) (f : Ctx → Ctx) : (c.modCtx x f).cmds = c.cmds := rfl
@[simp] theorem Chip.modCtx_fab (c : Chip) (x : Nat) (f : Ctx → Ctx) : (c.modCtx x f).fab = c.fab := rfl
@[simp] theorem Chip.modCtx_tlb2 (c : Chip) (x : Nat) (f : Ctx → Ctx) : (c.modCtx x f).tlb2 = c.tlb2 := rfl
@[simp] theorem Chip.modCtx_failed (c : Chip) (x : Nat) (f : Ctx → Ctx) : (c.modCtx x f).failed = c.failed := rfl
@[simp] theorem Chip.modCtx_locks (c : Chip) (x : Nat) (f : Ctx → Ctx) : (c.modCtx x f).locks = c.locks := rfl
@[simp] theorem Chip.modCtx_nextId (c : Chip) (x : Nat) (f : Ctx → Ctx) : (c.modCtx x f).nextId = c.nextId := rfl
@[simp] theorem Chip.modCtx_order (c : Chip) (x : Nat) (f : Ctx → Ctx) : (c.modCtx x f).order = c.order := rfl
@[simp] theorem Chip.modCtx_fresh (c : Chip) (x : Nat) (f : Ctx → Ctx) : (c.modCtx x f).fresh = c.fresh := rfl

@[simp] theorem Chip.modSquad_dev (c : Chip) (u : Nat) (f : Squad → Squad) : (c.modSquad u f).dev = c.dev := rfl
@[simp] theorem Chip.modSquad_host (c : Chip) (u : Nat) (f : Squad → Squad) : (c.modSquad u f).host = c.host := rfl
@[simp] theorem Chip.modSquad_bad (c : Chip) (u : Nat) (f : Squad → Squad) : (c.modSquad u f).bad = c.bad := rfl
@[simp] theorem Chip.modSquad_locked (c : Chip) (u : Nat) (f : Squad → Squad) : (c.modSquad u f).locked = c.locked := rfl
@[simp] theorem Chip.modSquad_copying (c : Chip) (u : Nat) (f : Squad → Squad) : (c.modSquad u f).copying = c.copying := rfl
@[simp] theorem Chip.modSquad_fitted (c : Chip) (u : Nat) (f : Squad → Squad) : (c.modSquad u f).fitted = c.fitted := rfl
@[simp] theorem Chip.modSquad_cap (c : Chip) (u : Nat) (f : Squad → Squad) : (c.modSquad u f).cap = c.cap := rfl
@[simp] theorem Chip.modSquad_retired (c : Chip) (u : Nat) (f : Squad → Squad) : (c.modSquad u f).retired = c.retired := rfl
@[simp] theorem Chip.modSquad_reached (c : Chip) (u : Nat) (f : Squad → Squad) : (c.modSquad u f).reached = c.reached := rfl
@[simp] theorem Chip.modSquad_cmdWindow (c : Chip) (u : Nat) (f : Squad → Squad) : (c.modSquad u f).cmdWindow = c.cmdWindow := rfl
@[simp] theorem Chip.modSquad_journal (c : Chip) (u : Nat) (f : Squad → Squad) : (c.modSquad u f).journal = c.journal := rfl
@[simp] theorem Chip.modSquad_journalC (c : Chip) (u : Nat) (f : Squad → Squad) : (c.modSquad u f).journalC = c.journalC := rfl
@[simp] theorem Chip.modSquad_status (c : Chip) (u : Nat) (f : Squad → Squad) : (c.modSquad u f).status = c.status := rfl
@[simp] theorem Chip.modSquad_running (c : Chip) (u : Nat) (f : Squad → Squad) : (c.modSquad u f).running = c.running := rfl
@[simp] theorem Chip.modSquad_turn (c : Chip) (u : Nat) (f : Squad → Squad) : (c.modSquad u f).turn = c.turn := rfl
@[simp] theorem Chip.modSquad_cores (c : Chip) (u : Nat) (f : Squad → Squad) : (c.modSquad u f).cores = c.cores := rfl
@[simp] theorem Chip.modSquad_benches (c : Chip) (u : Nat) (f : Squad → Squad) : (c.modSquad u f).benches = c.benches := rfl
@[simp] theorem Chip.modSquad_sites (c : Chip) (u : Nat) (f : Squad → Squad) : (c.modSquad u f).sites = c.sites := rfl
@[simp] theorem Chip.modSquad_clusters (c : Chip) (u : Nat) (f : Squad → Squad) : (c.modSquad u f).clusters = c.clusters := rfl
@[simp] theorem Chip.modSquad_on (c : Chip) (u : Nat) (f : Squad → Squad) : (c.modSquad u f).on = c.on := rfl
@[simp] theorem Chip.modSquad_squads (c : Chip) (u : Nat) (f : Squad → Squad) : (c.modSquad u f).squads = c.squads.map fun q => if q.uid = u then f q else q := rfl
@[simp] theorem Chip.modSquad_requests (c : Chip) (u : Nat) (f : Squad → Squad) : (c.modSquad u f).requests = c.requests := rfl
@[simp] theorem Chip.modSquad_updates (c : Chip) (u : Nat) (f : Squad → Squad) : (c.modSquad u f).updates = c.updates := rfl
@[simp] theorem Chip.modSquad_counted (c : Chip) (u : Nat) (f : Squad → Squad) : (c.modSquad u f).counted = c.counted := rfl
@[simp] theorem Chip.modSquad_rings (c : Chip) (u : Nat) (f : Squad → Squad) : (c.modSquad u f).rings = c.rings := rfl
@[simp] theorem Chip.modSquad_ringRounds (c : Chip) (u : Nat) (f : Squad → Squad) : (c.modSquad u f).ringRounds = c.ringRounds := rfl
@[simp] theorem Chip.modSquad_ctxs (c : Chip) (u : Nat) (f : Squad → Squad) : (c.modSquad u f).ctxs = c.ctxs := rfl
@[simp] theorem Chip.modSquad_launches (c : Chip) (u : Nat) (f : Squad → Squad) : (c.modSquad u f).launches = c.launches := rfl
@[simp] theorem Chip.modSquad_formed (c : Chip) (u : Nat) (f : Squad → Squad) : (c.modSquad u f).formed = c.formed := rfl
@[simp] theorem Chip.modSquad_exitRecords (c : Chip) (u : Nat) (f : Squad → Squad) : (c.modSquad u f).exitRecords = c.exitRecords := rfl
@[simp] theorem Chip.modSquad_barInits (c : Chip) (u : Nat) (f : Squad → Squad) : (c.modSquad u f).barInits = c.barInits := rfl
@[simp] theorem Chip.modSquad_coreSets (c : Chip) (u : Nat) (f : Squad → Squad) : (c.modSquad u f).coreSets = c.coreSets := rfl
@[simp] theorem Chip.modSquad_moves (c : Chip) (u : Nat) (f : Squad → Squad) : (c.modSquad u f).moves = c.moves := rfl
@[simp] theorem Chip.modSquad_asked (c : Chip) (u : Nat) (f : Squad → Squad) : (c.modSquad u f).asked = c.asked := rfl
@[simp] theorem Chip.modSquad_queues (c : Chip) (u : Nat) (f : Squad → Squad) : (c.modSquad u f).queues = c.queues := rfl
@[simp] theorem Chip.modSquad_served (c : Chip) (u : Nat) (f : Squad → Squad) : (c.modSquad u f).served = c.served := rfl
@[simp] theorem Chip.modSquad_timelines (c : Chip) (u : Nat) (f : Squad → Squad) : (c.modSquad u f).timelines = c.timelines := rfl
@[simp] theorem Chip.modSquad_cmds (c : Chip) (u : Nat) (f : Squad → Squad) : (c.modSquad u f).cmds = c.cmds := rfl
@[simp] theorem Chip.modSquad_fab (c : Chip) (u : Nat) (f : Squad → Squad) : (c.modSquad u f).fab = c.fab := rfl
@[simp] theorem Chip.modSquad_tlb2 (c : Chip) (u : Nat) (f : Squad → Squad) : (c.modSquad u f).tlb2 = c.tlb2 := rfl
@[simp] theorem Chip.modSquad_failed (c : Chip) (u : Nat) (f : Squad → Squad) : (c.modSquad u f).failed = c.failed := rfl
@[simp] theorem Chip.modSquad_locks (c : Chip) (u : Nat) (f : Squad → Squad) : (c.modSquad u f).locks = c.locks := rfl
@[simp] theorem Chip.modSquad_nextId (c : Chip) (u : Nat) (f : Squad → Squad) : (c.modSquad u f).nextId = c.nextId := rfl
@[simp] theorem Chip.modSquad_order (c : Chip) (u : Nat) (f : Squad → Squad) : (c.modSquad u f).order = c.order := rfl
@[simp] theorem Chip.modSquad_fresh (c : Chip) (u : Nat) (f : Squad → Squad) : (c.modSquad u f).fresh = c.fresh := rfl

@[simp] theorem Chip.setSquad_dev (c : Chip) (p : Squad) : (c.setSquad p).dev = c.dev := rfl
@[simp] theorem Chip.setSquad_host (c : Chip) (p : Squad) : (c.setSquad p).host = c.host := rfl
@[simp] theorem Chip.setSquad_bad (c : Chip) (p : Squad) : (c.setSquad p).bad = c.bad := rfl
@[simp] theorem Chip.setSquad_locked (c : Chip) (p : Squad) : (c.setSquad p).locked = c.locked := rfl
@[simp] theorem Chip.setSquad_copying (c : Chip) (p : Squad) : (c.setSquad p).copying = c.copying := rfl
@[simp] theorem Chip.setSquad_fitted (c : Chip) (p : Squad) : (c.setSquad p).fitted = c.fitted := rfl
@[simp] theorem Chip.setSquad_cap (c : Chip) (p : Squad) : (c.setSquad p).cap = c.cap := rfl
@[simp] theorem Chip.setSquad_retired (c : Chip) (p : Squad) : (c.setSquad p).retired = c.retired := rfl
@[simp] theorem Chip.setSquad_reached (c : Chip) (p : Squad) : (c.setSquad p).reached = c.reached := rfl
@[simp] theorem Chip.setSquad_cmdWindow (c : Chip) (p : Squad) : (c.setSquad p).cmdWindow = c.cmdWindow := rfl
@[simp] theorem Chip.setSquad_journal (c : Chip) (p : Squad) : (c.setSquad p).journal = c.journal := rfl
@[simp] theorem Chip.setSquad_journalC (c : Chip) (p : Squad) : (c.setSquad p).journalC = c.journalC := rfl
@[simp] theorem Chip.setSquad_status (c : Chip) (p : Squad) : (c.setSquad p).status = c.status := rfl
@[simp] theorem Chip.setSquad_running (c : Chip) (p : Squad) : (c.setSquad p).running = c.running := rfl
@[simp] theorem Chip.setSquad_turn (c : Chip) (p : Squad) : (c.setSquad p).turn = c.turn := rfl
@[simp] theorem Chip.setSquad_cores (c : Chip) (p : Squad) : (c.setSquad p).cores = c.cores := rfl
@[simp] theorem Chip.setSquad_benches (c : Chip) (p : Squad) : (c.setSquad p).benches = c.benches := rfl
@[simp] theorem Chip.setSquad_sites (c : Chip) (p : Squad) : (c.setSquad p).sites = c.sites := rfl
@[simp] theorem Chip.setSquad_clusters (c : Chip) (p : Squad) : (c.setSquad p).clusters = c.clusters := rfl
@[simp] theorem Chip.setSquad_on (c : Chip) (p : Squad) : (c.setSquad p).on = c.on := rfl
@[simp] theorem Chip.setSquad_squads (c : Chip) (p : Squad) : (c.setSquad p).squads = c.squads.map fun q => if q.uid = p.uid then p else q := rfl
@[simp] theorem Chip.setSquad_requests (c : Chip) (p : Squad) : (c.setSquad p).requests = c.requests := rfl
@[simp] theorem Chip.setSquad_updates (c : Chip) (p : Squad) : (c.setSquad p).updates = c.updates := rfl
@[simp] theorem Chip.setSquad_counted (c : Chip) (p : Squad) : (c.setSquad p).counted = c.counted := rfl
@[simp] theorem Chip.setSquad_rings (c : Chip) (p : Squad) : (c.setSquad p).rings = c.rings := rfl
@[simp] theorem Chip.setSquad_ringRounds (c : Chip) (p : Squad) : (c.setSquad p).ringRounds = c.ringRounds := rfl
@[simp] theorem Chip.setSquad_ctxs (c : Chip) (p : Squad) : (c.setSquad p).ctxs = c.ctxs := rfl
@[simp] theorem Chip.setSquad_launches (c : Chip) (p : Squad) : (c.setSquad p).launches = c.launches := rfl
@[simp] theorem Chip.setSquad_formed (c : Chip) (p : Squad) : (c.setSquad p).formed = c.formed := rfl
@[simp] theorem Chip.setSquad_exitRecords (c : Chip) (p : Squad) : (c.setSquad p).exitRecords = c.exitRecords := rfl
@[simp] theorem Chip.setSquad_barInits (c : Chip) (p : Squad) : (c.setSquad p).barInits = c.barInits := rfl
@[simp] theorem Chip.setSquad_coreSets (c : Chip) (p : Squad) : (c.setSquad p).coreSets = c.coreSets := rfl
@[simp] theorem Chip.setSquad_moves (c : Chip) (p : Squad) : (c.setSquad p).moves = c.moves := rfl
@[simp] theorem Chip.setSquad_asked (c : Chip) (p : Squad) : (c.setSquad p).asked = c.asked := rfl
@[simp] theorem Chip.setSquad_queues (c : Chip) (p : Squad) : (c.setSquad p).queues = c.queues := rfl
@[simp] theorem Chip.setSquad_served (c : Chip) (p : Squad) : (c.setSquad p).served = c.served := rfl
@[simp] theorem Chip.setSquad_timelines (c : Chip) (p : Squad) : (c.setSquad p).timelines = c.timelines := rfl
@[simp] theorem Chip.setSquad_cmds (c : Chip) (p : Squad) : (c.setSquad p).cmds = c.cmds := rfl
@[simp] theorem Chip.setSquad_fab (c : Chip) (p : Squad) : (c.setSquad p).fab = c.fab := rfl
@[simp] theorem Chip.setSquad_tlb2 (c : Chip) (p : Squad) : (c.setSquad p).tlb2 = c.tlb2 := rfl
@[simp] theorem Chip.setSquad_failed (c : Chip) (p : Squad) : (c.setSquad p).failed = c.failed := rfl
@[simp] theorem Chip.setSquad_locks (c : Chip) (p : Squad) : (c.setSquad p).locks = c.locks := rfl
@[simp] theorem Chip.setSquad_nextId (c : Chip) (p : Squad) : (c.setSquad p).nextId = c.nextId := rfl
@[simp] theorem Chip.setSquad_order (c : Chip) (p : Squad) : (c.setSquad p).order = c.order := rfl
@[simp] theorem Chip.setSquad_fresh (c : Chip) (p : Squad) : (c.setSquad p).fresh = c.fresh := rfl

@[simp] theorem Chip.modLaunch_dev (c : Chip) (i : Nat) (f : Launch → Launch) : (c.modLaunch i f).dev = c.dev := rfl
@[simp] theorem Chip.modLaunch_host (c : Chip) (i : Nat) (f : Launch → Launch) : (c.modLaunch i f).host = c.host := rfl
@[simp] theorem Chip.modLaunch_bad (c : Chip) (i : Nat) (f : Launch → Launch) : (c.modLaunch i f).bad = c.bad := rfl
@[simp] theorem Chip.modLaunch_locked (c : Chip) (i : Nat) (f : Launch → Launch) : (c.modLaunch i f).locked = c.locked := rfl
@[simp] theorem Chip.modLaunch_copying (c : Chip) (i : Nat) (f : Launch → Launch) : (c.modLaunch i f).copying = c.copying := rfl
@[simp] theorem Chip.modLaunch_fitted (c : Chip) (i : Nat) (f : Launch → Launch) : (c.modLaunch i f).fitted = c.fitted := rfl
@[simp] theorem Chip.modLaunch_cap (c : Chip) (i : Nat) (f : Launch → Launch) : (c.modLaunch i f).cap = c.cap := rfl
@[simp] theorem Chip.modLaunch_retired (c : Chip) (i : Nat) (f : Launch → Launch) : (c.modLaunch i f).retired = c.retired := rfl
@[simp] theorem Chip.modLaunch_reached (c : Chip) (i : Nat) (f : Launch → Launch) : (c.modLaunch i f).reached = c.reached := rfl
@[simp] theorem Chip.modLaunch_cmdWindow (c : Chip) (i : Nat) (f : Launch → Launch) : (c.modLaunch i f).cmdWindow = c.cmdWindow := rfl
@[simp] theorem Chip.modLaunch_journal (c : Chip) (i : Nat) (f : Launch → Launch) : (c.modLaunch i f).journal = c.journal := rfl
@[simp] theorem Chip.modLaunch_journalC (c : Chip) (i : Nat) (f : Launch → Launch) : (c.modLaunch i f).journalC = c.journalC := rfl
@[simp] theorem Chip.modLaunch_status (c : Chip) (i : Nat) (f : Launch → Launch) : (c.modLaunch i f).status = c.status := rfl
@[simp] theorem Chip.modLaunch_running (c : Chip) (i : Nat) (f : Launch → Launch) : (c.modLaunch i f).running = c.running := rfl
@[simp] theorem Chip.modLaunch_turn (c : Chip) (i : Nat) (f : Launch → Launch) : (c.modLaunch i f).turn = c.turn := rfl
@[simp] theorem Chip.modLaunch_cores (c : Chip) (i : Nat) (f : Launch → Launch) : (c.modLaunch i f).cores = c.cores := rfl
@[simp] theorem Chip.modLaunch_benches (c : Chip) (i : Nat) (f : Launch → Launch) : (c.modLaunch i f).benches = c.benches := rfl
@[simp] theorem Chip.modLaunch_sites (c : Chip) (i : Nat) (f : Launch → Launch) : (c.modLaunch i f).sites = c.sites := rfl
@[simp] theorem Chip.modLaunch_clusters (c : Chip) (i : Nat) (f : Launch → Launch) : (c.modLaunch i f).clusters = c.clusters := rfl
@[simp] theorem Chip.modLaunch_on (c : Chip) (i : Nat) (f : Launch → Launch) : (c.modLaunch i f).on = c.on := rfl
@[simp] theorem Chip.modLaunch_squads (c : Chip) (i : Nat) (f : Launch → Launch) : (c.modLaunch i f).squads = c.squads := rfl
@[simp] theorem Chip.modLaunch_requests (c : Chip) (i : Nat) (f : Launch → Launch) : (c.modLaunch i f).requests = c.requests := rfl
@[simp] theorem Chip.modLaunch_updates (c : Chip) (i : Nat) (f : Launch → Launch) : (c.modLaunch i f).updates = c.updates := rfl
@[simp] theorem Chip.modLaunch_counted (c : Chip) (i : Nat) (f : Launch → Launch) : (c.modLaunch i f).counted = c.counted := rfl
@[simp] theorem Chip.modLaunch_rings (c : Chip) (i : Nat) (f : Launch → Launch) : (c.modLaunch i f).rings = c.rings := rfl
@[simp] theorem Chip.modLaunch_ringRounds (c : Chip) (i : Nat) (f : Launch → Launch) : (c.modLaunch i f).ringRounds = c.ringRounds := rfl
@[simp] theorem Chip.modLaunch_ctxs (c : Chip) (i : Nat) (f : Launch → Launch) : (c.modLaunch i f).ctxs = c.ctxs := rfl
@[simp] theorem Chip.modLaunch_launches (c : Chip) (i : Nat) (f : Launch → Launch) : (c.modLaunch i f).launches = c.launches.map fun l => if l.id = i then f l else l := rfl
@[simp] theorem Chip.modLaunch_formed (c : Chip) (i : Nat) (f : Launch → Launch) : (c.modLaunch i f).formed = c.formed := rfl
@[simp] theorem Chip.modLaunch_exitRecords (c : Chip) (i : Nat) (f : Launch → Launch) : (c.modLaunch i f).exitRecords = c.exitRecords := rfl
@[simp] theorem Chip.modLaunch_barInits (c : Chip) (i : Nat) (f : Launch → Launch) : (c.modLaunch i f).barInits = c.barInits := rfl
@[simp] theorem Chip.modLaunch_coreSets (c : Chip) (i : Nat) (f : Launch → Launch) : (c.modLaunch i f).coreSets = c.coreSets := rfl
@[simp] theorem Chip.modLaunch_moves (c : Chip) (i : Nat) (f : Launch → Launch) : (c.modLaunch i f).moves = c.moves := rfl
@[simp] theorem Chip.modLaunch_asked (c : Chip) (i : Nat) (f : Launch → Launch) : (c.modLaunch i f).asked = c.asked := rfl
@[simp] theorem Chip.modLaunch_queues (c : Chip) (i : Nat) (f : Launch → Launch) : (c.modLaunch i f).queues = c.queues := rfl
@[simp] theorem Chip.modLaunch_served (c : Chip) (i : Nat) (f : Launch → Launch) : (c.modLaunch i f).served = c.served := rfl
@[simp] theorem Chip.modLaunch_timelines (c : Chip) (i : Nat) (f : Launch → Launch) : (c.modLaunch i f).timelines = c.timelines := rfl
@[simp] theorem Chip.modLaunch_cmds (c : Chip) (i : Nat) (f : Launch → Launch) : (c.modLaunch i f).cmds = c.cmds := rfl
@[simp] theorem Chip.modLaunch_fab (c : Chip) (i : Nat) (f : Launch → Launch) : (c.modLaunch i f).fab = c.fab := rfl
@[simp] theorem Chip.modLaunch_tlb2 (c : Chip) (i : Nat) (f : Launch → Launch) : (c.modLaunch i f).tlb2 = c.tlb2 := rfl
@[simp] theorem Chip.modLaunch_failed (c : Chip) (i : Nat) (f : Launch → Launch) : (c.modLaunch i f).failed = c.failed := rfl
@[simp] theorem Chip.modLaunch_locks (c : Chip) (i : Nat) (f : Launch → Launch) : (c.modLaunch i f).locks = c.locks := rfl
@[simp] theorem Chip.modLaunch_nextId (c : Chip) (i : Nat) (f : Launch → Launch) : (c.modLaunch i f).nextId = c.nextId := rfl
@[simp] theorem Chip.modLaunch_order (c : Chip) (i : Nat) (f : Launch → Launch) : (c.modLaunch i f).order = c.order := rfl
@[simp] theorem Chip.modLaunch_fresh (c : Chip) (i : Nat) (f : Launch → Launch) : (c.modLaunch i f).fresh = c.fresh := rfl

@[simp] theorem Chip.modThread_dev (c : Chip) (n t : Nat) (f : QThread → QThread) : (c.modThread n t f).dev = c.dev := rfl
@[simp] theorem Chip.modThread_host (c : Chip) (n t : Nat) (f : QThread → QThread) : (c.modThread n t f).host = c.host := rfl
@[simp] theorem Chip.modThread_bad (c : Chip) (n t : Nat) (f : QThread → QThread) : (c.modThread n t f).bad = c.bad := rfl
@[simp] theorem Chip.modThread_locked (c : Chip) (n t : Nat) (f : QThread → QThread) : (c.modThread n t f).locked = c.locked := rfl
@[simp] theorem Chip.modThread_copying (c : Chip) (n t : Nat) (f : QThread → QThread) : (c.modThread n t f).copying = c.copying := rfl
@[simp] theorem Chip.modThread_fitted (c : Chip) (n t : Nat) (f : QThread → QThread) : (c.modThread n t f).fitted = c.fitted := rfl
@[simp] theorem Chip.modThread_cap (c : Chip) (n t : Nat) (f : QThread → QThread) : (c.modThread n t f).cap = c.cap := rfl
@[simp] theorem Chip.modThread_retired (c : Chip) (n t : Nat) (f : QThread → QThread) : (c.modThread n t f).retired = c.retired := rfl
@[simp] theorem Chip.modThread_reached (c : Chip) (n t : Nat) (f : QThread → QThread) : (c.modThread n t f).reached = c.reached := rfl
@[simp] theorem Chip.modThread_cmdWindow (c : Chip) (n t : Nat) (f : QThread → QThread) : (c.modThread n t f).cmdWindow = c.cmdWindow := rfl
@[simp] theorem Chip.modThread_journal (c : Chip) (n t : Nat) (f : QThread → QThread) : (c.modThread n t f).journal = c.journal := rfl
@[simp] theorem Chip.modThread_journalC (c : Chip) (n t : Nat) (f : QThread → QThread) : (c.modThread n t f).journalC = c.journalC := rfl
@[simp] theorem Chip.modThread_status (c : Chip) (n t : Nat) (f : QThread → QThread) : (c.modThread n t f).status = c.status := rfl
@[simp] theorem Chip.modThread_running (c : Chip) (n t : Nat) (f : QThread → QThread) : (c.modThread n t f).running = c.running := rfl
@[simp] theorem Chip.modThread_turn (c : Chip) (n t : Nat) (f : QThread → QThread) : (c.modThread n t f).turn = c.turn := rfl
@[simp] theorem Chip.modThread_cores (c : Chip) (n t : Nat) (f : QThread → QThread) : (c.modThread n t f).cores = modAt c.cores n fun k => { k with threads := modAt k.threads t (Option.map f) } := rfl
@[simp] theorem Chip.modThread_benches (c : Chip) (n t : Nat) (f : QThread → QThread) : (c.modThread n t f).benches = c.benches := rfl
@[simp] theorem Chip.modThread_sites (c : Chip) (n t : Nat) (f : QThread → QThread) : (c.modThread n t f).sites = c.sites := rfl
@[simp] theorem Chip.modThread_clusters (c : Chip) (n t : Nat) (f : QThread → QThread) : (c.modThread n t f).clusters = c.clusters := rfl
@[simp] theorem Chip.modThread_on (c : Chip) (n t : Nat) (f : QThread → QThread) : (c.modThread n t f).on = c.on := rfl
@[simp] theorem Chip.modThread_squads (c : Chip) (n t : Nat) (f : QThread → QThread) : (c.modThread n t f).squads = c.squads := rfl
@[simp] theorem Chip.modThread_requests (c : Chip) (n t : Nat) (f : QThread → QThread) : (c.modThread n t f).requests = c.requests := rfl
@[simp] theorem Chip.modThread_updates (c : Chip) (n t : Nat) (f : QThread → QThread) : (c.modThread n t f).updates = c.updates := rfl
@[simp] theorem Chip.modThread_counted (c : Chip) (n t : Nat) (f : QThread → QThread) : (c.modThread n t f).counted = c.counted := rfl
@[simp] theorem Chip.modThread_rings (c : Chip) (n t : Nat) (f : QThread → QThread) : (c.modThread n t f).rings = c.rings := rfl
@[simp] theorem Chip.modThread_ringRounds (c : Chip) (n t : Nat) (f : QThread → QThread) : (c.modThread n t f).ringRounds = c.ringRounds := rfl
@[simp] theorem Chip.modThread_ctxs (c : Chip) (n t : Nat) (f : QThread → QThread) : (c.modThread n t f).ctxs = c.ctxs := rfl
@[simp] theorem Chip.modThread_launches (c : Chip) (n t : Nat) (f : QThread → QThread) : (c.modThread n t f).launches = c.launches := rfl
@[simp] theorem Chip.modThread_formed (c : Chip) (n t : Nat) (f : QThread → QThread) : (c.modThread n t f).formed = c.formed := rfl
@[simp] theorem Chip.modThread_exitRecords (c : Chip) (n t : Nat) (f : QThread → QThread) : (c.modThread n t f).exitRecords = c.exitRecords := rfl
@[simp] theorem Chip.modThread_barInits (c : Chip) (n t : Nat) (f : QThread → QThread) : (c.modThread n t f).barInits = c.barInits := rfl
@[simp] theorem Chip.modThread_coreSets (c : Chip) (n t : Nat) (f : QThread → QThread) : (c.modThread n t f).coreSets = c.coreSets := rfl
@[simp] theorem Chip.modThread_moves (c : Chip) (n t : Nat) (f : QThread → QThread) : (c.modThread n t f).moves = c.moves := rfl
@[simp] theorem Chip.modThread_asked (c : Chip) (n t : Nat) (f : QThread → QThread) : (c.modThread n t f).asked = c.asked := rfl
@[simp] theorem Chip.modThread_queues (c : Chip) (n t : Nat) (f : QThread → QThread) : (c.modThread n t f).queues = c.queues := rfl
@[simp] theorem Chip.modThread_served (c : Chip) (n t : Nat) (f : QThread → QThread) : (c.modThread n t f).served = c.served := rfl
@[simp] theorem Chip.modThread_timelines (c : Chip) (n t : Nat) (f : QThread → QThread) : (c.modThread n t f).timelines = c.timelines := rfl
@[simp] theorem Chip.modThread_cmds (c : Chip) (n t : Nat) (f : QThread → QThread) : (c.modThread n t f).cmds = c.cmds := rfl
@[simp] theorem Chip.modThread_fab (c : Chip) (n t : Nat) (f : QThread → QThread) : (c.modThread n t f).fab = c.fab := rfl
@[simp] theorem Chip.modThread_tlb2 (c : Chip) (n t : Nat) (f : QThread → QThread) : (c.modThread n t f).tlb2 = c.tlb2 := rfl
@[simp] theorem Chip.modThread_failed (c : Chip) (n t : Nat) (f : QThread → QThread) : (c.modThread n t f).failed = c.failed := rfl
@[simp] theorem Chip.modThread_locks (c : Chip) (n t : Nat) (f : QThread → QThread) : (c.modThread n t f).locks = c.locks := rfl
@[simp] theorem Chip.modThread_nextId (c : Chip) (n t : Nat) (f : QThread → QThread) : (c.modThread n t f).nextId = c.nextId := rfl
@[simp] theorem Chip.modThread_order (c : Chip) (n t : Nat) (f : QThread → QThread) : (c.modThread n t f).order = c.order := rfl
@[simp] theorem Chip.modThread_fresh (c : Chip) (n t : Nat) (f : QThread → QThread) : (c.modThread n t f).fresh = c.fresh := rfl

@[simp] theorem Chip.modQueue_dev (c : Chip) (n q : Nat) (f : Queue → Queue) : (c.modQueue n q f).dev = c.dev := rfl
@[simp] theorem Chip.modQueue_host (c : Chip) (n q : Nat) (f : Queue → Queue) : (c.modQueue n q f).host = c.host := rfl
@[simp] theorem Chip.modQueue_bad (c : Chip) (n q : Nat) (f : Queue → Queue) : (c.modQueue n q f).bad = c.bad := rfl
@[simp] theorem Chip.modQueue_locked (c : Chip) (n q : Nat) (f : Queue → Queue) : (c.modQueue n q f).locked = c.locked := rfl
@[simp] theorem Chip.modQueue_copying (c : Chip) (n q : Nat) (f : Queue → Queue) : (c.modQueue n q f).copying = c.copying := rfl
@[simp] theorem Chip.modQueue_fitted (c : Chip) (n q : Nat) (f : Queue → Queue) : (c.modQueue n q f).fitted = c.fitted := rfl
@[simp] theorem Chip.modQueue_cap (c : Chip) (n q : Nat) (f : Queue → Queue) : (c.modQueue n q f).cap = c.cap := rfl
@[simp] theorem Chip.modQueue_retired (c : Chip) (n q : Nat) (f : Queue → Queue) : (c.modQueue n q f).retired = c.retired := rfl
@[simp] theorem Chip.modQueue_reached (c : Chip) (n q : Nat) (f : Queue → Queue) : (c.modQueue n q f).reached = c.reached := rfl
@[simp] theorem Chip.modQueue_cmdWindow (c : Chip) (n q : Nat) (f : Queue → Queue) : (c.modQueue n q f).cmdWindow = c.cmdWindow := rfl
@[simp] theorem Chip.modQueue_journal (c : Chip) (n q : Nat) (f : Queue → Queue) : (c.modQueue n q f).journal = c.journal := rfl
@[simp] theorem Chip.modQueue_journalC (c : Chip) (n q : Nat) (f : Queue → Queue) : (c.modQueue n q f).journalC = c.journalC := rfl
@[simp] theorem Chip.modQueue_status (c : Chip) (n q : Nat) (f : Queue → Queue) : (c.modQueue n q f).status = c.status := rfl
@[simp] theorem Chip.modQueue_running (c : Chip) (n q : Nat) (f : Queue → Queue) : (c.modQueue n q f).running = c.running := rfl
@[simp] theorem Chip.modQueue_turn (c : Chip) (n q : Nat) (f : Queue → Queue) : (c.modQueue n q f).turn = c.turn := rfl
@[simp] theorem Chip.modQueue_cores (c : Chip) (n q : Nat) (f : Queue → Queue) : (c.modQueue n q f).cores = modAt c.cores n fun k => { k with queues := modAt k.queues q f } := rfl
@[simp] theorem Chip.modQueue_benches (c : Chip) (n q : Nat) (f : Queue → Queue) : (c.modQueue n q f).benches = c.benches := rfl
@[simp] theorem Chip.modQueue_sites (c : Chip) (n q : Nat) (f : Queue → Queue) : (c.modQueue n q f).sites = c.sites := rfl
@[simp] theorem Chip.modQueue_clusters (c : Chip) (n q : Nat) (f : Queue → Queue) : (c.modQueue n q f).clusters = c.clusters := rfl
@[simp] theorem Chip.modQueue_on (c : Chip) (n q : Nat) (f : Queue → Queue) : (c.modQueue n q f).on = c.on := rfl
@[simp] theorem Chip.modQueue_squads (c : Chip) (n q : Nat) (f : Queue → Queue) : (c.modQueue n q f).squads = c.squads := rfl
@[simp] theorem Chip.modQueue_requests (c : Chip) (n q : Nat) (f : Queue → Queue) : (c.modQueue n q f).requests = c.requests := rfl
@[simp] theorem Chip.modQueue_updates (c : Chip) (n q : Nat) (f : Queue → Queue) : (c.modQueue n q f).updates = c.updates := rfl
@[simp] theorem Chip.modQueue_counted (c : Chip) (n q : Nat) (f : Queue → Queue) : (c.modQueue n q f).counted = c.counted := rfl
@[simp] theorem Chip.modQueue_rings (c : Chip) (n q : Nat) (f : Queue → Queue) : (c.modQueue n q f).rings = c.rings := rfl
@[simp] theorem Chip.modQueue_ringRounds (c : Chip) (n q : Nat) (f : Queue → Queue) : (c.modQueue n q f).ringRounds = c.ringRounds := rfl
@[simp] theorem Chip.modQueue_ctxs (c : Chip) (n q : Nat) (f : Queue → Queue) : (c.modQueue n q f).ctxs = c.ctxs := rfl
@[simp] theorem Chip.modQueue_launches (c : Chip) (n q : Nat) (f : Queue → Queue) : (c.modQueue n q f).launches = c.launches := rfl
@[simp] theorem Chip.modQueue_formed (c : Chip) (n q : Nat) (f : Queue → Queue) : (c.modQueue n q f).formed = c.formed := rfl
@[simp] theorem Chip.modQueue_exitRecords (c : Chip) (n q : Nat) (f : Queue → Queue) : (c.modQueue n q f).exitRecords = c.exitRecords := rfl
@[simp] theorem Chip.modQueue_barInits (c : Chip) (n q : Nat) (f : Queue → Queue) : (c.modQueue n q f).barInits = c.barInits := rfl
@[simp] theorem Chip.modQueue_coreSets (c : Chip) (n q : Nat) (f : Queue → Queue) : (c.modQueue n q f).coreSets = c.coreSets := rfl
@[simp] theorem Chip.modQueue_moves (c : Chip) (n q : Nat) (f : Queue → Queue) : (c.modQueue n q f).moves = c.moves := rfl
@[simp] theorem Chip.modQueue_asked (c : Chip) (n q : Nat) (f : Queue → Queue) : (c.modQueue n q f).asked = c.asked := rfl
@[simp] theorem Chip.modQueue_queues (c : Chip) (n q : Nat) (f : Queue → Queue) : (c.modQueue n q f).queues = c.queues := rfl
@[simp] theorem Chip.modQueue_served (c : Chip) (n q : Nat) (f : Queue → Queue) : (c.modQueue n q f).served = c.served := rfl
@[simp] theorem Chip.modQueue_timelines (c : Chip) (n q : Nat) (f : Queue → Queue) : (c.modQueue n q f).timelines = c.timelines := rfl
@[simp] theorem Chip.modQueue_cmds (c : Chip) (n q : Nat) (f : Queue → Queue) : (c.modQueue n q f).cmds = c.cmds := rfl
@[simp] theorem Chip.modQueue_fab (c : Chip) (n q : Nat) (f : Queue → Queue) : (c.modQueue n q f).fab = c.fab := rfl
@[simp] theorem Chip.modQueue_tlb2 (c : Chip) (n q : Nat) (f : Queue → Queue) : (c.modQueue n q f).tlb2 = c.tlb2 := rfl
@[simp] theorem Chip.modQueue_failed (c : Chip) (n q : Nat) (f : Queue → Queue) : (c.modQueue n q f).failed = c.failed := rfl
@[simp] theorem Chip.modQueue_locks (c : Chip) (n q : Nat) (f : Queue → Queue) : (c.modQueue n q f).locks = c.locks := rfl
@[simp] theorem Chip.modQueue_nextId (c : Chip) (n q : Nat) (f : Queue → Queue) : (c.modQueue n q f).nextId = c.nextId := rfl
@[simp] theorem Chip.modQueue_order (c : Chip) (n q : Nat) (f : Queue → Queue) : (c.modQueue n q f).order = c.order := rfl
@[simp] theorem Chip.modQueue_fresh (c : Chip) (n q : Nat) (f : Queue → Queue) : (c.modQueue n q f).fresh = c.fresh := rfl

@[simp] theorem Chip.modRequest_dev (c : Chip) (i : Nat) (f : Request → Request) : (c.modRequest i f).dev = c.dev := rfl
@[simp] theorem Chip.modRequest_host (c : Chip) (i : Nat) (f : Request → Request) : (c.modRequest i f).host = c.host := rfl
@[simp] theorem Chip.modRequest_bad (c : Chip) (i : Nat) (f : Request → Request) : (c.modRequest i f).bad = c.bad := rfl
@[simp] theorem Chip.modRequest_locked (c : Chip) (i : Nat) (f : Request → Request) : (c.modRequest i f).locked = c.locked := rfl
@[simp] theorem Chip.modRequest_copying (c : Chip) (i : Nat) (f : Request → Request) : (c.modRequest i f).copying = c.copying := rfl
@[simp] theorem Chip.modRequest_fitted (c : Chip) (i : Nat) (f : Request → Request) : (c.modRequest i f).fitted = c.fitted := rfl
@[simp] theorem Chip.modRequest_cap (c : Chip) (i : Nat) (f : Request → Request) : (c.modRequest i f).cap = c.cap := rfl
@[simp] theorem Chip.modRequest_retired (c : Chip) (i : Nat) (f : Request → Request) : (c.modRequest i f).retired = c.retired := rfl
@[simp] theorem Chip.modRequest_reached (c : Chip) (i : Nat) (f : Request → Request) : (c.modRequest i f).reached = c.reached := rfl
@[simp] theorem Chip.modRequest_cmdWindow (c : Chip) (i : Nat) (f : Request → Request) : (c.modRequest i f).cmdWindow = c.cmdWindow := rfl
@[simp] theorem Chip.modRequest_journal (c : Chip) (i : Nat) (f : Request → Request) : (c.modRequest i f).journal = c.journal := rfl
@[simp] theorem Chip.modRequest_journalC (c : Chip) (i : Nat) (f : Request → Request) : (c.modRequest i f).journalC = c.journalC := rfl
@[simp] theorem Chip.modRequest_status (c : Chip) (i : Nat) (f : Request → Request) : (c.modRequest i f).status = c.status := rfl
@[simp] theorem Chip.modRequest_running (c : Chip) (i : Nat) (f : Request → Request) : (c.modRequest i f).running = c.running := rfl
@[simp] theorem Chip.modRequest_turn (c : Chip) (i : Nat) (f : Request → Request) : (c.modRequest i f).turn = c.turn := rfl
@[simp] theorem Chip.modRequest_cores (c : Chip) (i : Nat) (f : Request → Request) : (c.modRequest i f).cores = c.cores := rfl
@[simp] theorem Chip.modRequest_benches (c : Chip) (i : Nat) (f : Request → Request) : (c.modRequest i f).benches = c.benches := rfl
@[simp] theorem Chip.modRequest_sites (c : Chip) (i : Nat) (f : Request → Request) : (c.modRequest i f).sites = c.sites := rfl
@[simp] theorem Chip.modRequest_clusters (c : Chip) (i : Nat) (f : Request → Request) : (c.modRequest i f).clusters = c.clusters := rfl
@[simp] theorem Chip.modRequest_on (c : Chip) (i : Nat) (f : Request → Request) : (c.modRequest i f).on = c.on := rfl
@[simp] theorem Chip.modRequest_squads (c : Chip) (i : Nat) (f : Request → Request) : (c.modRequest i f).squads = c.squads := rfl
@[simp] theorem Chip.modRequest_requests (c : Chip) (i : Nat) (f : Request → Request) : (c.modRequest i f).requests = c.requests.map fun r => if r.id = i then f r else r := rfl
@[simp] theorem Chip.modRequest_updates (c : Chip) (i : Nat) (f : Request → Request) : (c.modRequest i f).updates = c.updates := rfl
@[simp] theorem Chip.modRequest_counted (c : Chip) (i : Nat) (f : Request → Request) : (c.modRequest i f).counted = c.counted := rfl
@[simp] theorem Chip.modRequest_rings (c : Chip) (i : Nat) (f : Request → Request) : (c.modRequest i f).rings = c.rings := rfl
@[simp] theorem Chip.modRequest_ringRounds (c : Chip) (i : Nat) (f : Request → Request) : (c.modRequest i f).ringRounds = c.ringRounds := rfl
@[simp] theorem Chip.modRequest_ctxs (c : Chip) (i : Nat) (f : Request → Request) : (c.modRequest i f).ctxs = c.ctxs := rfl
@[simp] theorem Chip.modRequest_launches (c : Chip) (i : Nat) (f : Request → Request) : (c.modRequest i f).launches = c.launches := rfl
@[simp] theorem Chip.modRequest_formed (c : Chip) (i : Nat) (f : Request → Request) : (c.modRequest i f).formed = c.formed := rfl
@[simp] theorem Chip.modRequest_exitRecords (c : Chip) (i : Nat) (f : Request → Request) : (c.modRequest i f).exitRecords = c.exitRecords := rfl
@[simp] theorem Chip.modRequest_barInits (c : Chip) (i : Nat) (f : Request → Request) : (c.modRequest i f).barInits = c.barInits := rfl
@[simp] theorem Chip.modRequest_coreSets (c : Chip) (i : Nat) (f : Request → Request) : (c.modRequest i f).coreSets = c.coreSets := rfl
@[simp] theorem Chip.modRequest_moves (c : Chip) (i : Nat) (f : Request → Request) : (c.modRequest i f).moves = c.moves := rfl
@[simp] theorem Chip.modRequest_asked (c : Chip) (i : Nat) (f : Request → Request) : (c.modRequest i f).asked = c.asked := rfl
@[simp] theorem Chip.modRequest_queues (c : Chip) (i : Nat) (f : Request → Request) : (c.modRequest i f).queues = c.queues := rfl
@[simp] theorem Chip.modRequest_served (c : Chip) (i : Nat) (f : Request → Request) : (c.modRequest i f).served = c.served := rfl
@[simp] theorem Chip.modRequest_timelines (c : Chip) (i : Nat) (f : Request → Request) : (c.modRequest i f).timelines = c.timelines := rfl
@[simp] theorem Chip.modRequest_cmds (c : Chip) (i : Nat) (f : Request → Request) : (c.modRequest i f).cmds = c.cmds := rfl
@[simp] theorem Chip.modRequest_fab (c : Chip) (i : Nat) (f : Request → Request) : (c.modRequest i f).fab = c.fab := rfl
@[simp] theorem Chip.modRequest_tlb2 (c : Chip) (i : Nat) (f : Request → Request) : (c.modRequest i f).tlb2 = c.tlb2 := rfl
@[simp] theorem Chip.modRequest_failed (c : Chip) (i : Nat) (f : Request → Request) : (c.modRequest i f).failed = c.failed := rfl
@[simp] theorem Chip.modRequest_locks (c : Chip) (i : Nat) (f : Request → Request) : (c.modRequest i f).locks = c.locks := rfl
@[simp] theorem Chip.modRequest_nextId (c : Chip) (i : Nat) (f : Request → Request) : (c.modRequest i f).nextId = c.nextId := rfl
@[simp] theorem Chip.modRequest_order (c : Chip) (i : Nat) (f : Request → Request) : (c.modRequest i f).order = c.order := rfl
@[simp] theorem Chip.modRequest_fresh (c : Chip) (i : Nat) (f : Request → Request) : (c.modRequest i f).fresh = c.fresh := rfl

@[simp] theorem Chip.dropRequest_dev (c : Chip) (i : Nat) : (c.dropRequest i).dev = c.dev := rfl
@[simp] theorem Chip.dropRequest_host (c : Chip) (i : Nat) : (c.dropRequest i).host = c.host := rfl
@[simp] theorem Chip.dropRequest_bad (c : Chip) (i : Nat) : (c.dropRequest i).bad = c.bad := rfl
@[simp] theorem Chip.dropRequest_locked (c : Chip) (i : Nat) : (c.dropRequest i).locked = c.locked := rfl
@[simp] theorem Chip.dropRequest_copying (c : Chip) (i : Nat) : (c.dropRequest i).copying = c.copying := rfl
@[simp] theorem Chip.dropRequest_fitted (c : Chip) (i : Nat) : (c.dropRequest i).fitted = c.fitted := rfl
@[simp] theorem Chip.dropRequest_cap (c : Chip) (i : Nat) : (c.dropRequest i).cap = c.cap := rfl
@[simp] theorem Chip.dropRequest_retired (c : Chip) (i : Nat) : (c.dropRequest i).retired = c.retired := rfl
@[simp] theorem Chip.dropRequest_reached (c : Chip) (i : Nat) : (c.dropRequest i).reached = c.reached := rfl
@[simp] theorem Chip.dropRequest_cmdWindow (c : Chip) (i : Nat) : (c.dropRequest i).cmdWindow = c.cmdWindow := rfl
@[simp] theorem Chip.dropRequest_journal (c : Chip) (i : Nat) : (c.dropRequest i).journal = c.journal := rfl
@[simp] theorem Chip.dropRequest_journalC (c : Chip) (i : Nat) : (c.dropRequest i).journalC = c.journalC := rfl
@[simp] theorem Chip.dropRequest_status (c : Chip) (i : Nat) : (c.dropRequest i).status = c.status := rfl
@[simp] theorem Chip.dropRequest_running (c : Chip) (i : Nat) : (c.dropRequest i).running = c.running := rfl
@[simp] theorem Chip.dropRequest_turn (c : Chip) (i : Nat) : (c.dropRequest i).turn = c.turn := rfl
@[simp] theorem Chip.dropRequest_cores (c : Chip) (i : Nat) : (c.dropRequest i).cores = c.cores := rfl
@[simp] theorem Chip.dropRequest_benches (c : Chip) (i : Nat) : (c.dropRequest i).benches = c.benches := rfl
@[simp] theorem Chip.dropRequest_sites (c : Chip) (i : Nat) : (c.dropRequest i).sites = c.sites := rfl
@[simp] theorem Chip.dropRequest_clusters (c : Chip) (i : Nat) : (c.dropRequest i).clusters = c.clusters := rfl
@[simp] theorem Chip.dropRequest_on (c : Chip) (i : Nat) : (c.dropRequest i).on = c.on := rfl
@[simp] theorem Chip.dropRequest_squads (c : Chip) (i : Nat) : (c.dropRequest i).squads = c.squads := rfl
@[simp] theorem Chip.dropRequest_requests (c : Chip) (i : Nat) : (c.dropRequest i).requests = c.requests.filter fun r => r.id != i := rfl
@[simp] theorem Chip.dropRequest_updates (c : Chip) (i : Nat) : (c.dropRequest i).updates = c.updates := rfl
@[simp] theorem Chip.dropRequest_counted (c : Chip) (i : Nat) : (c.dropRequest i).counted = c.counted := rfl
@[simp] theorem Chip.dropRequest_rings (c : Chip) (i : Nat) : (c.dropRequest i).rings = c.rings := rfl
@[simp] theorem Chip.dropRequest_ringRounds (c : Chip) (i : Nat) : (c.dropRequest i).ringRounds = c.ringRounds := rfl
@[simp] theorem Chip.dropRequest_ctxs (c : Chip) (i : Nat) : (c.dropRequest i).ctxs = c.ctxs := rfl
@[simp] theorem Chip.dropRequest_launches (c : Chip) (i : Nat) : (c.dropRequest i).launches = c.launches := rfl
@[simp] theorem Chip.dropRequest_formed (c : Chip) (i : Nat) : (c.dropRequest i).formed = c.formed := rfl
@[simp] theorem Chip.dropRequest_exitRecords (c : Chip) (i : Nat) : (c.dropRequest i).exitRecords = c.exitRecords := rfl
@[simp] theorem Chip.dropRequest_barInits (c : Chip) (i : Nat) : (c.dropRequest i).barInits = c.barInits := rfl
@[simp] theorem Chip.dropRequest_coreSets (c : Chip) (i : Nat) : (c.dropRequest i).coreSets = c.coreSets := rfl
@[simp] theorem Chip.dropRequest_moves (c : Chip) (i : Nat) : (c.dropRequest i).moves = c.moves := rfl
@[simp] theorem Chip.dropRequest_asked (c : Chip) (i : Nat) : (c.dropRequest i).asked = c.asked := rfl
@[simp] theorem Chip.dropRequest_queues (c : Chip) (i : Nat) : (c.dropRequest i).queues = c.queues := rfl
@[simp] theorem Chip.dropRequest_served (c : Chip) (i : Nat) : (c.dropRequest i).served = c.served := rfl
@[simp] theorem Chip.dropRequest_timelines (c : Chip) (i : Nat) : (c.dropRequest i).timelines = c.timelines := rfl
@[simp] theorem Chip.dropRequest_cmds (c : Chip) (i : Nat) : (c.dropRequest i).cmds = c.cmds := rfl
@[simp] theorem Chip.dropRequest_fab (c : Chip) (i : Nat) : (c.dropRequest i).fab = c.fab := rfl
@[simp] theorem Chip.dropRequest_tlb2 (c : Chip) (i : Nat) : (c.dropRequest i).tlb2 = c.tlb2 := rfl
@[simp] theorem Chip.dropRequest_failed (c : Chip) (i : Nat) : (c.dropRequest i).failed = c.failed := rfl
@[simp] theorem Chip.dropRequest_locks (c : Chip) (i : Nat) : (c.dropRequest i).locks = c.locks := rfl
@[simp] theorem Chip.dropRequest_nextId (c : Chip) (i : Nat) : (c.dropRequest i).nextId = c.nextId := rfl
@[simp] theorem Chip.dropRequest_order (c : Chip) (i : Nat) : (c.dropRequest i).order = c.order := rfl
@[simp] theorem Chip.dropRequest_fresh (c : Chip) (i : Nat) : (c.dropRequest i).fresh = c.fresh := rfl

@[simp] theorem Chip.stallTurn_dev (c : Chip)  : (c.stallTurn).dev = c.dev := rfl
@[simp] theorem Chip.stallTurn_host (c : Chip)  : (c.stallTurn).host = c.host := rfl
@[simp] theorem Chip.stallTurn_bad (c : Chip)  : (c.stallTurn).bad = c.bad := rfl
@[simp] theorem Chip.stallTurn_locked (c : Chip)  : (c.stallTurn).locked = c.locked := rfl
@[simp] theorem Chip.stallTurn_copying (c : Chip)  : (c.stallTurn).copying = c.copying := rfl
@[simp] theorem Chip.stallTurn_fitted (c : Chip)  : (c.stallTurn).fitted = c.fitted := rfl
@[simp] theorem Chip.stallTurn_cap (c : Chip)  : (c.stallTurn).cap = c.cap := rfl
@[simp] theorem Chip.stallTurn_retired (c : Chip)  : (c.stallTurn).retired = c.retired := rfl
@[simp] theorem Chip.stallTurn_reached (c : Chip)  : (c.stallTurn).reached = c.reached := rfl
@[simp] theorem Chip.stallTurn_cmdWindow (c : Chip)  : (c.stallTurn).cmdWindow = c.cmdWindow := rfl
@[simp] theorem Chip.stallTurn_journal (c : Chip)  : (c.stallTurn).journal = c.journal := rfl
@[simp] theorem Chip.stallTurn_journalC (c : Chip)  : (c.stallTurn).journalC = c.journalC := rfl
@[simp] theorem Chip.stallTurn_status (c : Chip)  : (c.stallTurn).status = c.status := rfl
@[simp] theorem Chip.stallTurn_running (c : Chip)  : (c.stallTurn).running = c.running := rfl
@[simp] theorem Chip.stallTurn_turn (c : Chip)  : (c.stallTurn).turn = none := rfl
@[simp] theorem Chip.stallTurn_cores (c : Chip)  : (c.stallTurn).cores = c.cores := rfl
@[simp] theorem Chip.stallTurn_benches (c : Chip)  : (c.stallTurn).benches = c.benches := rfl
@[simp] theorem Chip.stallTurn_sites (c : Chip)  : (c.stallTurn).sites = c.sites := rfl
@[simp] theorem Chip.stallTurn_clusters (c : Chip)  : (c.stallTurn).clusters = c.clusters := rfl
@[simp] theorem Chip.stallTurn_on (c : Chip)  : (c.stallTurn).on = c.on := rfl
@[simp] theorem Chip.stallTurn_squads (c : Chip)  : (c.stallTurn).squads = c.squads := rfl
@[simp] theorem Chip.stallTurn_requests (c : Chip)  : (c.stallTurn).requests = c.requests := rfl
@[simp] theorem Chip.stallTurn_updates (c : Chip)  : (c.stallTurn).updates = c.updates := rfl
@[simp] theorem Chip.stallTurn_counted (c : Chip)  : (c.stallTurn).counted = c.counted := rfl
@[simp] theorem Chip.stallTurn_rings (c : Chip)  : (c.stallTurn).rings = c.rings := rfl
@[simp] theorem Chip.stallTurn_ringRounds (c : Chip)  : (c.stallTurn).ringRounds = c.ringRounds := rfl
@[simp] theorem Chip.stallTurn_ctxs (c : Chip)  : (c.stallTurn).ctxs = c.ctxs := rfl
@[simp] theorem Chip.stallTurn_launches (c : Chip)  : (c.stallTurn).launches = c.launches := rfl
@[simp] theorem Chip.stallTurn_formed (c : Chip)  : (c.stallTurn).formed = c.formed := rfl
@[simp] theorem Chip.stallTurn_exitRecords (c : Chip)  : (c.stallTurn).exitRecords = c.exitRecords := rfl
@[simp] theorem Chip.stallTurn_barInits (c : Chip)  : (c.stallTurn).barInits = c.barInits := rfl
@[simp] theorem Chip.stallTurn_coreSets (c : Chip)  : (c.stallTurn).coreSets = c.coreSets := rfl
@[simp] theorem Chip.stallTurn_moves (c : Chip)  : (c.stallTurn).moves = c.moves := rfl
@[simp] theorem Chip.stallTurn_asked (c : Chip)  : (c.stallTurn).asked = c.asked := rfl
@[simp] theorem Chip.stallTurn_queues (c : Chip)  : (c.stallTurn).queues = c.queues := rfl
@[simp] theorem Chip.stallTurn_served (c : Chip)  : (c.stallTurn).served = c.served := rfl
@[simp] theorem Chip.stallTurn_timelines (c : Chip)  : (c.stallTurn).timelines = c.timelines := rfl
@[simp] theorem Chip.stallTurn_cmds (c : Chip)  : (c.stallTurn).cmds = c.cmds := rfl
@[simp] theorem Chip.stallTurn_fab (c : Chip)  : (c.stallTurn).fab = c.fab := rfl
@[simp] theorem Chip.stallTurn_tlb2 (c : Chip)  : (c.stallTurn).tlb2 = c.tlb2 := rfl
@[simp] theorem Chip.stallTurn_failed (c : Chip)  : (c.stallTurn).failed = c.failed := rfl
@[simp] theorem Chip.stallTurn_locks (c : Chip)  : (c.stallTurn).locks = c.locks := rfl
@[simp] theorem Chip.stallTurn_nextId (c : Chip)  : (c.stallTurn).nextId = c.nextId := rfl
@[simp] theorem Chip.stallTurn_order (c : Chip)  : (c.stallTurn).order = c.order := rfl
@[simp] theorem Chip.stallTurn_fresh (c : Chip)  : (c.stallTurn).fresh = c.fresh := rfl

@[simp] theorem Chip.stallSquad_dev (c : Chip) (u : Nat) (k : Stall) : (c.stallSquad u k).dev = c.dev := rfl
@[simp] theorem Chip.stallSquad_host (c : Chip) (u : Nat) (k : Stall) : (c.stallSquad u k).host = c.host := rfl
@[simp] theorem Chip.stallSquad_bad (c : Chip) (u : Nat) (k : Stall) : (c.stallSquad u k).bad = c.bad := rfl
@[simp] theorem Chip.stallSquad_locked (c : Chip) (u : Nat) (k : Stall) : (c.stallSquad u k).locked = c.locked := rfl
@[simp] theorem Chip.stallSquad_copying (c : Chip) (u : Nat) (k : Stall) : (c.stallSquad u k).copying = c.copying := rfl
@[simp] theorem Chip.stallSquad_fitted (c : Chip) (u : Nat) (k : Stall) : (c.stallSquad u k).fitted = c.fitted := rfl
@[simp] theorem Chip.stallSquad_cap (c : Chip) (u : Nat) (k : Stall) : (c.stallSquad u k).cap = c.cap := rfl
@[simp] theorem Chip.stallSquad_retired (c : Chip) (u : Nat) (k : Stall) : (c.stallSquad u k).retired = c.retired := rfl
@[simp] theorem Chip.stallSquad_reached (c : Chip) (u : Nat) (k : Stall) : (c.stallSquad u k).reached = c.reached := rfl
@[simp] theorem Chip.stallSquad_cmdWindow (c : Chip) (u : Nat) (k : Stall) : (c.stallSquad u k).cmdWindow = c.cmdWindow := rfl
@[simp] theorem Chip.stallSquad_journal (c : Chip) (u : Nat) (k : Stall) : (c.stallSquad u k).journal = c.journal := rfl
@[simp] theorem Chip.stallSquad_journalC (c : Chip) (u : Nat) (k : Stall) : (c.stallSquad u k).journalC = c.journalC := rfl
@[simp] theorem Chip.stallSquad_status (c : Chip) (u : Nat) (k : Stall) : (c.stallSquad u k).status = c.status := rfl
@[simp] theorem Chip.stallSquad_running (c : Chip) (u : Nat) (k : Stall) : (c.stallSquad u k).running = c.running := rfl
@[simp] theorem Chip.stallSquad_turn (c : Chip) (u : Nat) (k : Stall) : (c.stallSquad u k).turn = none := rfl
@[simp] theorem Chip.stallSquad_cores (c : Chip) (u : Nat) (k : Stall) : (c.stallSquad u k).cores = c.cores := rfl
@[simp] theorem Chip.stallSquad_benches (c : Chip) (u : Nat) (k : Stall) : (c.stallSquad u k).benches = c.benches := rfl
@[simp] theorem Chip.stallSquad_sites (c : Chip) (u : Nat) (k : Stall) : (c.stallSquad u k).sites = c.sites := rfl
@[simp] theorem Chip.stallSquad_clusters (c : Chip) (u : Nat) (k : Stall) : (c.stallSquad u k).clusters = c.clusters := rfl
@[simp] theorem Chip.stallSquad_on (c : Chip) (u : Nat) (k : Stall) : (c.stallSquad u k).on = c.on := rfl
@[simp] theorem Chip.stallSquad_squads (c : Chip) (u : Nat) (k : Stall) : (c.stallSquad u k).squads = c.squads.map fun q => if q.uid = u then { q with stall := some k } else q := rfl
@[simp] theorem Chip.stallSquad_requests (c : Chip) (u : Nat) (k : Stall) : (c.stallSquad u k).requests = c.requests := rfl
@[simp] theorem Chip.stallSquad_updates (c : Chip) (u : Nat) (k : Stall) : (c.stallSquad u k).updates = c.updates := rfl
@[simp] theorem Chip.stallSquad_counted (c : Chip) (u : Nat) (k : Stall) : (c.stallSquad u k).counted = c.counted := rfl
@[simp] theorem Chip.stallSquad_rings (c : Chip) (u : Nat) (k : Stall) : (c.stallSquad u k).rings = c.rings := rfl
@[simp] theorem Chip.stallSquad_ringRounds (c : Chip) (u : Nat) (k : Stall) : (c.stallSquad u k).ringRounds = c.ringRounds := rfl
@[simp] theorem Chip.stallSquad_ctxs (c : Chip) (u : Nat) (k : Stall) : (c.stallSquad u k).ctxs = c.ctxs := rfl
@[simp] theorem Chip.stallSquad_launches (c : Chip) (u : Nat) (k : Stall) : (c.stallSquad u k).launches = c.launches := rfl
@[simp] theorem Chip.stallSquad_formed (c : Chip) (u : Nat) (k : Stall) : (c.stallSquad u k).formed = c.formed := rfl
@[simp] theorem Chip.stallSquad_exitRecords (c : Chip) (u : Nat) (k : Stall) : (c.stallSquad u k).exitRecords = c.exitRecords := rfl
@[simp] theorem Chip.stallSquad_barInits (c : Chip) (u : Nat) (k : Stall) : (c.stallSquad u k).barInits = c.barInits := rfl
@[simp] theorem Chip.stallSquad_coreSets (c : Chip) (u : Nat) (k : Stall) : (c.stallSquad u k).coreSets = c.coreSets := rfl
@[simp] theorem Chip.stallSquad_moves (c : Chip) (u : Nat) (k : Stall) : (c.stallSquad u k).moves = c.moves := rfl
@[simp] theorem Chip.stallSquad_asked (c : Chip) (u : Nat) (k : Stall) : (c.stallSquad u k).asked = c.asked := rfl
@[simp] theorem Chip.stallSquad_queues (c : Chip) (u : Nat) (k : Stall) : (c.stallSquad u k).queues = c.queues := rfl
@[simp] theorem Chip.stallSquad_served (c : Chip) (u : Nat) (k : Stall) : (c.stallSquad u k).served = c.served := rfl
@[simp] theorem Chip.stallSquad_timelines (c : Chip) (u : Nat) (k : Stall) : (c.stallSquad u k).timelines = c.timelines := rfl
@[simp] theorem Chip.stallSquad_cmds (c : Chip) (u : Nat) (k : Stall) : (c.stallSquad u k).cmds = c.cmds := rfl
@[simp] theorem Chip.stallSquad_fab (c : Chip) (u : Nat) (k : Stall) : (c.stallSquad u k).fab = c.fab := rfl
@[simp] theorem Chip.stallSquad_tlb2 (c : Chip) (u : Nat) (k : Stall) : (c.stallSquad u k).tlb2 = c.tlb2 := rfl
@[simp] theorem Chip.stallSquad_failed (c : Chip) (u : Nat) (k : Stall) : (c.stallSquad u k).failed = c.failed := rfl
@[simp] theorem Chip.stallSquad_locks (c : Chip) (u : Nat) (k : Stall) : (c.stallSquad u k).locks = c.locks := rfl
@[simp] theorem Chip.stallSquad_nextId (c : Chip) (u : Nat) (k : Stall) : (c.stallSquad u k).nextId = c.nextId := rfl
@[simp] theorem Chip.stallSquad_order (c : Chip) (u : Nat) (k : Stall) : (c.stallSquad u k).order = c.order := rfl
@[simp] theorem Chip.stallSquad_fresh (c : Chip) (u : Nat) (k : Stall) : (c.stallSquad u k).fresh = c.fresh := rfl

@[simp] theorem Chip.advance_dev (c : Chip) (u : Nat) : (c.advance u).dev = c.dev := rfl
@[simp] theorem Chip.advance_host (c : Chip) (u : Nat) : (c.advance u).host = c.host := rfl
@[simp] theorem Chip.advance_bad (c : Chip) (u : Nat) : (c.advance u).bad = c.bad := rfl
@[simp] theorem Chip.advance_locked (c : Chip) (u : Nat) : (c.advance u).locked = c.locked := rfl
@[simp] theorem Chip.advance_copying (c : Chip) (u : Nat) : (c.advance u).copying = c.copying := rfl
@[simp] theorem Chip.advance_fitted (c : Chip) (u : Nat) : (c.advance u).fitted = c.fitted := rfl
@[simp] theorem Chip.advance_cap (c : Chip) (u : Nat) : (c.advance u).cap = c.cap := rfl
@[simp] theorem Chip.advance_retired (c : Chip) (u : Nat) : (c.advance u).retired = c.retired := rfl
@[simp] theorem Chip.advance_reached (c : Chip) (u : Nat) : (c.advance u).reached = c.reached := rfl
@[simp] theorem Chip.advance_cmdWindow (c : Chip) (u : Nat) : (c.advance u).cmdWindow = c.cmdWindow := rfl
@[simp] theorem Chip.advance_journal (c : Chip) (u : Nat) : (c.advance u).journal = c.journal := rfl
@[simp] theorem Chip.advance_journalC (c : Chip) (u : Nat) : (c.advance u).journalC = c.journalC := rfl
@[simp] theorem Chip.advance_status (c : Chip) (u : Nat) : (c.advance u).status = c.status := rfl
@[simp] theorem Chip.advance_running (c : Chip) (u : Nat) : (c.advance u).running = c.running := rfl
@[simp] theorem Chip.advance_turn (c : Chip) (u : Nat) : (c.advance u).turn = if (((c.modSquad u Squad.advance).squad? u).map fun q => q.exe.inClause).getD false then c.turn else none := rfl
@[simp] theorem Chip.advance_cores (c : Chip) (u : Nat) : (c.advance u).cores = c.cores := rfl
@[simp] theorem Chip.advance_benches (c : Chip) (u : Nat) : (c.advance u).benches = c.benches := rfl
@[simp] theorem Chip.advance_sites (c : Chip) (u : Nat) : (c.advance u).sites = c.sites := rfl
@[simp] theorem Chip.advance_clusters (c : Chip) (u : Nat) : (c.advance u).clusters = c.clusters := rfl
@[simp] theorem Chip.advance_on (c : Chip) (u : Nat) : (c.advance u).on = c.on := rfl
@[simp] theorem Chip.advance_squads (c : Chip) (u : Nat) : (c.advance u).squads = c.squads.map fun q => if q.uid = u then q.advance else q := rfl
@[simp] theorem Chip.advance_requests (c : Chip) (u : Nat) : (c.advance u).requests = c.requests := rfl
@[simp] theorem Chip.advance_updates (c : Chip) (u : Nat) : (c.advance u).updates = c.updates := rfl
@[simp] theorem Chip.advance_counted (c : Chip) (u : Nat) : (c.advance u).counted = c.counted := rfl
@[simp] theorem Chip.advance_rings (c : Chip) (u : Nat) : (c.advance u).rings = c.rings := rfl
@[simp] theorem Chip.advance_ringRounds (c : Chip) (u : Nat) : (c.advance u).ringRounds = c.ringRounds := rfl
@[simp] theorem Chip.advance_ctxs (c : Chip) (u : Nat) : (c.advance u).ctxs = c.ctxs := rfl
@[simp] theorem Chip.advance_launches (c : Chip) (u : Nat) : (c.advance u).launches = c.launches := rfl
@[simp] theorem Chip.advance_formed (c : Chip) (u : Nat) : (c.advance u).formed = c.formed := rfl
@[simp] theorem Chip.advance_exitRecords (c : Chip) (u : Nat) : (c.advance u).exitRecords = c.exitRecords := rfl
@[simp] theorem Chip.advance_barInits (c : Chip) (u : Nat) : (c.advance u).barInits = c.barInits := rfl
@[simp] theorem Chip.advance_coreSets (c : Chip) (u : Nat) : (c.advance u).coreSets = c.coreSets := rfl
@[simp] theorem Chip.advance_moves (c : Chip) (u : Nat) : (c.advance u).moves = c.moves := rfl
@[simp] theorem Chip.advance_asked (c : Chip) (u : Nat) : (c.advance u).asked = c.asked := rfl
@[simp] theorem Chip.advance_queues (c : Chip) (u : Nat) : (c.advance u).queues = c.queues := rfl
@[simp] theorem Chip.advance_served (c : Chip) (u : Nat) : (c.advance u).served = c.served := rfl
@[simp] theorem Chip.advance_timelines (c : Chip) (u : Nat) : (c.advance u).timelines = c.timelines := rfl
@[simp] theorem Chip.advance_cmds (c : Chip) (u : Nat) : (c.advance u).cmds = c.cmds := rfl
@[simp] theorem Chip.advance_fab (c : Chip) (u : Nat) : (c.advance u).fab = c.fab := rfl
@[simp] theorem Chip.advance_tlb2 (c : Chip) (u : Nat) : (c.advance u).tlb2 = c.tlb2 := rfl
@[simp] theorem Chip.advance_failed (c : Chip) (u : Nat) : (c.advance u).failed = c.failed := rfl
@[simp] theorem Chip.advance_locks (c : Chip) (u : Nat) : (c.advance u).locks = c.locks := rfl
@[simp] theorem Chip.advance_nextId (c : Chip) (u : Nat) : (c.advance u).nextId = c.nextId := rfl
@[simp] theorem Chip.advance_order (c : Chip) (u : Nat) : (c.advance u).order = c.order := rfl
@[simp] theorem Chip.advance_fresh (c : Chip) (u : Nat) : (c.advance u).fresh = c.fresh := rfl

@[simp] theorem Squad.setStates_uid (q : Squad) (m : LaneMask) (v : LaneState) : (q.setStates m v).uid = q.uid := rfl
@[simp] theorem Squad.setStates_place (q : Squad) (m : LaneMask) (v : LaneState) : (q.setStates m v).place = q.place := rfl
@[simp] theorem Squad.setStates_launch (q : Squad) (m : LaneMask) (v : LaneState) : (q.setStates m v).launch = q.launch := rfl
@[simp] theorem Squad.setStates_number (q : Squad) (m : LaneMask) (v : LaneState) : (q.setStates m v).number = q.number := rfl
@[simp] theorem Squad.setStates_spawned (q : Squad) (m : LaneMask) (v : LaneState) : (q.setStates m v).spawned = q.spawned := rfl
@[simp] theorem Squad.setStates_entry (q : Squad) (m : LaneMask) (v : LaneState) : (q.setStates m v).entry = q.entry := rfl
@[simp] theorem Squad.setStates_dispatched (q : Squad) (m : LaneMask) (v : LaneState) : (q.setStates m v).dispatched = q.dispatched := rfl
@[simp] theorem Squad.setStates_stackNo (q : Squad) (m : LaneMask) (v : LaneState) : (q.setStates m v).stackNo = q.stackNo := rfl
@[simp] theorem Squad.setStates_lastIssue (q : Squad) (m : LaneMask) (v : LaneState) : (q.setStates m v).lastIssue = q.lastIssue := rfl
@[simp] theorem Squad.setStates_exe (q : Squad) (m : LaneMask) (v : LaneState) : (q.setStates m v).exe = q.exe := rfl
@[simp] theorem Squad.setStates_lpc (q : Squad) (m : LaneMask) (v : LaneState) : (q.setStates m v).lpc = q.lpc := rfl
@[simp] theorem Squad.setStates_st (q : Squad) (m : LaneMask) (v : LaneState) : (q.setStates m v).st = q.st.mapIdx fun l s => if m.getLsbD l then v else s := rfl
@[simp] theorem Squad.setStates_resume (q : Squad) (m : LaneMask) (v : LaneState) : (q.setStates m v).resume = q.resume := rfl
@[simp] theorem Squad.setStates_byTransfer (q : Squad) (m : LaneMask) (v : LaneState) : (q.setStates m v).byTransfer = q.byTransfer := rfl
@[simp] theorem Squad.setStates_byResume (q : Squad) (m : LaneMask) (v : LaneState) : (q.setStates m v).byResume = q.byResume := rfl
@[simp] theorem Squad.setStates_burgees (q : Squad) (m : LaneMask) (v : LaneState) : (q.setStates m v).burgees = q.burgees := rfl
@[simp] theorem Squad.setStates_ensigns (q : Squad) (m : LaneMask) (v : LaneState) : (q.setStates m v).ensigns = q.ensigns := rfl
@[simp] theorem Squad.setStates_pennants (q : Squad) (m : LaneMask) (v : LaneState) : (q.setStates m v).pennants = q.pennants := rfl
@[simp] theorem Squad.setStates_handles (q : Squad) (m : LaneMask) (v : LaneState) : (q.setStates m v).handles = q.handles := rfl
@[simp] theorem Squad.setStates_region (q : Squad) (m : LaneMask) (v : LaneState) : (q.setStates m v).region = q.region := rfl
@[simp] theorem Squad.setStates_trap (q : Squad) (m : LaneMask) (v : LaneState) : (q.setStates m v).trap = q.trap := rfl
@[simp] theorem Squad.setStates_savedLatch (q : Squad) (m : LaneMask) (v : LaneState) : (q.setStates m v).savedLatch = q.savedLatch := rfl
@[simp] theorem Squad.setStates_savedAt (q : Squad) (m : LaneMask) (v : LaneState) : (q.setStates m v).savedAt = q.savedAt := rfl
@[simp] theorem Squad.setStates_contEns (q : Squad) (m : LaneMask) (v : LaneState) : (q.setStates m v).contEns = q.contEns := rfl
@[simp] theorem Squad.setStates_contLeft (q : Squad) (m : LaneMask) (v : LaneState) : (q.setStates m v).contLeft = q.contLeft := rfl
@[simp] theorem Squad.setStates_scfMask (q : Squad) (m : LaneMask) (v : LaneState) : (q.setStates m v).scfMask = q.scfMask := rfl
@[simp] theorem Squad.setStates_age (q : Squad) (m : LaneMask) (v : LaneState) : (q.setStates m v).age = q.age := rfl
@[simp] theorem Squad.setStates_quota (q : Squad) (m : LaneMask) (v : LaneState) : (q.setStates m v).quota = q.quota := rfl
@[simp] theorem Squad.setStates_resident (q : Squad) (m : LaneMask) (v : LaneState) : (q.setStates m v).resident = q.resident := rfl
@[simp] theorem Squad.setStates_evicted (q : Squad) (m : LaneMask) (v : LaneState) : (q.setStates m v).evicted = q.evicted := rfl
@[simp] theorem Squad.setStates_credit (q : Squad) (m : LaneMask) (v : LaneState) : (q.setStates m v).credit = q.credit := rfl
@[simp] theorem Squad.setStates_creditRegs (q : Squad) (m : LaneMask) (v : LaneState) : (q.setStates m v).creditRegs = q.creditRegs := rfl
@[simp] theorem Squad.setStates_waitTested (q : Squad) (m : LaneMask) (v : LaneState) : (q.setStates m v).waitTested = q.waitTested := rfl
@[simp] theorem Squad.setStates_waitExpired (q : Squad) (m : LaneMask) (v : LaneState) : (q.setStates m v).waitExpired = q.waitExpired := rfl
@[simp] theorem Squad.setStates_waitMet (q : Squad) (m : LaneMask) (v : LaneState) : (q.setStates m v).waitMet = q.waitMet := rfl
@[simp] theorem Squad.setStates_qHold (q : Squad) (m : LaneMask) (v : LaneState) : (q.setStates m v).qHold = q.qHold := rfl
@[simp] theorem Squad.setStates_acqbAt (q : Squad) (m : LaneMask) (v : LaneState) : (q.setStates m v).acqbAt = q.acqbAt := rfl
@[simp] theorem Squad.setStates_awaiting (q : Squad) (m : LaneMask) (v : LaneState) : (q.setStates m v).awaiting = q.awaiting := rfl
@[simp] theorem Squad.setStates_badResponse (q : Squad) (m : LaneMask) (v : LaneState) : (q.setStates m v).badResponse = q.badResponse := rfl
@[simp] theorem Squad.setStates_parked (q : Squad) (m : LaneMask) (v : LaneState) : (q.setStates m v).parked = q.parked := rfl
@[simp] theorem Squad.setStates_parkedVa (q : Squad) (m : LaneMask) (v : LaneState) : (q.setStates m v).parkedVa = q.parkedVa := rfl
@[simp] theorem Squad.setStates_restart (q : Squad) (m : LaneMask) (v : LaneState) : (q.setStates m v).restart = q.restart := rfl
@[simp] theorem Squad.setStates_skip (q : Squad) (m : LaneMask) (v : LaneState) : (q.setStates m v).skip = q.skip := rfl
@[simp] theorem Squad.setStates_deferred (q : Squad) (m : LaneMask) (v : LaneState) : (q.setStates m v).deferred = q.deferred := rfl
@[simp] theorem Squad.setStates_stall (q : Squad) (m : LaneMask) (v : LaneState) : (q.setStates m v).stall = q.stall := rfl
@[simp] theorem Squad.setStates_stopped (q : Squad) (m : LaneMask) (v : LaneState) : (q.setStates m v).stopped = q.stopped := rfl
@[simp] theorem Squad.setStates_dead (q : Squad) (m : LaneMask) (v : LaneState) : (q.setStates m v).dead = q.dead := rfl

@[simp] theorem Squad.setPc_uid (q : Squad) (m : LaneMask) (pc pos : Nat) (t r : Bool) : (q.setPc m pc pos t r).uid = q.uid := rfl
@[simp] theorem Squad.setPc_place (q : Squad) (m : LaneMask) (pc pos : Nat) (t r : Bool) : (q.setPc m pc pos t r).place = q.place := rfl
@[simp] theorem Squad.setPc_launch (q : Squad) (m : LaneMask) (pc pos : Nat) (t r : Bool) : (q.setPc m pc pos t r).launch = q.launch := rfl
@[simp] theorem Squad.setPc_number (q : Squad) (m : LaneMask) (pc pos : Nat) (t r : Bool) : (q.setPc m pc pos t r).number = q.number := rfl
@[simp] theorem Squad.setPc_spawned (q : Squad) (m : LaneMask) (pc pos : Nat) (t r : Bool) : (q.setPc m pc pos t r).spawned = q.spawned := rfl
@[simp] theorem Squad.setPc_entry (q : Squad) (m : LaneMask) (pc pos : Nat) (t r : Bool) : (q.setPc m pc pos t r).entry = q.entry := rfl
@[simp] theorem Squad.setPc_dispatched (q : Squad) (m : LaneMask) (pc pos : Nat) (t r : Bool) : (q.setPc m pc pos t r).dispatched = q.dispatched := rfl
@[simp] theorem Squad.setPc_stackNo (q : Squad) (m : LaneMask) (pc pos : Nat) (t r : Bool) : (q.setPc m pc pos t r).stackNo = q.stackNo := rfl
@[simp] theorem Squad.setPc_lastIssue (q : Squad) (m : LaneMask) (pc pos : Nat) (t r : Bool) : (q.setPc m pc pos t r).lastIssue = q.lastIssue := rfl
@[simp] theorem Squad.setPc_exe (q : Squad) (m : LaneMask) (pc pos : Nat) (t r : Bool) : (q.setPc m pc pos t r).exe = q.exe := rfl
@[simp] theorem Squad.setPc_lpc (q : Squad) (m : LaneMask) (pc pos : Nat) (t r : Bool) : (q.setPc m pc pos t r).lpc = q.lpc.mapIdx fun l a => if m.getLsbD l then pc else a := rfl
@[simp] theorem Squad.setPc_st (q : Squad) (m : LaneMask) (pc pos : Nat) (t r : Bool) : (q.setPc m pc pos t r).st = q.st := rfl
@[simp] theorem Squad.setPc_resume (q : Squad) (m : LaneMask) (pc pos : Nat) (t r : Bool) : (q.setPc m pc pos t r).resume = q.resume.mapIdx fun l a => if m.getLsbD l then pos else a := rfl
@[simp] theorem Squad.setPc_byTransfer (q : Squad) (m : LaneMask) (pc pos : Nat) (t r : Bool) : (q.setPc m pc pos t r).byTransfer = if t then q.byTransfer ||| m else q.byTransfer &&& ~~~m := rfl
@[simp] theorem Squad.setPc_byResume (q : Squad) (m : LaneMask) (pc pos : Nat) (t r : Bool) : (q.setPc m pc pos t r).byResume = if r then q.byResume ||| m else q.byResume &&& ~~~m := rfl
@[simp] theorem Squad.setPc_burgees (q : Squad) (m : LaneMask) (pc pos : Nat) (t r : Bool) : (q.setPc m pc pos t r).burgees = q.burgees := rfl
@[simp] theorem Squad.setPc_ensigns (q : Squad) (m : LaneMask) (pc pos : Nat) (t r : Bool) : (q.setPc m pc pos t r).ensigns = q.ensigns := rfl
@[simp] theorem Squad.setPc_pennants (q : Squad) (m : LaneMask) (pc pos : Nat) (t r : Bool) : (q.setPc m pc pos t r).pennants = q.pennants := rfl
@[simp] theorem Squad.setPc_handles (q : Squad) (m : LaneMask) (pc pos : Nat) (t r : Bool) : (q.setPc m pc pos t r).handles = q.handles := rfl
@[simp] theorem Squad.setPc_region (q : Squad) (m : LaneMask) (pc pos : Nat) (t r : Bool) : (q.setPc m pc pos t r).region = q.region := rfl
@[simp] theorem Squad.setPc_trap (q : Squad) (m : LaneMask) (pc pos : Nat) (t r : Bool) : (q.setPc m pc pos t r).trap = q.trap := rfl
@[simp] theorem Squad.setPc_savedLatch (q : Squad) (m : LaneMask) (pc pos : Nat) (t r : Bool) : (q.setPc m pc pos t r).savedLatch = q.savedLatch := rfl
@[simp] theorem Squad.setPc_savedAt (q : Squad) (m : LaneMask) (pc pos : Nat) (t r : Bool) : (q.setPc m pc pos t r).savedAt = q.savedAt := rfl
@[simp] theorem Squad.setPc_contEns (q : Squad) (m : LaneMask) (pc pos : Nat) (t r : Bool) : (q.setPc m pc pos t r).contEns = q.contEns := rfl
@[simp] theorem Squad.setPc_contLeft (q : Squad) (m : LaneMask) (pc pos : Nat) (t r : Bool) : (q.setPc m pc pos t r).contLeft = q.contLeft := rfl
@[simp] theorem Squad.setPc_scfMask (q : Squad) (m : LaneMask) (pc pos : Nat) (t r : Bool) : (q.setPc m pc pos t r).scfMask = q.scfMask := rfl
@[simp] theorem Squad.setPc_age (q : Squad) (m : LaneMask) (pc pos : Nat) (t r : Bool) : (q.setPc m pc pos t r).age = q.age := rfl
@[simp] theorem Squad.setPc_quota (q : Squad) (m : LaneMask) (pc pos : Nat) (t r : Bool) : (q.setPc m pc pos t r).quota = q.quota := rfl
@[simp] theorem Squad.setPc_resident (q : Squad) (m : LaneMask) (pc pos : Nat) (t r : Bool) : (q.setPc m pc pos t r).resident = q.resident := rfl
@[simp] theorem Squad.setPc_evicted (q : Squad) (m : LaneMask) (pc pos : Nat) (t r : Bool) : (q.setPc m pc pos t r).evicted = q.evicted := rfl
@[simp] theorem Squad.setPc_credit (q : Squad) (m : LaneMask) (pc pos : Nat) (t r : Bool) : (q.setPc m pc pos t r).credit = q.credit := rfl
@[simp] theorem Squad.setPc_creditRegs (q : Squad) (m : LaneMask) (pc pos : Nat) (t r : Bool) : (q.setPc m pc pos t r).creditRegs = q.creditRegs := rfl
@[simp] theorem Squad.setPc_waitTested (q : Squad) (m : LaneMask) (pc pos : Nat) (t r : Bool) : (q.setPc m pc pos t r).waitTested = q.waitTested := rfl
@[simp] theorem Squad.setPc_waitExpired (q : Squad) (m : LaneMask) (pc pos : Nat) (t r : Bool) : (q.setPc m pc pos t r).waitExpired = q.waitExpired := rfl
@[simp] theorem Squad.setPc_waitMet (q : Squad) (m : LaneMask) (pc pos : Nat) (t r : Bool) : (q.setPc m pc pos t r).waitMet = q.waitMet := rfl
@[simp] theorem Squad.setPc_qHold (q : Squad) (m : LaneMask) (pc pos : Nat) (t r : Bool) : (q.setPc m pc pos t r).qHold = q.qHold := rfl
@[simp] theorem Squad.setPc_acqbAt (q : Squad) (m : LaneMask) (pc pos : Nat) (t r : Bool) : (q.setPc m pc pos t r).acqbAt = q.acqbAt := rfl
@[simp] theorem Squad.setPc_awaiting (q : Squad) (m : LaneMask) (pc pos : Nat) (t r : Bool) : (q.setPc m pc pos t r).awaiting = q.awaiting := rfl
@[simp] theorem Squad.setPc_badResponse (q : Squad) (m : LaneMask) (pc pos : Nat) (t r : Bool) : (q.setPc m pc pos t r).badResponse = q.badResponse := rfl
@[simp] theorem Squad.setPc_parked (q : Squad) (m : LaneMask) (pc pos : Nat) (t r : Bool) : (q.setPc m pc pos t r).parked = q.parked := rfl
@[simp] theorem Squad.setPc_parkedVa (q : Squad) (m : LaneMask) (pc pos : Nat) (t r : Bool) : (q.setPc m pc pos t r).parkedVa = q.parkedVa := rfl
@[simp] theorem Squad.setPc_restart (q : Squad) (m : LaneMask) (pc pos : Nat) (t r : Bool) : (q.setPc m pc pos t r).restart = q.restart := rfl
@[simp] theorem Squad.setPc_skip (q : Squad) (m : LaneMask) (pc pos : Nat) (t r : Bool) : (q.setPc m pc pos t r).skip = q.skip := rfl
@[simp] theorem Squad.setPc_deferred (q : Squad) (m : LaneMask) (pc pos : Nat) (t r : Bool) : (q.setPc m pc pos t r).deferred = q.deferred := rfl
@[simp] theorem Squad.setPc_stall (q : Squad) (m : LaneMask) (pc pos : Nat) (t r : Bool) : (q.setPc m pc pos t r).stall = q.stall := rfl
@[simp] theorem Squad.setPc_stopped (q : Squad) (m : LaneMask) (pc pos : Nat) (t r : Bool) : (q.setPc m pc pos t r).stopped = q.stopped := rfl
@[simp] theorem Squad.setPc_dead (q : Squad) (m : LaneMask) (pc pos : Nat) (t r : Bool) : (q.setPc m pc pos t r).dead = q.dead := rfl

@[simp] theorem Squad.leave_uid (q : Squad) (m : LaneMask) : (q.leave m).uid = q.uid := rfl
@[simp] theorem Squad.leave_place (q : Squad) (m : LaneMask) : (q.leave m).place = q.place := rfl
@[simp] theorem Squad.leave_launch (q : Squad) (m : LaneMask) : (q.leave m).launch = q.launch := rfl
@[simp] theorem Squad.leave_number (q : Squad) (m : LaneMask) : (q.leave m).number = q.number := rfl
@[simp] theorem Squad.leave_spawned (q : Squad) (m : LaneMask) : (q.leave m).spawned = q.spawned := rfl
@[simp] theorem Squad.leave_entry (q : Squad) (m : LaneMask) : (q.leave m).entry = q.entry := rfl
@[simp] theorem Squad.leave_dispatched (q : Squad) (m : LaneMask) : (q.leave m).dispatched = q.dispatched := rfl
@[simp] theorem Squad.leave_stackNo (q : Squad) (m : LaneMask) : (q.leave m).stackNo = q.stackNo := rfl
@[simp] theorem Squad.leave_lastIssue (q : Squad) (m : LaneMask) : (q.leave m).lastIssue = q.lastIssue := rfl
@[simp] theorem Squad.leave_exe (q : Squad) (m : LaneMask) : (q.leave m).exe = { q.exe with active := q.exe.active &&& ~~~m } := rfl
@[simp] theorem Squad.leave_lpc (q : Squad) (m : LaneMask) : (q.leave m).lpc = q.lpc := rfl
@[simp] theorem Squad.leave_st (q : Squad) (m : LaneMask) : (q.leave m).st = q.st := rfl
@[simp] theorem Squad.leave_resume (q : Squad) (m : LaneMask) : (q.leave m).resume = q.resume := rfl
@[simp] theorem Squad.leave_byTransfer (q : Squad) (m : LaneMask) : (q.leave m).byTransfer = q.byTransfer := rfl
@[simp] theorem Squad.leave_byResume (q : Squad) (m : LaneMask) : (q.leave m).byResume = q.byResume := rfl
@[simp] theorem Squad.leave_burgees (q : Squad) (m : LaneMask) : (q.leave m).burgees = q.burgees := rfl
@[simp] theorem Squad.leave_ensigns (q : Squad) (m : LaneMask) : (q.leave m).ensigns = q.ensigns := rfl
@[simp] theorem Squad.leave_pennants (q : Squad) (m : LaneMask) : (q.leave m).pennants = q.pennants := rfl
@[simp] theorem Squad.leave_handles (q : Squad) (m : LaneMask) : (q.leave m).handles = q.handles := rfl
@[simp] theorem Squad.leave_region (q : Squad) (m : LaneMask) : (q.leave m).region = q.region := rfl
@[simp] theorem Squad.leave_trap (q : Squad) (m : LaneMask) : (q.leave m).trap = q.trap := rfl
@[simp] theorem Squad.leave_savedLatch (q : Squad) (m : LaneMask) : (q.leave m).savedLatch = q.savedLatch := rfl
@[simp] theorem Squad.leave_savedAt (q : Squad) (m : LaneMask) : (q.leave m).savedAt = q.savedAt := rfl
@[simp] theorem Squad.leave_contEns (q : Squad) (m : LaneMask) : (q.leave m).contEns = q.contEns := rfl
@[simp] theorem Squad.leave_contLeft (q : Squad) (m : LaneMask) : (q.leave m).contLeft = q.contLeft := rfl
@[simp] theorem Squad.leave_scfMask (q : Squad) (m : LaneMask) : (q.leave m).scfMask = q.scfMask := rfl
@[simp] theorem Squad.leave_age (q : Squad) (m : LaneMask) : (q.leave m).age = q.age := rfl
@[simp] theorem Squad.leave_quota (q : Squad) (m : LaneMask) : (q.leave m).quota = q.quota := rfl
@[simp] theorem Squad.leave_resident (q : Squad) (m : LaneMask) : (q.leave m).resident = q.resident := rfl
@[simp] theorem Squad.leave_evicted (q : Squad) (m : LaneMask) : (q.leave m).evicted = q.evicted := rfl
@[simp] theorem Squad.leave_credit (q : Squad) (m : LaneMask) : (q.leave m).credit = q.credit := rfl
@[simp] theorem Squad.leave_creditRegs (q : Squad) (m : LaneMask) : (q.leave m).creditRegs = q.creditRegs := rfl
@[simp] theorem Squad.leave_waitTested (q : Squad) (m : LaneMask) : (q.leave m).waitTested = q.waitTested := rfl
@[simp] theorem Squad.leave_waitExpired (q : Squad) (m : LaneMask) : (q.leave m).waitExpired = q.waitExpired := rfl
@[simp] theorem Squad.leave_waitMet (q : Squad) (m : LaneMask) : (q.leave m).waitMet = q.waitMet := rfl
@[simp] theorem Squad.leave_qHold (q : Squad) (m : LaneMask) : (q.leave m).qHold = q.qHold := rfl
@[simp] theorem Squad.leave_acqbAt (q : Squad) (m : LaneMask) : (q.leave m).acqbAt = q.acqbAt := rfl
@[simp] theorem Squad.leave_awaiting (q : Squad) (m : LaneMask) : (q.leave m).awaiting = q.awaiting := rfl
@[simp] theorem Squad.leave_badResponse (q : Squad) (m : LaneMask) : (q.leave m).badResponse = q.badResponse := rfl
@[simp] theorem Squad.leave_parked (q : Squad) (m : LaneMask) : (q.leave m).parked = q.parked := rfl
@[simp] theorem Squad.leave_parkedVa (q : Squad) (m : LaneMask) : (q.leave m).parkedVa = q.parkedVa := rfl
@[simp] theorem Squad.leave_restart (q : Squad) (m : LaneMask) : (q.leave m).restart = q.restart := rfl
@[simp] theorem Squad.leave_skip (q : Squad) (m : LaneMask) : (q.leave m).skip = q.skip := rfl
@[simp] theorem Squad.leave_deferred (q : Squad) (m : LaneMask) : (q.leave m).deferred = q.deferred := rfl
@[simp] theorem Squad.leave_stall (q : Squad) (m : LaneMask) : (q.leave m).stall = q.stall := rfl
@[simp] theorem Squad.leave_stopped (q : Squad) (m : LaneMask) : (q.leave m).stopped = q.stopped := rfl
@[simp] theorem Squad.leave_dead (q : Squad) (m : LaneMask) : (q.leave m).dead = q.dead := rfl

@[simp] theorem Squad.dropLatch_uid (q : Squad) (m : LaneMask) : (q.dropLatch m).uid = q.uid := rfl
@[simp] theorem Squad.dropLatch_place (q : Squad) (m : LaneMask) : (q.dropLatch m).place = q.place := rfl
@[simp] theorem Squad.dropLatch_launch (q : Squad) (m : LaneMask) : (q.dropLatch m).launch = q.launch := rfl
@[simp] theorem Squad.dropLatch_number (q : Squad) (m : LaneMask) : (q.dropLatch m).number = q.number := rfl
@[simp] theorem Squad.dropLatch_spawned (q : Squad) (m : LaneMask) : (q.dropLatch m).spawned = q.spawned := rfl
@[simp] theorem Squad.dropLatch_entry (q : Squad) (m : LaneMask) : (q.dropLatch m).entry = q.entry := rfl
@[simp] theorem Squad.dropLatch_dispatched (q : Squad) (m : LaneMask) : (q.dropLatch m).dispatched = q.dispatched := rfl
@[simp] theorem Squad.dropLatch_stackNo (q : Squad) (m : LaneMask) : (q.dropLatch m).stackNo = q.stackNo := rfl
@[simp] theorem Squad.dropLatch_lastIssue (q : Squad) (m : LaneMask) : (q.dropLatch m).lastIssue = q.lastIssue := rfl
@[simp] theorem Squad.dropLatch_exe (q : Squad) (m : LaneMask) : (q.dropLatch m).exe = q.exe := rfl
@[simp] theorem Squad.dropLatch_lpc (q : Squad) (m : LaneMask) : (q.dropLatch m).lpc = q.lpc := rfl
@[simp] theorem Squad.dropLatch_st (q : Squad) (m : LaneMask) : (q.dropLatch m).st = q.st := rfl
@[simp] theorem Squad.dropLatch_resume (q : Squad) (m : LaneMask) : (q.dropLatch m).resume = q.resume := rfl
@[simp] theorem Squad.dropLatch_byTransfer (q : Squad) (m : LaneMask) : (q.dropLatch m).byTransfer = q.byTransfer := rfl
@[simp] theorem Squad.dropLatch_byResume (q : Squad) (m : LaneMask) : (q.dropLatch m).byResume = q.byResume := rfl
@[simp] theorem Squad.dropLatch_burgees (q : Squad) (m : LaneMask) : (q.dropLatch m).burgees = q.burgees := rfl
@[simp] theorem Squad.dropLatch_ensigns (q : Squad) (m : LaneMask) : (q.dropLatch m).ensigns = q.ensigns := rfl
@[simp] theorem Squad.dropLatch_pennants (q : Squad) (m : LaneMask) : (q.dropLatch m).pennants = q.pennants := rfl
@[simp] theorem Squad.dropLatch_handles (q : Squad) (m : LaneMask) : (q.dropLatch m).handles = q.handles := rfl
@[simp] theorem Squad.dropLatch_region (q : Squad) (m : LaneMask) : (q.dropLatch m).region = q.region := rfl
@[simp] theorem Squad.dropLatch_trap (q : Squad) (m : LaneMask) : (q.dropLatch m).trap = q.trap := rfl
@[simp] theorem Squad.dropLatch_savedLatch (q : Squad) (m : LaneMask) : (q.dropLatch m).savedLatch = q.savedLatch := rfl
@[simp] theorem Squad.dropLatch_savedAt (q : Squad) (m : LaneMask) : (q.dropLatch m).savedAt = q.savedAt.mapIdx fun l a => if m.getLsbD l then [none, none, none] else a := rfl
@[simp] theorem Squad.dropLatch_contEns (q : Squad) (m : LaneMask) : (q.dropLatch m).contEns = q.contEns := rfl
@[simp] theorem Squad.dropLatch_contLeft (q : Squad) (m : LaneMask) : (q.dropLatch m).contLeft = q.contLeft := rfl
@[simp] theorem Squad.dropLatch_scfMask (q : Squad) (m : LaneMask) : (q.dropLatch m).scfMask = q.scfMask := rfl
@[simp] theorem Squad.dropLatch_age (q : Squad) (m : LaneMask) : (q.dropLatch m).age = q.age := rfl
@[simp] theorem Squad.dropLatch_quota (q : Squad) (m : LaneMask) : (q.dropLatch m).quota = q.quota := rfl
@[simp] theorem Squad.dropLatch_resident (q : Squad) (m : LaneMask) : (q.dropLatch m).resident = q.resident := rfl
@[simp] theorem Squad.dropLatch_evicted (q : Squad) (m : LaneMask) : (q.dropLatch m).evicted = q.evicted := rfl
@[simp] theorem Squad.dropLatch_credit (q : Squad) (m : LaneMask) : (q.dropLatch m).credit = q.credit := rfl
@[simp] theorem Squad.dropLatch_creditRegs (q : Squad) (m : LaneMask) : (q.dropLatch m).creditRegs = q.creditRegs := rfl
@[simp] theorem Squad.dropLatch_waitTested (q : Squad) (m : LaneMask) : (q.dropLatch m).waitTested = q.waitTested := rfl
@[simp] theorem Squad.dropLatch_waitExpired (q : Squad) (m : LaneMask) : (q.dropLatch m).waitExpired = q.waitExpired := rfl
@[simp] theorem Squad.dropLatch_waitMet (q : Squad) (m : LaneMask) : (q.dropLatch m).waitMet = q.waitMet := rfl
@[simp] theorem Squad.dropLatch_qHold (q : Squad) (m : LaneMask) : (q.dropLatch m).qHold = q.qHold := rfl
@[simp] theorem Squad.dropLatch_acqbAt (q : Squad) (m : LaneMask) : (q.dropLatch m).acqbAt = q.acqbAt := rfl
@[simp] theorem Squad.dropLatch_awaiting (q : Squad) (m : LaneMask) : (q.dropLatch m).awaiting = q.awaiting := rfl
@[simp] theorem Squad.dropLatch_badResponse (q : Squad) (m : LaneMask) : (q.dropLatch m).badResponse = q.badResponse := rfl
@[simp] theorem Squad.dropLatch_parked (q : Squad) (m : LaneMask) : (q.dropLatch m).parked = q.parked := rfl
@[simp] theorem Squad.dropLatch_parkedVa (q : Squad) (m : LaneMask) : (q.dropLatch m).parkedVa = q.parkedVa := rfl
@[simp] theorem Squad.dropLatch_restart (q : Squad) (m : LaneMask) : (q.dropLatch m).restart = q.restart := rfl
@[simp] theorem Squad.dropLatch_skip (q : Squad) (m : LaneMask) : (q.dropLatch m).skip = q.skip := rfl
@[simp] theorem Squad.dropLatch_deferred (q : Squad) (m : LaneMask) : (q.dropLatch m).deferred = q.deferred := rfl
@[simp] theorem Squad.dropLatch_stall (q : Squad) (m : LaneMask) : (q.dropLatch m).stall = q.stall := rfl
@[simp] theorem Squad.dropLatch_stopped (q : Squad) (m : LaneMask) : (q.dropLatch m).stopped = q.stopped := rfl
@[simp] theorem Squad.dropLatch_dead (q : Squad) (m : LaneMask) : (q.dropLatch m).dead = q.dead := rfl

@[simp] theorem Exe.setReg_ctx (e : Exe) (n l v : Nat) : (e.setReg n l v).ctx = e.ctx := rfl
@[simp] theorem Exe.setReg_core (e : Exe) (n l v : Nat) : (e.setReg n l v).core = e.core := rfl
@[simp] theorem Exe.setReg_regs (e : Exe) (n l v : Nat) : (e.setReg n l v).regs = e.regs.set 0 (32 * n + l) (BitVec.ofNat 32 v) := rfl
@[simp] theorem Exe.setReg_flags (e : Exe) (n l v : Nat) : (e.setReg n l v).flags = e.flags := rfl
@[simp] theorem Exe.setReg_uni (e : Exe) (n l v : Nat) : (e.setReg n l v).uni = e.uni := rfl
@[simp] theorem Exe.setReg_latch (e : Exe) (n l v : Nat) : (e.setReg n l v).latch = e.latch := rfl
@[simp] theorem Exe.setReg_latchAt (e : Exe) (n l v : Nat) : (e.setReg n l v).latchAt = e.latchAt := rfl
@[simp] theorem Exe.setReg_declared (e : Exe) (n l v : Nat) : (e.setReg n l v).declared = e.declared := rfl
@[simp] theorem Exe.setReg_mslots (e : Exe) (n l v : Nat) : (e.setReg n l v).mslots = e.mslots := rfl
@[simp] theorem Exe.setReg_active (e : Exe) (n l v : Nat) : (e.setReg n l v).active = e.active := rfl
@[simp] theorem Exe.setReg_hdr (e : Exe) (n l v : Nat) : (e.setReg n l v).hdr = e.hdr := rfl
@[simp] theorem Exe.setReg_hdrAt (e : Exe) (n l v : Nat) : (e.setReg n l v).hdrAt = e.hdrAt := rfl
@[simp] theorem Exe.setReg_pos (e : Exe) (n l v : Nat) : (e.setReg n l v).pos = e.pos := rfl
@[simp] theorem Exe.setReg_inClause (e : Exe) (n l v : Nat) : (e.setReg n l v).inClause = e.inClause := rfl
@[simp] theorem Exe.setReg_thread (e : Exe) (n l v : Nat) : (e.setReg n l v).thread = e.thread := rfl

@[simp] theorem Exe.setUni_ctx (e : Exe) (k v : Nat) : (e.setUni k v).ctx = e.ctx := rfl
@[simp] theorem Exe.setUni_core (e : Exe) (k v : Nat) : (e.setUni k v).core = e.core := rfl
@[simp] theorem Exe.setUni_regs (e : Exe) (k v : Nat) : (e.setUni k v).regs = e.regs := rfl
@[simp] theorem Exe.setUni_flags (e : Exe) (k v : Nat) : (e.setUni k v).flags = e.flags := rfl
@[simp] theorem Exe.setUni_uni (e : Exe) (k v : Nat) : (e.setUni k v).uni = e.uni.set 0 k (BitVec.ofNat 32 v) := rfl
@[simp] theorem Exe.setUni_latch (e : Exe) (k v : Nat) : (e.setUni k v).latch = e.latch := rfl
@[simp] theorem Exe.setUni_latchAt (e : Exe) (k v : Nat) : (e.setUni k v).latchAt = e.latchAt := rfl
@[simp] theorem Exe.setUni_declared (e : Exe) (k v : Nat) : (e.setUni k v).declared = e.declared := rfl
@[simp] theorem Exe.setUni_mslots (e : Exe) (k v : Nat) : (e.setUni k v).mslots = e.mslots := rfl
@[simp] theorem Exe.setUni_active (e : Exe) (k v : Nat) : (e.setUni k v).active = e.active := rfl
@[simp] theorem Exe.setUni_hdr (e : Exe) (k v : Nat) : (e.setUni k v).hdr = e.hdr := rfl
@[simp] theorem Exe.setUni_hdrAt (e : Exe) (k v : Nat) : (e.setUni k v).hdrAt = e.hdrAt := rfl
@[simp] theorem Exe.setUni_pos (e : Exe) (k v : Nat) : (e.setUni k v).pos = e.pos := rfl
@[simp] theorem Exe.setUni_inClause (e : Exe) (k v : Nat) : (e.setUni k v).inClause = e.inClause := rfl
@[simp] theorem Exe.setUni_thread (e : Exe) (k v : Nat) : (e.setUni k v).thread = e.thread := rfl

end Sys2Proof.Machine
end

