-- ==== Sys2Proof/Laws/Agents.lean ====
section
/-! SUPPORT. What running one instruction for an agent can do, once for all instructions: it completes, stalls or traps as its meaning says. -/

namespace Sys2Proof.Machine

/-! ### Squads by name -/

theorem Chip.squad?_uid {c : Chip} {u : Nat} {q : Squad} (h : c.squad? u = some q) : q.uid = u := by
  simpa using List.find?_some h

/-- Changing squad u, keeping its name, changes what its name finds. -/
theorem Chip.squad?_modSquad_self {c : Chip} {u : Nat} {f : Squad → Squad} (hf : ∀ q : Squad, q.uid = u → (f q).uid = u) :
    (c.modSquad u f).squad? u = (c.squad? u).map f := by
  unfold Chip.squad? Chip.modSquad
  simp only
  induction c.squads with
  | nil => rfl
  | cons q qs ih =>
    by_cases h : q.uid = u
    · simp [h, hf q h]
    · simp [h, ih]

/-- Changing squad u leaves every other squad as it was. -/
theorem Chip.squad?_modSquad_ne {c : Chip} {u v : Nat} {f : Squad → Squad} (hf : ∀ q : Squad, q.uid = u → (f q).uid = u) (hv : v ≠ u) :
    (c.modSquad u f).squad? v = c.squad? v := by
  unfold Chip.squad? Chip.modSquad
  simp only
  induction c.squads with
  | nil => rfl
  | cons q qs ih =>
    by_cases h : q.uid = u
    · have hq : (q.uid == v) = false := by simp [h, Ne.symm hv]
      have hq' : ((f q).uid == v) = false := by simp [hf q h, Ne.symm hv]
      simp [h, Ne.symm hv, hf q h, ih]
    · rw [List.map_cons, if_neg h, List.find?_cons, List.find?_cons, ih]

@[simp] theorem Squad.endClause_uid (q : Squad) : q.endClause.uid = q.uid := by
  unfold Squad.endClause
  dsimp only
  split
  · split <;> rfl
  · rfl

@[simp] theorem Squad.advance_uid (q : Squad) : q.advance.uid = q.uid := by
  unfold Squad.advance
  simp only
  split
  · exact Squad.endClause_uid _
  · rfl

/-! ### One instruction -/

theorem State.ready_turn {s : State} {q : Squad} {cs us : List Nat} (h : s.ready q cs us = true) : s.chip.turn = some (.squad q.uid) := by
  simp only [State.ready, Bool.and_eq_true, beq_iff_eq] at h; exact h.1.1.1.1.1.1

theorem State.ready_squad {s : State} {q : Squad} {cs us : List Nat} (h : s.ready q cs us = true) : s.chip.squad? q.uid = some q := by
  simp only [State.ready, Bool.and_eq_true, beq_iff_eq] at h; exact h.1.1.1.1.1.2

theorem State.ready_inClause {s : State} {q : Squad} {cs us : List Nat} (h : s.ready q cs us = true) : q.exe.inClause = true := by
  simp only [State.ready, Bool.and_eq_true, beq_iff_eq] at h; exact h.1.1.1.1.2

/-- A squad ready for an instruction runs its meaning. -/
theorem onSquad_ready {s : State} {q : Squad} {cs : List Nat} {uses : Exe → List Nat} {fn : Chip → Squad → Res} (h : s.ready q cs (uses q.exe) = true) :
    onSquad s cs uses fn = match fn s.chip q with
      | .done c => .next (s.after q.uid c)
      | .stall c => .next { s with chip := c.stallSquad q.uid .other }
      | .wait c => .next { s with chip := c.stallSquad q.uid .localWait }
      | .pend c rs => .next { s with chip := c.stallSquad q.uid (.registers rs) }
      | .left c => .next { s with chip := c.stallSquad q.uid .other }
      | .trap t => .next (s.trapped q.uid t)
      | .trapIn c t => .next { s with chip := c.takeTrap q.uid t } := by
  have h0 := h
  simp only [State.ready, Bool.and_eq_true, Bool.not_eq_true'] at h
  obtain ⟨⟨⟨⟨⟨⟨-, -⟩, hin⟩, hcls⟩, hskip⟩, haw⟩, hbl⟩ := h
  simp only [onSquad, onAgent, State.ready_turn h0, State.ready_squad h0, hin, ↓reduceIte, Chip.runSquad, hcls, hskip, hbl,
    Option.isNone_iff_eq_none.mp haw, onChip, State.after, State.trapped]
  cases fn s.chip q <;> simp

theorem onSquad_done {s : State} {q : Squad} {cs : List Nat} {uses : Exe → List Nat} {fn : Chip → Squad → Res} {c : Chip}
    (h : s.ready q cs (uses q.exe) = true) (hf : fn s.chip q = .done c) : onSquad s cs uses fn = .next (s.after q.uid c) := by
  rw [onSquad_ready h, hf]

theorem onSquad_trap {s : State} {q : Squad} {cs : List Nat} {uses : Exe → List Nat} {fn : Chip → Squad → Res} {t : Trap}
    (h : s.ready q cs (uses q.exe) = true) (hf : fn s.chip q = .trap t) : onSquad s cs uses fn = .next (s.trapped q.uid t) := by
  rw [onSquad_ready h, hf]

/-- The same where quarry threads have a meaning of their own. -/
theorem onAgent_squad {s : State} {q : Squad} {cs us : List Nat} {fq : Chip → Squad → Chip} {ft : Chip → Nat → Nat → QThread → Chip}
    (h : s.ready q cs us = true) : onAgent s fq ft = .next { s with chip := fq s.chip q } := by
  simp only [onAgent, State.ready_turn h, State.ready_squad h, State.ready_inClause h, ↓reduceIte, onChip]

theorem runSquad_done {s : State} {q : Squad} {cs : List Nat} {uses : Exe → List Nat} {fn : Chip → Squad → Res} {c : Chip}
    (h : s.ready q cs (uses q.exe) = true) (hf : fn s.chip q = .done c) : s.chip.runSquad q cs uses fn = c.advance q.uid := by
  have hs := onSquad_done (fn := fn) h hf
  rw [onSquad, onAgent_squad h] at hs
  injection hs with hs
  exact congrArg State.chip hs

/-- An instruction of squads and threads completes for a squad. -/
theorem onAgent_done {s : State} {q : Squad} {cs : List Nat} {uses : Exe → List Nat} {fn : Chip → Squad → Res} {c : Chip}
    {ft : Chip → Nat → Nat → QThread → Chip} (h : s.ready q cs (uses q.exe) = true) (hf : fn s.chip q = .done c) :
    onAgent s (fun c q => c.runSquad q cs uses fn) ft = .next (s.after q.uid c) := by
  rw [onAgent_squad h, runSquad_done h hf]; rfl

theorem onBoth_done {s : State} {q : Squad} {uses : Exe → List Nat} {fn : Exe → Except Trap Exe} {e : Exe}
    (h : s.ready q [0] (uses q.exe) = true) (hf : fn q.exe = .ok e) :
    onBoth s uses fn = .next (s.after q.uid (s.chip.setSquad { q with exe := e })) :=
  onAgent_done h (by unfold exeRes; rw [hf])

theorem onRegs_done {s : State} {q : Squad} {cs : List Nat} {uses : Exe → List Nat} {fn : Exe → Except Trap Exe} {e : Exe}
    (h : s.ready q cs (uses q.exe) = true) (hf : fn q.exe = .ok e) :
    onRegs s cs uses fn = .next (s.after q.uid (s.chip.setSquad { q with exe := e })) :=
  onSquad_done h (by unfold exeRes; rw [hf])

theorem onAgent_trap {s : State} {q : Squad} {cs : List Nat} {uses : Exe → List Nat} {fn : Chip → Squad → Res} {t : Trap}
    {ft : Chip → Nat → Nat → QThread → Chip} (h : s.ready q cs (uses q.exe) = true) (hf : fn s.chip q = .trap t) :
    onAgent s (fun c q => c.runSquad q cs uses fn) ft = .next (s.trapped q.uid t) := by
  have hs := onSquad_trap (fn := fn) h hf
  rw [onSquad, onAgent_squad h] at hs
  rw [onAgent_squad h]; exact hs

/-- A quarry thread ready for an instruction runs its meaning. -/
theorem onAgent_thread {s : State} {n t : Nat} {th : QThread} {fq : Chip → Squad → Chip} {ft : Chip → Nat → Nat → QThread → Chip}
    (h : s.readyThread n t th = true) : onAgent s fq ft = .next { s with chip := ft s.chip n t th } := by
  simp only [State.readyThread, Bool.and_eq_true, beq_iff_eq] at h
  obtain ⟨⟨ht, hth⟩, hin⟩ := h
  simp [onAgent, ht, hth, hin, onChip]

/-- An instruction of a quarry thread completes. -/
theorem onAgent_threadDone {s : State} {n t : Nat} {th : QThread} {fq : Chip → Squad → Chip} {fn : Nat → Nat → Chip → QThread → Res} {c : Chip}
    (h : s.readyThread n t th = true) (hf : fn n t s.chip th = .done c) :
    onAgent s fq (fun c n t th => c.runThread n t th (fn n t)) = .next (s.afterThread n t c) := by
  rw [onAgent_thread h]; unfold Chip.runThread; rw [hf]; rfl

theorem onBoth_threadDone {s : State} {n t : Nat} {th : QThread} {uses : Exe → List Nat} {fn : Exe → Except Trap Exe} {e : Exe}
    (h : s.readyThread n t th = true) (hf : fn th.exe = .ok e) :
    onBoth s uses fn = .next (s.afterThread n t (s.chip.modThread n t fun th => { th with exe := e })) :=
  onAgent_threadDone (fn := exeResThread fn) h (by unfold exeResThread; rw [hf])

/-! ### Checks -/

theorem passes_ok {x : Except Trap Unit} (h : passes x = true) : x = .ok () := by
  cases x with
  | ok u => rfl
  | error t => simp [passes, Except.toBool] at h

/-- A lane-by-lane instruction whose operands pass. -/
theorem runR_ok {f : FormR} {u : RUse} {fn : Nat → Nat → Nat → Nat} {e : Exe} (h : passes (e.chkR f u) = true) :
    Exe.runR f u fn e = .ok (e.resultR f u u.a.wide u.b.wide u.c.wide u.dst.wide fn) := by
  unfold Exe.runR; rw [passes_ok h]; rfl

end Sys2Proof.Machine
end

