-- ==== Sys2Proof/Laws/Memory.lean ====
section
/-! SUPPORT. Laws of memory: what each write leaves at every location, and that every operation on device, host and scratch memory keeps the
canonical form. -/

namespace Sys2Proof.Machine

/-- The memories of a chip are in canonical form. -/
def Chip.memWf (c : Chip) : Prop := c.dev.Wf ∧ c.host.Wf ∧ ∀ k ∈ c.cores, k.scratch.Wf

/-- What every step of a fold keeps, the fold keeps. -/
theorem foldl_keeps {α β : Type} {P : α → Prop} {f : α → β → α} (hf : ∀ a x, P a → P (f a x)) (xs : List β) {a : α} (h : P a) : P (xs.foldl f a) := by
  induction xs generalizing a with
  | nil => exact h
  | cons x xs ih => exact ih (hf a x h)

/-! ### Cores -/

theorem Chip.core_modCore_self {c : Chip} {n : Nat} {f : Core → Core} (h : n < c.cores.length) : (c.modCore n f).core n = f (c.core n) := by
  simp [Chip.core, Chip.modCore, modAt, h]

theorem Chip.core_modCore_ne (c : Chip) {n m : Nat} (f : Core → Core) (h : n ≠ m) : (c.modCore n f).core m = c.core m := by
  simp [Chip.core, Chip.modCore, modAt, h]

theorem Chip.core_modCore_out (c : Chip) {n : Nat} (f : Core → Core) (h : c.cores.length ≤ n) (m : Nat) : (c.modCore n f).core m = c.core m := by
  have : c.cores.modify n f = c.cores := List.modify_eq_self h
  simp [Chip.core, Chip.modCore, modAt, this]

/-- Changing a core in other fields than its scratch changes no byte. -/
theorem Chip.byteAt_modCore (c : Chip) (n : Nat) (f : Core → Core) (hf : ∀ k, (f k).scratch = k.scratch) (l : Loc) :
    (c.modCore n f).byteAt l = c.byteAt l := by
  cases l with
  | dev => rfl
  | host => rfl
  | scr m off =>
    simp only [Chip.byteAt]
    by_cases h : n < c.cores.length
    · by_cases hm : n = m
      · subst hm; rw [core_modCore_self h, hf]
      · rw [core_modCore_ne c f hm]
    · rw [core_modCore_out c f (by omega)]

/-! ### Bytes -/

/-- A byte written reads back where the location takes stores. -/
theorem Chip.byteAt_putByte_self {c : Chip} {l : Loc} {v : Byte}
    (h : match l with
      | .dev pa => c.inStatus pa = false
      | .host _ => True
      | .scr n _ => n < c.cores.length) : (c.putByte l v).byteAt l = v := by
  cases l with
  | dev pa => simp only at h; simp [Chip.putByte, Chip.byteAt, h]
  | host pa => simp [Chip.putByte, Chip.byteAt]
  | scr n off => simp only at h; simp only [Chip.putByte, Chip.byteAt]; rw [core_modCore_self h]; simp

/-- A write leaves every other byte alone. -/
theorem Chip.byteAt_putByte_ne {c : Chip} {l m : Loc} {v : Byte} (h : l ≠ m) : (c.putByte l v).byteAt m = c.byteAt m := by
  cases l with
  | dev pa =>
    simp only [Chip.putByte]
    split
    · rfl
    · cases m with
      | dev pb => exact Mem.byte_setByte_ne _ _ (fun e => h (by rw [e]))
      | host => rfl
      | scr => rfl
  | host pa =>
    cases m with
    | host pb => exact Mem.byte_setByte_ne _ _ (fun e => h (by rw [e]))
    | dev => rfl
    | scr => rfl
  | scr n off =>
    cases m with
    | dev => rfl
    | host => rfl
    | scr n' off' =>
      simp only [Chip.putByte, Chip.byteAt]
      by_cases hn : n < c.cores.length
      · by_cases hm : n = n'
        · subst hm; rw [core_modCore_self hn]; exact Mem.byte_setByte_ne _ _ (fun e => h (by rw [e]))
        · rw [core_modCore_ne _ _ hm]
      · rw [core_modCore_out _ _ (by omega)]

/-- A write of bytes leaves every location outside its list alone. -/
theorem Chip.byteAt_writeLocs_out {ls : List Loc} {bs : List Byte} {l : Loc} (h : l ∉ ls) (c : Chip) : (c.writeLocs ls bs).byteAt l = c.byteAt l := by
  unfold Chip.writeLocs
  induction ls generalizing bs c with
  | nil => simp
  | cons x xs ih =>
    cases bs with
    | nil => simp
    | cons b bs =>
      simp only [List.zip_cons_cons, List.foldl_cons]
      rw [ih (fun hm => h (by simp [hm])), byteAt_putByte_ne (fun e => h (by simp [e]))]

/-! ### The canonical form -/

theorem Chip.memWf_modCore {c : Chip} (h : c.memWf) (n : Nat) {f : Core → Core} (hf : ∀ k : Core, k.scratch.Wf → (f k).scratch.Wf) : (c.modCore n f).memWf := by
  refine ⟨h.1, h.2.1, fun k hk => ?_⟩
  obtain ⟨i, hi, rfl⟩ := List.mem_iff_getElem.mp hk
  simp only [Chip.modCore, modAt, List.length_modify] at hi
  simp only [Chip.modCore, modAt, List.getElem_modify]
  split
  · exact hf _ (h.2.2 _ (List.getElem_mem _))
  · exact h.2.2 _ (List.getElem_mem _)

theorem Chip.memWf_putByte {c : Chip} (h : c.memWf) (l : Loc) (v : Byte) : (c.putByte l v).memWf := by
  cases l with
  | dev pa =>
    simp only [Chip.putByte]
    split
    · exact h
    · exact ⟨Mem.wf_setByte h.1 pa v, h.2⟩
  | host pa => exact ⟨h.1, Mem.wf_setByte h.2.1 pa v, h.2.2⟩
  | scr n off => exact memWf_modCore h n fun k hk => Mem.wf_setByte hk off v

theorem Chip.memWf_writeLocs {c : Chip} (h : c.memWf) (ls : List Loc) (bs : List Byte) : (c.writeLocs ls bs).memWf := by
  unfold Chip.writeLocs
  induction ls.zip bs generalizing c with
  | nil => exact h
  | cons x xs ih => exact ih (memWf_putByte h x.1 x.2)

theorem Chip.memWf_devWrite {c : Chip} (h : c.memWf) (pa : Nat) (bs : List Byte) : (c.devWrite pa bs).memWf := ⟨Mem.wf_setBytes h.1 pa bs, h.2⟩

theorem Chip.memWf_devPut {c : Chip} (h : c.memWf) (pa n v : Nat) : (c.devPut pa n v).memWf := memWf_devWrite h pa _

/-- Allocating a window keeps the canonical form of scratch. -/
theorem Core.wf_openWindow {k : Core} (h : k.scratch.Wf) (w : Window) : (k.openWindow w).scratch.Wf := Sparse.wf_clearRange h _ _

/-- Bringing L1 in line touches no memory (R48). -/
theorem Chip.memWf_l1Sync {c : Chip} (h : c.memWf) (n ctx va : Nat) (ls : List Loc) : (c.l1Sync n ctx va ls).memWf := by
  simp only [Chip.l1Sync]
  split
  · exact h
  · exact memWf_modCore h n fun k hk => hk

/-- Stores of a core keep the canonical form (R48). -/
theorem Chip.memWf_storeAt {c : Chip} (h : c.memWf) (n ctx va : Nat) (ls : List Loc) (bs : List Byte) : (c.storeAt n ctx va ls bs).memWf := by
  have hw : (c.writeAt n ctx va ls bs).memWf := memWf_l1Sync (memWf_writeLocs h ls bs) n ctx va ls
  unfold Chip.storeAt Chip.markWritten
  induction ls generalizing c with
  | nil => exact hw
  | cons _ _ _ =>
    generalize c.writeAt n ctx va _ bs = d at hw
    generalize (_ :: _ : List Loc) = xs
    induction xs generalizing d with
    | nil => exact hw
    | cons x xs ih =>
      rw [List.foldl_cons]
      apply ih
      cases x with
      | dev => exact hw
      | host => exact hw
      | scr m off => exact memWf_modCore hw m fun k hk => hk

/-- The end of a region touches no memory: its stores become requests (R56). -/
theorem Chip.memWf_commitRegion {c : Chip} (h : c.memWf) (uid : Nat) : (c.commitRegion uid).memWf := by
  unfold Chip.commitRegion
  split
  · exact h
  · split <;> exact h

end Sys2Proof.Machine
end

