-- ==== Sys2Proof/Laws/PerInstr.lean ====
section
/-! SUPPORT. What kind of row each constructor is: an instruction with a word, an engine event without one, or the row of the words that stand for
no instruction. -/

namespace Sys2Proof.Laws.Row

/-- An instruction that has a word is no event; a constructor without a word is an event, or the row of unassigned words. -/
def Statement (i : Instr) : Prop :=
  ((encode i).isSome = true ∧ Machine.isEvent i = false) ∨ (encode i = none ∧ Machine.isEvent i = true) ∨ ∃ w, i = .illegalInstruction w

theorem iadd (x1 : FormR) (x2 : IntTy) (x3 : Bool) : Statement (.iadd x1 x2 x3) := .inl ⟨rfl, rfl⟩
theorem isub (x1 : FormR) (x2 : IntTy) (x3 : Bool) : Statement (.isub x1 x2 x3) := .inl ⟨rfl, rfl⟩
theorem imul (x1 : FormR) (x2 : IntTy) (x3 : Bool) : Statement (.imul x1 x2 x3) := .inl ⟨rfl, rfl⟩
theorem imulh (x1 : FormR) (x2 : IntTy) : Statement (.imulh x1 x2) := .inl ⟨rfl, rfl⟩
theorem imad (x1 : FormR) (x2 : IntTy) (x3 : Bool) : Statement (.imad x1 x2 x3) := .inl ⟨rfl, rfl⟩
theorem imin (x1 : FormR) (x2 : IntTy) : Statement (.imin x1 x2) := .inl ⟨rfl, rfl⟩
theorem imax (x1 : FormR) (x2 : IntTy) : Statement (.imax x1 x2) := .inl ⟨rfl, rfl⟩
theorem iabs (x1 : FormR) (x2 : IntTy) (x3 : Bool) : Statement (.iabs x1 x2 x3) := .inl ⟨rfl, rfl⟩
theorem ineg (x1 : FormR) (x2 : IntTy) (x3 : Bool) : Statement (.ineg x1 x2 x3) := .inl ⟨rfl, rfl⟩
theorem and (x1 : FormR) (x2 : IntTy) : Statement (.and x1 x2) := .inl ⟨rfl, rfl⟩
theorem or (x1 : FormR) (x2 : IntTy) : Statement (.or x1 x2) := .inl ⟨rfl, rfl⟩
theorem xor (x1 : FormR) (x2 : IntTy) : Statement (.xor x1 x2) := .inl ⟨rfl, rfl⟩
theorem andn (x1 : FormR) (x2 : IntTy) : Statement (.andn x1 x2) := .inl ⟨rfl, rfl⟩
theorem not (x1 : FormR) (x2 : IntTy) : Statement (.not x1 x2) := .inl ⟨rfl, rfl⟩
theorem shl (x1 : FormR) (x2 : IntTy) (x3 : Bool) (x4 : BitVec 6) : Statement (.shl x1 x2 x3 x4) := .inl ⟨rfl, rfl⟩
theorem shr (x1 : FormR) (x2 : IntTy) (x3 : Bool) (x4 : BitVec 6) : Statement (.shr x1 x2 x3 x4) := .inl ⟨rfl, rfl⟩
theorem sar (x1 : FormR) (x2 : IntTy) (x3 : Bool) (x4 : BitVec 6) : Statement (.sar x1 x2 x3 x4) := .inl ⟨rfl, rfl⟩
theorem rot (x1 : FormR) (x2 : IntTy) (x3 : Bool) (x4 : BitVec 6) : Statement (.rot x1 x2 x3 x4) := .inl ⟨rfl, rfl⟩
theorem shf (x1 : FormR) (x2 : Bool) : Statement (.shf x1 x2) := .inl ⟨rfl, rfl⟩
theorem popc (x1 : FormR) (x2 : IntTy) : Statement (.popc x1 x2) := .inl ⟨rfl, rfl⟩
theorem clz (x1 : FormR) (x2 : IntTy) : Statement (.clz x1 x2) := .inl ⟨rfl, rfl⟩
theorem brev (x1 : FormR) (x2 : IntTy) : Statement (.brev x1 x2) := .inl ⟨rfl, rfl⟩
theorem bfx (x1 : FormR) (x2 : IntTy) : Statement (.bfx x1 x2) := .inl ⟨rfl, rfl⟩
theorem bfi (x1 : FormR) (x2 : IntTy) : Statement (.bfi x1 x2) := .inl ⟨rfl, rfl⟩
theorem perm (x1 : FormR) : Statement (.perm x1) := .inl ⟨rfl, rfl⟩
theorem icmp (x1 : FormR) (x2 : IntTy) (x3 : Comb) (x4 : Cond) : Statement (.icmp x1 x2 x3 x4) := .inl ⟨rfl, rfl⟩
theorem sel (x1 : FormR) (x2 : IntTy) (x3 : Bool) (x4 : BitVec 3) : Statement (.sel x1 x2 x3 x4) := .inl ⟨rfl, rfl⟩
theorem mov (x1 : FormR) (x2 : IntTy) (x3 : Bool) (x4 : Bool) : Statement (.mov x1 x2 x3 x4) := .inl ⟨rfl, rfl⟩
theorem movx (x1 : FormR) (x2 : IntTy) : Statement (.movx x1 x2) := .inl ⟨rfl, rfl⟩
theorem movxw (x1 : FormR) (x2 : IntTy) : Statement (.movxw x1 x2) := .inl ⟨rfl, rfl⟩
theorem lea (x1 : FormR) (x2 : IntTy) (x3 : BitVec 3) : Statement (.lea x1 x2 x3) := .inl ⟨rfl, rfl⟩
theorem movi (x1 : FormI) (x2 : Bool) : Statement (.movi x1 x2) := .inl ⟨rfl, rfl⟩
theorem iaddImm (x1 : FormI) (x2 : Bool) : Statement (.iaddImm x1 x2) := .inl ⟨rfl, rfl⟩
theorem imulImm (x1 : FormI) (x2 : Bool) : Statement (.imulImm x1 x2) := .inl ⟨rfl, rfl⟩
theorem andImm (x1 : FormI) (x2 : Bool) : Statement (.andImm x1 x2) := .inl ⟨rfl, rfl⟩
theorem orImm (x1 : FormI) (x2 : Bool) : Statement (.orImm x1 x2) := .inl ⟨rfl, rfl⟩
theorem xorImm (x1 : FormI) (x2 : Bool) : Statement (.xorImm x1 x2) := .inl ⟨rfl, rfl⟩
theorem fadd (x1 : FormR) (x2 : Rnd) : Statement (.fadd x1 x2) := .inl ⟨rfl, rfl⟩
theorem fsub (x1 : FormR) (x2 : Rnd) : Statement (.fsub x1 x2) := .inl ⟨rfl, rfl⟩
theorem fmul (x1 : FormR) (x2 : Rnd) : Statement (.fmul x1 x2) := .inl ⟨rfl, rfl⟩
theorem ffma (x1 : FormR) (x2 : Rnd) : Statement (.ffma x1 x2) := .inl ⟨rfl, rfl⟩
theorem fmin (x1 : FormR) : Statement (.fmin x1) := .inl ⟨rfl, rfl⟩
theorem fmax (x1 : FormR) : Statement (.fmax x1) := .inl ⟨rfl, rfl⟩
theorem fcmp (x1 : FormR) (x2 : Comb) (x3 : FCond) : Statement (.fcmp x1 x2 x3) := .inl ⟨rfl, rfl⟩
theorem frcp (x1 : FormR) (x2 : Rnd) : Statement (.frcp x1 x2) := .inl ⟨rfl, rfl⟩
theorem frsq (x1 : FormR) (x2 : Rnd) : Statement (.frsq x1 x2) := .inl ⟨rfl, rfl⟩
theorem fsqrt (x1 : FormR) (x2 : Rnd) : Statement (.fsqrt x1 x2) := .inl ⟨rfl, rfl⟩
theorem fex2 (x1 : FormR) : Statement (.fex2 x1) := .inl ⟨rfl, rfl⟩
theorem flg2 (x1 : FormR) : Statement (.flg2 x1) := .inl ⟨rfl, rfl⟩
theorem fsin (x1 : FormR) : Statement (.fsin x1) := .inl ⟨rfl, rfl⟩
theorem fcos (x1 : FormR) : Statement (.fcos x1) := .inl ⟨rfl, rfl⟩
theorem fcvt (x1 : FormR) (x2 : Fmt) (x3 : Rnd) (x4 : Fmt) (x5 : BitVec 2) : Statement (.fcvt x1 x2 x3 x4 x5) := .inl ⟨rfl, rfl⟩
theorem frnd (x1 : FormR) (x2 : Rnd) : Statement (.frnd x1 x2) := .inl ⟨rfl, rfl⟩
theorem fcls (x1 : FormR) (x2 : Fmt) (x3 : BitVec 9) : Statement (.fcls x1 x2 x3) := .inl ⟨rfl, rfl⟩
theorem f2i (x1 : FormR) (x2 : IntTy) (x3 : Rnd) (x4 : Fmt) (x5 : BitVec 2) : Statement (.f2i x1 x2 x3 x4 x5) := .inl ⟨rfl, rfl⟩
theorem i2f (x1 : FormR) (x2 : Fmt) (x3 : Rnd) (x4 : IntTy) : Statement (.i2f x1 x2 x3 x4) := .inl ⟨rfl, rfl⟩
theorem hadd2 (x1 : FormR) (x2 : Fmt) (x3 : Rnd) : Statement (.hadd2 x1 x2 x3) := .inl ⟨rfl, rfl⟩
theorem hmul2 (x1 : FormR) (x2 : Fmt) (x3 : Rnd) : Statement (.hmul2 x1 x2 x3) := .inl ⟨rfl, rfl⟩
theorem hfma2 (x1 : FormR) (x2 : Fmt) (x3 : Rnd) : Statement (.hfma2 x1 x2 x3) := .inl ⟨rfl, rfl⟩
theorem shfl (x1 : FormR) (x2 : Bool) (x3 : ShMode) : Statement (.shfl x1 x2 x3) := .inl ⟨rfl, rfl⟩
theorem vote (x1 : FormR) (x2 : VoteMode) (x3 : Bool) (x4 : BitVec 3) : Statement (.vote x1 x2 x3 x4) := .inl ⟨rfl, rfl⟩
theorem lred (x1 : FormR) (x2 : IntTy) (x3 : LredOp) : Statement (.lred x1 x2 x3) := .inl ⟨rfl, rfl⟩
theorem matchLanes (x1 : FormR) (x2 : Bool) : Statement (.matchLanes x1 x2) := .inl ⟨rfl, rfl⟩
theorem flg (x1 : FormR) (x2 : Bool) : Statement (.flg x1 x2) := .inl ⟨rfl, rfl⟩
theorem bra (x1 : FormB) : Statement (.bra x1) := .inl ⟨rfl, rfl⟩
theorem brx (x1 : FormB) : Statement (.brx x1) := .inl ⟨rfl, rfl⟩
theorem call (x1 : FormB) (x2 : Bool) : Statement (.call x1 x2) := .inl ⟨rfl, rfl⟩
theorem ret (x1 : FormB) : Statement (.ret x1) := .inl ⟨rfl, rfl⟩
theorem exit (x1 : FormB) : Statement (.exit x1) := .inl ⟨rfl, rfl⟩
theorem yield (x1 : FormB) : Statement (.yield x1) := .inl ⟨rfl, rfl⟩
theorem nop (x1 : FormB) : Statement (.nop x1) := .inl ⟨rfl, rfl⟩
theorem region (x1 : FormB) (x2 : Bool) : Statement (.region x1 x2) := .inl ⟨rfl, rfl⟩
theorem spawn (x1 : FormX) (x2 : BitVec 3) (x3 : BitVec 3) : Statement (.spawn x1 x2 x3) := .inl ⟨rfl, rfl⟩
theorem bjoin (x1 : FormB) : Statement (.bjoin x1) := .inl ⟨rfl, rfl⟩
theorem bleave (x1 : FormB) : Statement (.bleave x1) := .inl ⟨rfl, rfl⟩
theorem bwait (x1 : FormB) : Statement (.bwait x1) := .inl ⟨rfl, rfl⟩
theorem bset (x1 : FormB) : Statement (.bset x1) := .inl ⟨rfl, rfl⟩
theorem bget (x1 : FormB) : Statement (.bget x1) := .inl ⟨rfl, rfl⟩
theorem esign (x1 : FormB) (x2 : BitVec 2) : Statement (.esign x1 x2) := .inl ⟨rfl, rfl⟩
theorem eclr (x1 : FormB) (x2 : BitVec 2) : Statement (.eclr x1 x2) := .inl ⟨rfl, rfl⟩
theorem trap (x1 : FormI) : Statement (.trap x1) := .inl ⟨rfl, rfl⟩
theorem rte (x1 : FormR) (x2 : RteMode) : Statement (.rte x1 x2) := .inl ⟨rfl, rfl⟩
theorem rdcw (x1 : FormR) (x2 : BitVec 12) : Statement (.rdcw x1 x2) := .inl ⟨rfl, rfl⟩
theorem wrcw (x1 : FormR) (x2 : BitVec 12) : Statement (.wrcw x1 x2) := .inl ⟨rfl, rfl⟩
theorem ld (x1 : FormM) (x2 : IntTy) : Statement (.ld x1 x2) := .inl ⟨rfl, rfl⟩
theorem ldTry (x1 : FormT) (x2 : IntTy) : Statement (.ldTry x1 x2) := .inl ⟨rfl, rfl⟩
theorem st (x1 : FormM) (x2 : IntTy) : Statement (.st x1 x2) := .inl ⟨rfl, rfl⟩
theorem stTry (x1 : FormT) (x2 : IntTy) : Statement (.stTry x1 x2) := .inl ⟨rfl, rfl⟩
theorem lds (x1 : FormM) (x2 : IntTy) : Statement (.lds x1 x2) := .inl ⟨rfl, rfl⟩
theorem ldsTry (x1 : FormT) (x2 : IntTy) : Statement (.ldsTry x1 x2) := .inl ⟨rfl, rfl⟩
theorem sts (x1 : FormM) (x2 : IntTy) : Statement (.sts x1 x2) := .inl ⟨rfl, rfl⟩
theorem stsTry (x1 : FormT) (x2 : IntTy) : Statement (.stsTry x1 x2) := .inl ⟨rfl, rfl⟩
theorem ldk (x1 : FormM) (x2 : IntTy) : Statement (.ldk x1 x2) := .inl ⟨rfl, rfl⟩
theorem stk (x1 : FormM) (x2 : IntTy) : Statement (.stk x1 x2) := .inl ⟨rfl, rfl⟩
theorem pref (x1 : FormM) : Statement (.pref x1) := .inl ⟨rfl, rfl⟩
theorem cas (x1 : FormM) (x2 : Bool) : Statement (.cas x1 x2) := .inl ⟨rfl, rfl⟩
theorem casScr (x1 : FormM) (x2 : Bool) : Statement (.casScr x1 x2) := .inl ⟨rfl, rfl⟩
theorem casTry (x1 : FormT) (x2 : Bool) (x3 : Bool) : Statement (.casTry x1 x2 x3) := .inl ⟨rfl, rfl⟩
theorem atom (x1 : FormM) (x2 : AtomOp) : Statement (.atom x1 x2) := .inl ⟨rfl, rfl⟩
theorem red (x1 : FormM) (x2 : AtomOp) : Statement (.red x1 x2) := .inl ⟨rfl, rfl⟩
theorem atomScr (x1 : FormM) (x2 : AtomOp) : Statement (.atomScr x1 x2) := .inl ⟨rfl, rfl⟩
theorem redScr (x1 : FormM) (x2 : AtomOp) : Statement (.redScr x1 x2) := .inl ⟨rfl, rfl⟩
theorem fence (x1 : FormM) : Statement (.fence x1) := .inl ⟨rfl, rfl⟩
theorem barArr (x1 : FormX) (x2 : ObjMod) : Statement (.barArr x1 x2) := .inl ⟨rfl, rfl⟩
theorem barWait (x1 : FormX) (x2 : ObjMod) : Statement (.barWait x1 x2) := .inl ⟨rfl, rfl⟩
theorem barx (x1 : FormX) (x2 : ObjMod) (x3 : Bool) : Statement (.barx x1 x2 x3) := .inl ⟨rfl, rfl⟩
theorem twait (x1 : FormX) (x2 : Bool) : Statement (.twait x1 x2) := .inl ⟨rfl, rfl⟩
theorem tget (x1 : FormX) (x2 : BitVec 2) : Statement (.tget x1 x2) := .inl ⟨rfl, rfl⟩
theorem wext (x1 : FormX) (x2 : BitVec 3) (x3 : Cond) : Statement (.wext x1 x2 x3) := .inl ⟨rfl, rfl⟩
theorem alp (x1 : FormB) : Statement (.alp x1) := .inl ⟨rfl, rfl⟩
theorem agen (x1 : FormR) (x2 : Bool) (x3 : BitVec 3) : Statement (.agen x1 x2 x3) := .inl ⟨rfl, rfl⟩
theorem aidx (x1 : FormR) (x2 : AidxMode) : Statement (.aidx x1 x2) := .inl ⟨rfl, rfl⟩
theorem aload (x1 : FormX) (x2 : Bool) (x3 : QSize) : Statement (.aload x1 x2 x3) := .inl ⟨rfl, rfl⟩
theorem ascat (x1 : FormX) (x2 : Bool) (x3 : QSize) : Statement (.ascat x1 x2 x3) := .inl ⟨rfl, rfl⟩
theorem qpop (x1 : FormX) : Statement (.qpop x1) := .inl ⟨rfl, rfl⟩
theorem qpush (x1 : FormX) : Statement (.qpush x1) := .inl ⟨rfl, rfl⟩
theorem qpushClose (x1 : FormX) : Statement (.qpushClose x1) := .inl ⟨rfl, rfl⟩
theorem qpushStart (x1 : FormX) (x2 : BitVec 2) : Statement (.qpushStart x1 x2) := .inl ⟨rfl, rfl⟩
theorem qpeek (x1 : FormX) : Statement (.qpeek x1) := .inl ⟨rfl, rfl⟩
theorem hoist (x1 : FormX) : Statement (.hoist x1) := .inl ⟨rfl, rfl⟩
theorem rrot (x1 : FormX) (x2 : BitVec 2) : Statement (.rrot x1 x2) := .inl ⟨rfl, rfl⟩
theorem mma (x1 : FormX) (x2 : MmaMod) : Statement (.mma x1 x2) := .inl ⟨rfl, rfl⟩
theorem mmas (x1 : FormX) (x2 : MmaMod) : Statement (.mmas x1 x2) := .inl ⟨rfl, rfl⟩
theorem mldt (x1 : FormX) (x2 : BitVec 2) : Statement (.mldt x1 x2) := .inl ⟨rfl, rfl⟩
theorem acqb (x1 : FormX) (x2 : BitVec 5) : Statement (.acqb x1 x2) := .inl ⟨rfl, rfl⟩
theorem relb (x1 : FormX) (x2 : BitVec 5) : Statement (.relb x1 x2) := .inl ⟨rfl, rfl⟩
theorem azero (x1 : FormX) (x2 : BitVec 5) : Statement (.azero x1 x2) := .inl ⟨rfl, rfl⟩
theorem ard (x1 : FormX) (x2 : BitVec 5) (x3 : BitVec 5) : Statement (.ard x1 x2 x3) := .inl ⟨rfl, rfl⟩
theorem awr (x1 : FormX) (x2 : BitVec 5) (x3 : BitVec 5) : Statement (.awr x1 x2 x3) := .inl ⟨rfl, rfl⟩
theorem accst (x1 : FormX) (x2 : Bool) (x3 : BitVec 3) (x4 : BitVec 3) (x5 : BitVec 2) : Statement (.accst x1 x2 x3 x4 x5) := .inl ⟨rfl, rfl⟩
theorem jopen (x1 : FormX) (x2 : Bool) (x3 : BitVec 3) : Statement (.jopen x1 x2 x3) := .inl ⟨rfl, rfl⟩
theorem jins (x1 : FormX) (x2 : VFmt) : Statement (.jins x1 x2) := .inl ⟨rfl, rfl⟩
theorem jrun (x1 : FormX) (x2 : VFmt) : Statement (.jrun x1 x2) := .inl ⟨rfl, rfl⟩
theorem jdrain (x1 : FormX) : Statement (.jdrain x1) := .inl ⟨rfl, rfl⟩
theorem jstat (x1 : FormX) (x2 : BitVec 2) : Statement (.jstat x1 x2) := .inl ⟨rfl, rfl⟩
theorem jclose (x1 : FormX) : Statement (.jclose x1) := .inl ⟨rfl, rfl⟩
theorem fget (x1 : FormX) (x2 : Bool) (x3 : Bool) : Statement (.fget x1 x2 x3) := .inl ⟨rfl, rfl⟩
theorem fput (x1 : FormX) (x2 : Bool) (x3 : Bool) (x4 : Bool) (x5 : Bool) : Statement (.fput x1 x2 x3 x4 x5) := .inl ⟨rfl, rfl⟩
theorem fatom (x1 : FormX) (x2 : Bool) (x3 : Bool) (x4 : Bool) (x5 : BitVec 2) (x6 : FatomOp) : Statement (.fatom x1 x2 x3 x4 x5 x6) := .inl ⟨rfl, rfl⟩
theorem fcas (x1 : FormX) (x2 : Bool) (x3 : Bool) (x4 : BitVec 2) : Statement (.fcas x1 x2 x3 x4) := .inl ⟨rfl, rfl⟩
theorem fflush (x1 : FormX) : Statement (.fflush x1) := .inl ⟨rfl, rfl⟩
theorem fmcast (x1 : FormX) (x2 : Bool) (x3 : Bool) (x4 : Bool) (x5 : Bool) : Statement (.fmcast x1 x2 x3 x4 x5) := .inl ⟨rfl, rfl⟩
theorem fred (x1 : FormX) (x2 : Bool) (x3 : Bool) (x4 : FredOp) : Statement (.fred x1 x2 x3 x4) := .inl ⟨rfl, rfl⟩
theorem fwinOpen (x1 : FormX) : Statement (.fwinOpen x1) := .inl ⟨rfl, rfl⟩
theorem fwinRevoke (x1 : FormX) : Statement (.fwinRevoke x1) := .inl ⟨rfl, rfl⟩
theorem clauseStart (x1 x2 : Nat) : Statement (.clauseStart x1 x2) := .inr (.inl ⟨rfl, rfl⟩)
theorem spawnBinTimerExpiry (x1 x2 : Nat) : Statement (.spawnBinTimerExpiry x1 x2) := .inr (.inl ⟨rfl, rfl⟩)
theorem spawnedSquadDispatch (x1 : Nat) : Statement (.spawnedSquadDispatch x1) := .inr (.inl ⟨rfl, rfl⟩)
theorem squadRetirement (x1 : Nat) : Statement (.squadRetirement x1) := .inr (.inl ⟨rfl, rfl⟩)
theorem exitRecordWrite (x1 : Nat) : Statement (.exitRecordWrite x1) := .inr (.inl ⟨rfl, rfl⟩)
theorem musterRetirement (x1 x2 : Nat) : Statement (.musterRetirement x1 x2) := .inr (.inl ⟨rfl, rfl⟩)
theorem requestPerform (x1 : Nat) (x2 : Nat) (x3 : Bool) (x4 : Option (Nat × Nat)) : Statement (.requestPerform x1 x2 x3 x4) := .inr (.inl ⟨rfl, rfl⟩)
theorem escortLanding (x1 : Nat) : Statement (.escortLanding x1) := .inr (.inl ⟨rfl, rfl⟩)
theorem landingBufferMove (x1 x2 : Nat) : Statement (.landingBufferMove x1 x2) := .inr (.inl ⟨rfl, rfl⟩)
theorem eviction (x1 x2 : Nat) : Statement (.eviction x1 x2) := .inr (.inl ⟨rfl, rfl⟩)
theorem rehousing (x1 x2 : Nat) : Statement (.rehousing x1 x2) := .inr (.inl ⟨rfl, rfl⟩)
theorem pageFaultRecordAppend (x1 : Nat) : Statement (.pageFaultRecordAppend x1) := .inr (.inl ⟨rfl, rfl⟩)
theorem regionRestart (x1 : Nat) : Statement (.regionRestart x1) := .inr (.inl ⟨rfl, rfl⟩)
theorem barrierUpdate (x1 : Nat) : Statement (.barrierUpdate x1) := .inr (.inl ⟨rfl, rfl⟩)
theorem unsupportedAtomicService (x1 : Nat) : Statement (.unsupportedAtomicService x1) := .inr (.inl ⟨rfl, rfl⟩)
theorem externalWaitExpiry (x1 : Nat) : Statement (.externalWaitExpiry x1) := .inr (.inl ⟨rfl, rfl⟩)
theorem wextRetest (x1 : Nat) : Statement (.wextRetest x1) := .inr (.inl ⟨rfl, rfl⟩)
theorem quarryIssue (x1 x2 : Nat) : Statement (.quarryIssue x1 x2) := .inr (.inl ⟨rfl, rfl⟩)
theorem quarryStartTaken (x1 : Nat) : Statement (.quarryStartTaken x1) := .inr (.inl ⟨rfl, rfl⟩)
theorem quarryReadLanding (x1 : Nat) : Statement (.quarryReadLanding x1) := .inr (.inl ⟨rfl, rfl⟩)
theorem quarryStartCompletion (x1 x2 : Nat) : Statement (.quarryStartCompletion x1 x2) := .inr (.inl ⟨rfl, rfl⟩)
theorem hoistLineLanding (x1 : Nat) (x2 : Nat) : Statement (.hoistLineLanding x1 x2) := .inr (.inl ⟨rfl, rfl⟩)
theorem hoistCompletion (x1 : Nat) : Statement (.hoistCompletion x1) := .inr (.inl ⟨rfl, rfl⟩)
theorem hoistFault (x1 : Nat) : Statement (.hoistFault x1) := .inr (.inl ⟨rfl, rfl⟩)
theorem ringRoundStart (x1 x2 : Nat) : Statement (.ringRoundStart x1 x2) := .inr (.inl ⟨rfl, rfl⟩)
theorem ringRoundFailure (x1 x2 : Nat) : Statement (.ringRoundFailure x1 x2) := .inr (.inl ⟨rfl, rfl⟩)
theorem ownershipService (x1 x2 : Nat) : Statement (.ownershipService x1 x2) := .inr (.inl ⟨rfl, rfl⟩)
theorem drainCompletion (x1 : Nat) : Statement (.drainCompletion x1) := .inr (.inl ⟨rfl, rfl⟩)
theorem fabricRequestArrival (x1 : Packet) : Statement (.fabricRequestArrival x1) := .inr (.inl ⟨rfl, rfl⟩)
theorem fabricPlacement (x1 : Nat) : Statement (.fabricPlacement x1) := .inr (.inl ⟨rfl, rfl⟩)
theorem fabricForward (x1 : Packet) : Statement (.fabricForward x1) := .inr (.inl ⟨rfl, rfl⟩)
theorem fabricResponse (x1 : Nat) (x2 : BitVec 4) (x3 : List Byte) (x4 : Bool) : Statement (.fabricResponse x1 x2 x3 x4) := .inr (.inl ⟨rfl, rfl⟩)
theorem responseTimeout (x1 : Nat) : Statement (.responseTimeout x1) := .inr (.inl ⟨rfl, rfl⟩)
theorem packetInjection (x1 : Nat) : Statement (.packetInjection x1) := .inr (.inl ⟨rfl, rfl⟩)
theorem reductionCombine (x1 x2 : Nat) : Statement (.reductionCombine x1 x2) := .inr (.inl ⟨rfl, rfl⟩)
theorem writeCombiningAgeExpiry (x1 : Nat) (x2 : Nat) : Statement (.writeCombiningAgeExpiry x1 x2) := .inr (.inl ⟨rfl, rfl⟩)
theorem wavelengthPark (x1 : Nat) : Statement (.wavelengthPark x1) := .inr (.inl ⟨rfl, rfl⟩)
theorem wavelengthWake (x1 : Nat) : Statement (.wavelengthWake x1) := .inr (.inl ⟨rfl, rfl⟩)
theorem wavelengthWakeComplete (x1 : Nat) : Statement (.wavelengthWakeComplete x1) := .inr (.inl ⟨rfl, rfl⟩)
theorem commandAcceptance : Statement .commandAcceptance := .inr (.inl ⟨rfl, rfl⟩)
theorem commandStart (x1 : Nat) : Statement (.commandStart x1) := .inr (.inl ⟨rfl, rfl⟩)
theorem launch (x1 : Nat) : Statement (.launch x1) := .inr (.inl ⟨rfl, rfl⟩)
theorem codeLoad (x1 : Nat) : Statement (.codeLoad x1) := .inr (.inl ⟨rfl, rfl⟩)
theorem viewRegistration (x1 : Nat) : Statement (.viewRegistration x1) := .inr (.inl ⟨rfl, rfl⟩)
theorem groupConfiguration (x1 : Nat) : Statement (.groupConfiguration x1) := .inr (.inl ⟨rfl, rfl⟩)
theorem fabricTableInvalidation (x1 : Nat) : Statement (.fabricTableInvalidation x1) := .inr (.inl ⟨rfl, rfl⟩)
theorem tlbInvalidation (x1 : Nat) : Statement (.tlbInvalidation x1) := .inr (.inl ⟨rfl, rfl⟩)
theorem contextCreate (x1 : Nat) : Statement (.contextCreate x1) := .inr (.inl ⟨rfl, rfl⟩)
theorem contextTeardown (x1 : Nat) : Statement (.contextTeardown x1) := .inr (.inl ⟨rfl, rfl⟩)
theorem queueConfiguration (x1 : Nat) : Statement (.queueConfiguration x1) := .inr (.inl ⟨rfl, rfl⟩)
theorem pageFaultResolution (x1 : Nat) : Statement (.pageFaultResolution x1) := .inr (.inl ⟨rfl, rfl⟩)
theorem unitPlacement : Statement .unitPlacement := .inr (.inl ⟨rfl, rfl⟩)
theorem barrierInitWrite (x1 : Nat) : Statement (.barrierInitWrite x1) := .inr (.inl ⟨rfl, rfl⟩)
theorem clusterGateRequest (x1 : Nat) : Statement (.clusterGateRequest x1) := .inr (.inl ⟨rfl, rfl⟩)
theorem clusterGatingComplete (x1 : Nat) : Statement (.clusterGatingComplete x1) := .inr (.inl ⟨rfl, rfl⟩)
theorem clusterGatingAbandon (x1 : Nat) : Statement (.clusterGatingAbandon x1) := .inr (.inl ⟨rfl, rfl⟩)
theorem clusterWakeComplete (x1 : Nat) : Statement (.clusterWakeComplete x1) := .inr (.inl ⟨rfl, rfl⟩)
theorem watchdogReport (x1 : Nat) : Statement (.watchdogReport x1) := .inr (.inl ⟨rfl, rfl⟩)
theorem preemptionRequest (x1 : Nat) : Statement (.preemptionRequest x1) := .inr (.inl ⟨rfl, rfl⟩)
theorem squadSave (x1 : Nat) : Statement (.squadSave x1) := .inr (.inl ⟨rfl, rfl⟩)
theorem savedReply (x1 : Nat) : Statement (.savedReply x1) := .inr (.inl ⟨rfl, rfl⟩)
theorem musterCoreSave (x1 : Nat) : Statement (.musterCoreSave x1) := .inr (.inl ⟨rfl, rfl⟩)
theorem coreSetRestore (x1 : Nat) : Statement (.coreSetRestore x1) := .inr (.inl ⟨rfl, rfl⟩)
theorem benchCloseSpill (x1 x2 : Nat) : Statement (.benchCloseSpill x1 x2) := .inr (.inl ⟨rfl, rfl⟩)
theorem migration (x1 x2 x3 x4 : Nat) : Statement (.migration x1 x2 x3 x4) := .inr (.inl ⟨rfl, rfl⟩)
theorem migrationAbandon : Statement .migrationAbandon := .inr (.inl ⟨rfl, rfl⟩)
theorem tierCountHalving : Statement .tierCountHalving := .inr (.inl ⟨rfl, rfl⟩)
theorem tierSwap (x1 : Nat) (x2 : Nat) : Statement (.tierSwap x1 x2) := .inr (.inl ⟨rfl, rfl⟩)
theorem refreshTick (x1 : Nat) : Statement (.refreshTick x1) := .inr (.inl ⟨rfl, rfl⟩)
theorem refreshPullIn (x1 : Nat) : Statement (.refreshPullIn x1) := .inr (.inl ⟨rfl, rfl⟩)
theorem clockWindowEnd (x1 : Nat) (x2 x3 : Nat) : Statement (.clockWindowEnd x1 x2 x3) := .inr (.inl ⟨rfl, rfl⟩)
theorem fillerInjection (x1 x2 : Nat) : Statement (.fillerInjection x1 x2) := .inr (.inl ⟨rfl, rfl⟩)
theorem errorCounted (x1 : ErrPlace) (x2 : Bool) (x3 : DWord) (x4 : Nat) : Statement (.errorCounted x1 x2 x3 x4) := .inr (.inl ⟨rfl, rfl⟩)
theorem errorWindowEnd (x1 : ErrPlace) : Statement (.errorWindowEnd x1) := .inr (.inl ⟨rfl, rfl⟩)
theorem rowCopyComplete (x1 : BitVec 40) : Statement (.rowCopyComplete x1) := .inr (.inl ⟨rfl, rfl⟩)
theorem reset : Statement .reset := .inr (.inl ⟨rfl, rfl⟩)
theorem bootGo (x1 : BitVec 512) : Statement (.bootGo x1) := .inr (.inl ⟨rfl, rfl⟩)
theorem verifyComplete : Statement .verifyComplete := .inr (.inl ⟨rfl, rfl⟩)
theorem recoveryRequest : Statement .recoveryRequest := .inr (.inl ⟨rfl, rfl⟩)
theorem fatalError : Statement .fatalError := .inr (.inl ⟨rfl, rfl⟩)
theorem hostAccess (x1 : HostOp) : Statement (.hostAccess x1) := .inr (.inl ⟨rfl, rfl⟩)
theorem hostRegisterWrite (x1 : HostReg) (x2 : DWord) : Statement (.hostRegisterWrite x1 x2) := .inr (.inl ⟨rfl, rfl⟩)
theorem getVersion : Statement .getVersion := .inr (.inl ⟨rfl, rfl⟩)
theorem getCapabilities : Statement .getCapabilities := .inr (.inl ⟨rfl, rfl⟩)
theorem negotiateAlgorithms (x1 x2 : Nat) : Statement (.negotiateAlgorithms x1 x2) := .inr (.inl ⟨rfl, rfl⟩)
theorem getDigests : Statement .getDigests := .inr (.inl ⟨rfl, rfl⟩)
theorem getCertificate (x1 x2 x3 : Nat) : Statement (.getCertificate x1 x2 x3) := .inr (.inl ⟨rfl, rfl⟩)
theorem challenge (x1 : Nat) (x2 : List Byte) (x3 : Nat) (x4 : Option Nat) : Statement (.challenge x1 x2 x3 x4) := .inr (.inl ⟨rfl, rfl⟩)
theorem getMeasurements (x1 : Bool) (x2 : Nat) (x3 : List Byte) (x4 : Option Nat) : Statement (.getMeasurements x1 x2 x3 x4) := .inr (.inl ⟨rfl, rfl⟩)
theorem keyExchange (x1 : Nat) (x2 : Nat) (x3 : List Byte) : Statement (.keyExchange x1 x2 x3) := .inr (.inl ⟨rfl, rfl⟩)
theorem finish (x1 : Nat) (x2 : List Byte) : Statement (.finish x1 x2) := .inr (.inl ⟨rfl, rfl⟩)
theorem endSession (x1 : Nat) : Statement (.endSession x1) := .inr (.inl ⟨rfl, rfl⟩)
theorem vendorDefinedRequest (x1 : Option Nat) (x2 : Nat) (x3 : List Byte) : Statement (.vendorDefinedRequest x1 x2 x3) := .inr (.inl ⟨rfl, rfl⟩)
theorem illegalInstruction (x1 : DWord) : Statement (.illegalInstruction x1) := .inr (.inr ⟨x1, rfl⟩)
theorem ringTileLanding (x1 : Nat) (x2 : Nat) : Statement (.ringTileLanding x1 x2) := .inr (.inl ⟨rfl, rfl⟩)
theorem packageLimiter (x1 : Nat) (x2 : Nat) : Statement (.packageLimiter x1 x2) := .inr (.inl ⟨rfl, rfl⟩)

end Sys2Proof.Laws.Row
end

