-- ==== Sys2Proof/Laws/Regs.lean ====
section
/-! SUPPORT. Reading registers and flags after writing them, lane by lane, and what the end of an instruction leaves of a squad. -/

namespace Sys2Proof.Machine

/-! ### One register, one lane -/

theorem Exe.reg_setReg (e : Exe) {n l v n' l' : Nat} (hl : l < 32) (hl' : l' < 32) :
    (e.setReg n l v).reg n' l' = if n' = n ∧ l' = l then BitVec.ofNat 32 v else e.reg n' l' := by
  unfold Exe.reg
  rw [Exe.setReg_regs, Sparse.get_set]
  by_cases h : n' = n ∧ l' = l
  · simp [h]
  · rw [if_neg h, if_neg (by omega)]

/-- Writing a destination leaves everything but the registers. -/
theorem Exe.put_eq (e : Exe) (w : Bool) (code : Code) (l v : Nat) : e.put w code l v = { e with regs := (e.put w code l v).regs } := by
  unfold Exe.put; dsimp only; split
  · split <;> rfl
  · rfl

/-- What a register holds after a destination is written. -/
theorem Exe.reg_put (e : Exe) {w : Bool} {code : Code} {l v n l' : Nat} (hl : l < 32) (hl' : l' < 32) :
    (e.put w code l v).reg n l' =
      if l' = l ∧ n ∈ codeRegs w code then (if n = code.toNat then BitVec.ofNat 32 v else BitVec.ofNat 32 (v / 2 ^ 32)) else e.reg n l' := by
  unfold Exe.put codeRegs
  dsimp only
  by_cases hc : code.toNat < 0xF0
  · cases w
    · simp only [hc, ↓reduceIte, Bool.false_eq_true, Exe.reg_setReg e hl hl', List.mem_singleton]
      by_cases h : n = code.toNat <;> simp [h]
    · simp only [hc, ↓reduceIte, Exe.reg_setReg _ hl hl', List.mem_cons, List.not_mem_nil, or_false]
      by_cases h1 : n = code.toNat + 1
      · by_cases h2 : l' = l <;> simp [h1, h2]
      · by_cases h : n = code.toNat <;> by_cases h2 : l' = l <;> simp [h, h1, h2]
  · simp [hc]

/-! ### Lanes of a mask -/

theorem foldl_put_eq (w : Bool) (code : Code) (v : Nat → Nat) (ls : List Nat) (e : Exe) :
    ls.foldl (fun e' l => e'.put w code l (v l)) e = { e with regs := (ls.foldl (fun e' l => e'.put w code l (v l)) e).regs } := by
  induction ls generalizing e with
  | nil => rfl
  | cons l ls ih =>
    rw [List.foldl_cons, ih]
    conv => rhs; rw [ih]
    rw [Exe.put_eq]

theorem foldl_put_reg (w : Bool) (code : Code) (v : Nat → Nat) (ls : List Nat) (e : Exe) (hls : ∀ l ∈ ls, l < 32) {n l' : Nat} (hl' : l' < 32) :
    (ls.foldl (fun e' l => e'.put w code l (v l)) e).reg n l' =
      if l' ∈ ls ∧ n ∈ codeRegs w code then (if n = code.toNat then BitVec.ofNat 32 (v l') else BitVec.ofNat 32 (v l' / 2 ^ 32)) else e.reg n l' := by
  induction ls generalizing e with
  | nil => simp
  | cons l ls ih =>
    rw [List.foldl_cons, ih _ (fun x hx => hls x (by simp [hx])), Exe.reg_put e (hls l (by simp)) hl']
    by_cases h1 : l' ∈ ls
    · by_cases h2 : n ∈ codeRegs w code <;> simp [h1, h2]
    · by_cases h3 : l' = l
      · subst h3; simp [h1]
      · simp [h1, h3]

/-- Writing a value in each lane of a mask changes the registers alone. -/
theorem Exe.each_put_eq (e : Exe) (m : LaneMask) (w : Bool) (code : Code) (v : Nat → Nat) :
    e.each m (fun e' l => e'.put w code l (v l)) = { e with regs := (e.each m fun e' l => e'.put w code l (v l)).regs } := foldl_put_eq w code v _ e

/-- What a register holds after a value is written in each lane of a mask. -/
theorem Exe.each_put_reg (e : Exe) (m : LaneMask) (w : Bool) (code : Code) (v : Nat → Nat) {n l : Nat} (hl : l < 32) :
    (e.each m fun e' l => e'.put w code l (v l)).reg n l =
      if m.getLsbD l ∧ n ∈ codeRegs w code then (if n = code.toNat then BitVec.ofNat 32 (v l) else BitVec.ofNat 32 (v l / 2 ^ 32)) else e.reg n l := by
  unfold Exe.each
  rw [foldl_put_reg w code v _ e (fun l h => (mem_lanesOf.mp h).1) hl]
  simp [mem_lanesOf, hl]

/-- The lanes that take part. -/
theorem Exe.getLsbD_acting (e : Exe) (g : Guard) (l : Nat) : (e.acting g).getLsbD l = e.takesPart g l := by
  unfold Exe.acting Exe.takesPart
  rw [getLsbD_maskOf, Bool.and_assoc]

/-! ### Flags -/

/-- Capture into the latch changes the latch alone. -/
theorem Exe.capture_eq (e0 e : Exe) (f : FormR) (u : RUse) :
    e0.capture f u e = { e with latch := (e0.capture f u e).latch, latchAt := (e0.capture f u e).latchAt } := by
  unfold Exe.capture
  split
  · rfl
  · split <;> rfl

@[simp] theorem Exe.capture_reg (e0 e : Exe) (f : FormR) (u : RUse) (n l : Nat) : (e0.capture f u e).reg n l = e.reg n l := by
  rw [Exe.capture_eq]; rfl

/-- What a flag reads after one flag of one lane is written; f7 reads true always. -/
theorem Exe.flag_setFlag (e : Exe) {k l k' l' : Nat} {v : Bool} (hl : l < 32) (hk : e.flags.length = 7) :
    (e.setFlag k l v).flag k' l' = if k' = k ∧ l' = l ∧ k' < 7 then v else e.flag k' l' := by
  unfold Exe.setFlag Exe.flag modAt
  by_cases h7 : 7 ≤ k'
  · simp [h7, Nat.not_lt.mpr h7]
  · have hk' : k' < e.flags.length := by omega
    simp only [h7, ↓reduceIte, List.getD_eq_getElem?_getD, List.getElem?_modify, List.getElem?_eq_getElem hk', Option.map_eq_map, Option.map_some]
    by_cases hkk : k = k'
    · subst hkk
      simp only [↓reduceIte, Option.getD_some, true_and, getLsbD_setLane _ _ _ _ hl]
      by_cases h : l' = l <;> simp [h, Nat.lt_of_not_le h7]
    · simp [hkk, Ne.symm hkk]

/-! ### The end of an instruction -/

theorem Squad.endClause_keeps (q : Squad) : q.keeps q.endClause := by
  unfold Squad.keeps Squad.endClause
  dsimp only
  split
  · split <;> rfl
  · rfl

theorem Squad.advance_keeps (q : Squad) : q.keeps q.advance := by
  unfold Squad.advance
  dsimp only
  split
  · have h := Squad.endClause_keeps { q with exe := { q.exe with pos := q.exe.pos + 1 }, stall := none }
    unfold Squad.keeps at h ⊢
    exact h.trans rfl
  · rfl

/-- Registers, flags and latch outlive the end of an instruction. -/
theorem Squad.advance_exe (q : Squad) :
    q.advance.exe = { q.exe with pos := q.advance.exe.pos, active := q.advance.exe.active, inClause := q.advance.exe.inClause } := by
  unfold Squad.advance
  dsimp only
  split
  · unfold Squad.endClause
    dsimp only
    split
    · split <;> rfl
    · rfl
  · rfl

theorem Chip.advance_besides (d c : Chip) (u : Nat) :
    { d.advance u with squads := c.squads, turn := c.turn } = { d with squads := c.squads, turn := c.turn } := rfl

theorem Chip.setSquad_besides (c : Chip) (p : Squad) : { c.setSquad p with squads := c.squads, turn := c.turn } = c := rfl

theorem Chip.byteAt_advance (c : Chip) (u : Nat) (l : Loc) : (c.advance u).byteAt l = c.byteAt l := by cases l <;> rfl

theorem Chip.byteAt_setSquad (c : Chip) (p : Squad) (l : Loc) : (c.setSquad p).byteAt l = c.byteAt l := by cases l <;> rfl

/-- An instruction whose effect is a new value of its squad changes nothing else of the machine. -/
theorem State.onlySquad_after (s : State) {q p : Squad} (hp : p.uid = q.uid) : s.onlySquad (s.after q.uid (s.chip.setSquad p)) q.uid := by
  refine ⟨rfl, rfl, (Chip.advance_besides _ _ _).trans (Chip.setSquad_besides _ _), fun u hu => ?_,
    fun l => (Chip.byteAt_advance _ _ l).trans (Chip.byteAt_setSquad _ _ l)⟩
  have h1 : ((s.chip.setSquad p).advance q.uid).squad? u = ((s.chip.setSquad p).modSquad q.uid Squad.advance).squad? u := rfl
  show ((s.chip.setSquad p).advance q.uid).squad? u = _
  rw [h1, Chip.squad?_modSquad_ne (fun x hx => by simpa using hx) hu, Chip.setSquad, hp, Chip.squad?_modSquad_ne (fun _ _ => hp) hu]

/-- The squad after its instruction. -/
theorem State.squad?_after {s : State} {q p : Squad} (hq : s.chip.squad? q.uid = some q) (hp : p.uid = q.uid) :
    (s.after q.uid (s.chip.setSquad p)).chip.squad? q.uid = some p.advance := by
  have h1 : ((s.chip.setSquad p).advance q.uid).squad? q.uid = ((s.chip.setSquad p).modSquad q.uid Squad.advance).squad? q.uid := rfl
  show ((s.chip.setSquad p).advance q.uid).squad? q.uid = _
  rw [h1, Chip.squad?_modSquad_self (fun x hx => by simpa using hx), Chip.setSquad, hp, Chip.squad?_modSquad_self (fun _ _ => hp), hq]
  rfl

end Sys2Proof.Machine
end

