-- ==== Sys2Proof/Laws/Shared.lean ====
section
/-! SUPPORT. What the shared operations do, once each: taking a trap, committing a region, reports in device memory, the commands' ends,
L1, barrier counts and ports. -/

namespace Sys2Proof.Machine

/-! ### Traps (R153, R351) -/

/-- A trap with a handler, outside handler mode, is one update of the squad, and nobody is in turn. -/
theorem Chip.takeTrap_handled {c : Chip} {uid : Nat} {q : Squad} {x : Ctx} (hq : c.squad? uid = some q) (hx : c.ctx? q.exe.ctx = some x)
    (hm : q.trap.hmode = false) (hv : x.trapvec ≠ 0) (t : Trap) (atStart : Bool) (addr : Option Nat) :
    c.takeTrap uid t atStart addr =
      { (c.setSquad (q.takeTrap x.trapvec t atStart (addr.getD (if atStart then q.exe.hdrAt else q.exe.wordAt)))) with turn := none } := by
  unfold Chip.takeTrap
  simp [hq, hx, hm, hv]

/-- A trap in handler mode, or without a handler, is a double trap. -/
theorem Chip.takeTrap_double {c : Chip} {uid : Nat} {q : Squad} {x : Ctx} (hq : c.squad? uid = some q) (hx : c.ctx? q.exe.ctx = some x)
    (h : q.trap.hmode = true ∨ x.trapvec = 0) (t : Trap) (atStart : Bool) (addr : Option Nat) :
    c.takeTrap uid t atStart addr = c.doubleTrap q t (addr.getD (if atStart then q.exe.hdrAt else q.exe.wordAt)) := by
  unfold Chip.takeTrap
  simp [hq, hx, h]

/-- A trap of no squad does nothing. -/
theorem Chip.takeTrap_none {c : Chip} {uid : Nat} (h : c.squad? uid = none) (t : Trap) (atStart : Bool) (addr : Option Nat) :
    c.takeTrap uid t atStart addr = c := by
  unfold Chip.takeTrap
  simp [h]

/-- A squad that has taken a trap keeps its name, place, registers, flags and uniform registers. -/
theorem Squad.takeTrap_frame (q : Squad) (vec : Nat) (t : Trap) (atStart : Bool) (addr : Nat) :
    (q.takeTrap vec t atStart addr).uid = q.uid ∧ (q.takeTrap vec t atStart addr).place = q.place ∧
      (q.takeTrap vec t atStart addr).exe = { q.exe with active := 0, inClause := false } ∧
      (q.takeTrap vec t atStart addr).burgees = q.burgees ∧ (q.takeTrap vec t atStart addr).pennants = q.pennants ∧
      (q.takeTrap vec t atStart addr).handles = q.handles ∧ (q.takeTrap vec t atStart addr).region = q.region := by
  unfold Squad.takeTrap Squad.saveLatch
  simp only
  split <;> (split <;> exact ⟨rfl, rfl, rfl, rfl, rfl, rfl, rfl⟩)

/-! ### Regions (R56) -/

/-- Without an open region there is nothing to commit. -/
theorem Chip.commitRegion_none {c : Chip} {uid : Nat} {q : Squad} (hq : c.squad? uid = some q) (hr : q.region = none) : c.commitRegion uid = c := by
  unfold Chip.commitRegion
  simp [hq, hr]

/-- The end of an open region closes it and issues its stores, oldest first, as requests under the next names (R56). -/
theorem Chip.commitRegion_some {c : Chip} {uid : Nat} {q : Squad} {r : Region} (hq : c.squad? uid = some q) (hr : q.region = some r) :
    (c.commitRegion uid).requests = c.requests ++ r.buf.mapIdx (fun i b => c.commitReq q (c.nextId + i) b) ∧
      (c.commitRegion uid).squads = (c.setSquad { q with region := none }).squads ∧ (c.commitRegion uid).nextId = c.nextId + r.buf.length ∧
      (c.commitRegion uid).dev = c.dev ∧ (c.commitRegion uid).cores = c.cores := by
  unfold Chip.commitRegion
  simp [hq, hr]

/-- A store of a region that has ended is a store of its squad, marked as such, with one access for each lane of the buffered store (R56, R173). -/
theorem Chip.commitReq_accs (c : Chip) (q : Squad) (id : Nat) (b : BufStore) :
    (c.commitReq q id b).agent = .squad q.uid ∧ (c.commitReq q id b).kind = .store ∧ (c.commitReq q id b).commit = true ∧
      (c.commitReq q id b).accs.map (fun a => (a.lane, a.va, a.locs.zip a.data)) = b.lanes.map fun x => (x.1, x.2.1, x.2.2) := by
  refine ⟨rfl, rfl, rfl, ?_⟩
  simp only [Chip.commitReq, List.map_map]
  refine List.map_congr_left fun x _ => ?_
  simp [List.zip_map']

/-- An instruction that ends the region first goes on exactly when nothing of a region is still to be performed (R56, R175). -/
theorem Chip.endRegion_free {c : Chip} {q : Squad} (h : c.regionHeld q = false) (fn : Chip → Res) : c.endRegion q fn = fn (c.commitRegion q.uid) := by
  simp [Chip.endRegion, h]

/-- Otherwise it stalls, and the stores of a region that is still open are on their way. -/
theorem Chip.endRegion_held {c : Chip} {q : Squad} (h : c.regionHeld q = true) (fn : Chip → Res) : c.endRegion q fn = .stall (c.commitRegion q.uid) := by
  simp [Chip.endRegion, h]

/-- An arrival under way counts as an earlier access of each lane that took part in it (R49, R195). -/
theorem Chip.earlier_of_arriving {c : Chip} {a : Agent} {below : Nat} {m : LaneMask} (h : c.arriving a below m = true) : c.earlier a below m = true := by
  simp [Chip.earlier, h]

/-! ### Reports in device memory (R325) -/

/-- Writing a record changes device memory alone. -/
theorem Chip.queueWrite_besides (c : Chip) (base k rec : Nat) : { c.queueWrite base k rec with dev := c.dev } = c := rfl

/-- A report to a context's error queue changes device memory alone. -/
theorem Chip.errAppend_besides (c : Chip) (ctx rec : Nat) : { c.errAppend ctx rec with dev := c.dev } = c := by
  unfold Chip.errAppend
  split
  · rfl
  · split <;> rfl

@[simp] theorem Chip.errAppend_squads (c : Chip) (ctx rec : Nat) : (c.errAppend ctx rec).squads = c.squads := by
  unfold Chip.errAppend
  split
  · rfl
  · split <;> rfl

theorem Chip.memWf_errAppend {c : Chip} (h : c.memWf) (ctx rec : Nat) : (c.errAppend ctx rec).memWf := by
  unfold Chip.errAppend
  split
  · exact h
  · split
    · exact memWf_devPut (memWf_devPut h _ _ _) _ _ _
    · exact memWf_devPut h _ _ _

/-! ### Commands (R339, R340) -/

/-- The end of a command that is not held changes nothing. -/
theorem Chip.endCmd_none {c : Chip} {id : Nat} (h : (c.cmds.find? fun k => k.id == id) = none) (cause detail : Nat) : c.endCmd id cause detail = c := by
  unfold Chip.endCmd
  simp [h]

/-- The end of a command writes its journal entry, forgets it, and completes its number. -/
theorem Chip.endCmd_some {c : Chip} {id : Nat} {k : Cmd} (h : (c.cmds.find? fun k => k.id == id) = some k) (cause detail : Nat) :
    c.endCmd id cause detail = { c.journalWrite k (if cause = 0 then 2 else 3) cause detail with
      cmds := c.cmds.filter fun j => j.id != id
      timelines := if k.sigOk then modAt c.timelines k.sigTl fun t => t.finish k.number cause else c.timelines } := by
  unfold Chip.endCmd
  simp only [h]
  exact rfl

theorem Chip.memWf_endCmd {c : Chip} (h : c.memWf) (id cause detail : Nat) : (c.endCmd id cause detail).memWf := by
  unfold Chip.endCmd
  split
  · exact h
  · exact memWf_devPut h _ _ _

/-- Everything but device memory, commands and timelines is as before. -/
theorem Chip.endCmd_besides (c : Chip) (id cause detail : Nat) :
    { c.endCmd id cause detail with dev := c.dev, cmds := c.cmds, timelines := c.timelines } = c := by
  unfold Chip.endCmd
  split <;> rfl

/-! ### L1 beside the home (R48, R52) -/

/-- Bringing L1 in line changes no byte of a home. -/
@[simp] theorem Chip.byteAt_l1Sync (c : Chip) (n ctx va : Nat) (ls : List Loc) (l : Loc) : (c.l1Sync n ctx va ls).byteAt l = c.byteAt l := by
  unfold Chip.l1Sync
  dsimp only
  split
  · rfl
  · cases l with
    | dev pa => rfl
    | host pa => rfl
    | scr m off =>
      by_cases hm : n = m
      · subst hm
        by_cases hn : n < c.cores.length
        · simp only [Chip.byteAt]; rw [core_modCore_self hn]; rfl
        · simp only [Chip.byteAt]; rw [core_modCore_out c _ (by omega)]
      · simp only [Chip.byteAt]; rw [core_modCore_ne c _ hm]

/-- Bringing L1 in line changes the cores alone. -/
theorem Chip.l1Sync_besides (c : Chip) (n ctx va : Nat) (ls : List Loc) : { c.l1Sync n ctx va ls with cores := c.cores } = c := by
  unfold Chip.l1Sync
  dsimp only
  split <;> rfl

/-- A kept line keeps its address, its context and the bytes whose homes were not written. -/
theorem Core.l1Store_other {k : Core} {x : L1Line} (hx : x ∈ k.l1) {pas : List Nat} (h : x.pas.any pas.contains = false) (ctx va : Nat)
    (rd : Nat → Byte) : x.take pas rd ∈ (k.l1Store ctx va pas rd).l1 := by
  unfold Core.l1Store
  exact List.mem_map.2 ⟨x, List.mem_filter.2 ⟨hx, by simp only [h]; simp⟩, rfl⟩

/-! ### Barrier objects (R50) -/

/-- A byte countdown or a signal is an update of the object that is also on record. -/
theorem Chip.countObj_besides (c : Chip) (ls : List Loc) (arrive : Bool) (add : Int) :
    { c.countObj ls arrive add with counted := c.counted } = { c.updateObj ls arrive add with counted := c.counted } := rfl

/-- Where there is no object there is nothing to count. -/
@[simp] theorem Chip.countDown_nil (c : Chip) (n : Nat) : c.countDown [] n = c := rfl

/-! ### Ports (R305, R310) -/

/-- A packet that is transmitted is the newest of those sent, on its port. -/
theorem Chip.transmit_sent (c : Chip) (p : Packet) (port : Nat) : (c.transmit p port).fab.sent = { p with port } :: c.fab.sent := rfl

/-- Transmitting changes the fabric's sent packets and the port's queue alone. -/
theorem Chip.transmit_besides (c : Chip) (p : Packet) (port : Nat) :
    { c.transmit p port with fab := { (c.transmit p port).fab with sent := c.fab.sent, ports := c.fab.ports } } = c := rfl

end Sys2Proof.Machine
end

