-- ==== Sys2Proof/Tests/Slice0.lean ====
section
/-! SUPPORT. Tests of this model: words decoded as the encoding tables give them, ill-formed terms refused, worked values of the
spec, and for every statement states and operands that meet its hypotheses. -/

open Sys2Proof Sys2Proof.Machine

namespace Sys2Proof.Tests

set_option Elab.async false

/-! ### Words (R83, R84 and the encoding tables) -/

/-- Operand fields, all different, with guard 1 f2: format R with Dst 0x14, A 0x25, B 0x36, C 0x47, Hold 10, slot 1; and so on. -/
def r : FormR := ⟨⟨true, 2⟩, 0x14, 0x25, 0x36, 0x47, 2, 1⟩
def m : FormM := ⟨⟨true, 2⟩, 0x14, 0x25, 0x36, 0x0B, 0x405, true, 3, 2⟩
def t : FormT := ⟨⟨true, 2⟩, 0x14, 0x25, 0x36, 0x0B, 0x85, 5, true, 3, 2⟩
def b : FormB := ⟨⟨true, 2⟩, 0x14, 0x8000005, 9⟩
def x : FormX := ⟨⟨true, 2⟩, 0x14, 0x25, 0x36, 0x47, 0x29, true⟩

/-- Whether each word decodes to the instruction beside it. -/
def decodes (xs : List (DWord × Instr)) : Bool := xs.all fun p => (decode p.1).toOption == some p.2

/-- Whether each word is refused. -/
def refuses (xs : List DWord) : Bool := xs.all fun w => (decode w).toOption == none

/-- The encodings that the spec works out: R102, R118, R138, R184, R213, R233, R248, R275, R313. -/
theorem test_decode_worked : decodes
    [(0x000E080A0DE68800, .iadd ⟨⟨false, 7⟩, 4, 5, 6, 0xF3, 1, 0⟩ .s32 false), (0x200E15E60002468A, .movi ⟨⟨false, 7⟩, 10, 0xF3, 0x12345⟩ false),
      (0x40CE1416181A0100, .ffma ⟨⟨false, 7⟩, 10, 11, 12, 13, 0, 0⟩ .rz), (0x600E282A2C2E1800, .shfl ⟨⟨false, 7⟩, 20, 21, 22, 23, 0, 0⟩ false .idx),
      (0x7005E60000019E00, .bra ⟨⟨false, 2⟩, 0xF3, 12, 15⟩), (0x72CFE60000000600, .bwait ⟨⟨false, 7⟩, 0xF3, 0, 3⟩),
      (0x81CE040008060004, .ld ⟨⟨false, 7⟩, 2, 0, 4, 3, 0, false, 1, 0⟩ .z64), (0x81EE0400080600C4, .ldTry ⟨⟨false, 7⟩, 2, 0, 4, 3, 0, 3, false, 1, 0⟩ .z64),
      (0xC00E080000001E00, .alp ⟨⟨false, 7⟩, 4, 0, 15⟩), (0xC0CE1401E7E60004, .aload ⟨⟨false, 7⟩, 10, 0, 0xF3, 0xF3, 0, false⟩ false .line),
      (0xC40E080003E60000, .qpop ⟨⟨false, 7⟩, 4, 0, 1, 0xF3, 0, false⟩), (0xC46E140419E61800, .qpushStart ⟨⟨false, 7⟩, 10, 2, 12, 0xF3, 3, false⟩ 0),
      (0xD00E15E7E7E61800, .hoist ⟨⟨false, 7⟩, 10, 0xF3, 0xF3, 0xF3, 3, false⟩), (0xD04E1417E7E62801, .rrot ⟨⟨false, 7⟩, 10, 11, 0xF3, 0xF3, 5, false⟩ 1),
      (0xA00E004081E60080, .mma ⟨⟨false, 7⟩, 0, 32, 64, 0xF3, 0, false⟩ ⟨false, false, true, 0⟩),
      (0xA20FE7E7E7E60000, .acqb ⟨⟨false, 7⟩, 0xF3, 0xF3, 0xF3, 0xF3, 0, false⟩ 0), (0xB04E0C0FE7E60000, .jins ⟨⟨false, 7⟩, 6, 7, 0xF3, 0xF3, 0, false⟩ .f32),
      (0xB0CE1C1803E60000, .jdrain ⟨⟨false, 7⟩, 14, 12, 1, 0xF3, 0, false⟩), (0xD8CE0C04080A0000, .fcas ⟨⟨false, 7⟩, 6, 2, 4, 5, 0, false⟩ false false 0),
      (0xD84E14181C202180, .fput ⟨⟨false, 7⟩, 10, 12, 14, 16, 4, false⟩ false true true false)] = true := by decide +kernel

/-- Words of the integer rows (R102), packed by hand from their encoding tables. -/
theorem test_decode_integer : decodes
    [(0x0014284A6C8F2200, .iadd r .s8 true), (0x0054284A6C8F2C00, .isub r .s64 false),
      (0x0094284A6C8F3600, .imul r .z16 true), (0x0114284A6C8F3E00, .imad r .z64 true),
      (0x01D4284A6C8F2A00, .iabs r .s32 true), (0x0214284A6C8F2800, .ineg r .s32 false),
      (0x00D4284A6C8F2C00, .imulh r .s64), (0x0154284A6C8F2000, .imin r .s8),
      (0x0194284A6C8F3400, .imax r .z16), (0x0414284A6C8F3800, .and r .z32),
      (0x0454284A6C8F2800, .or r .s32), (0x0494284A6C8F3C00, .xor r .z64),
      (0x04D4284A6C8F3800, .andn r .z32), (0x0514284A6C8F2C00, .not r .s64),
      (0x0C14284A6C8F2000, .popc r .s8), (0x0C54284A6C8F3400, .clz r .z16),
      (0x0C94284A6C8F2800, .brev r .s32), (0x0CD4284A6C8F2C00, .bfx r .s64),
      (0x0D14284A6C8F3C00, .bfi r .z64), (0x1454284A6C8F3800, .movx r .z32),
      (0x1494284A6C8F3C00, .movxw r .z64), (0x0814284A6C8F3921, .shl r .z32 true 33),
      (0x0854284A6C8F2D3F, .shr r .s64 true 63), (0x0894284A6C8F2805, .sar r .s32 false 5),
      (0x08D4284A6C8F3D00, .rot r .z64 true 0), (0x0914284A6C8F3801, .shf r true),
      (0x0D54284A6C8F3800, .perm r), (0x1014284A6C8F2015, .icmp r .s8 .or .ge),
      (0x1054284A6C8F380E, .sel r .z32 true 6), (0x1414284A6C8F3C02, .mov r .z64 true false),
      (0x1414284A6C8F2801, .mov r .s32 false true), (0x14D4284A6C8F2805, .lea r .s32 5)] = true := by decide +kernel

/-- Words of the immediate rows (R102), packed by hand from their encoding tables. -/
theorem test_decode_immediate : decodes
    [(0x2014284B00014B86, .movi ⟨⟨true, 2⟩, 0x14, 0x25, 0x8000A5C3⟩ false), (0x2074284B00014B86, .iaddImm ⟨⟨true, 2⟩, 0x14, 0x25, 0x8000A5C3⟩ true),
      (0x2094284B00014B86, .imulImm ⟨⟨true, 2⟩, 0x14, 0x25, 0x8000A5C3⟩ false), (0x20F4284B00014B86, .andImm ⟨⟨true, 2⟩, 0x14, 0x25, 0x8000A5C3⟩ true),
      (0x2114284B00014B86, .orImm ⟨⟨true, 2⟩, 0x14, 0x25, 0x8000A5C3⟩ false), (0x2174284B00014B86, .xorImm ⟨⟨true, 2⟩, 0x14, 0x25, 0x8000A5C3⟩ true)] = true := by decide +kernel

/-- Words of the float rows (R118), packed by hand from their encoding tables. -/
theorem test_decode_float : decodes
    [(0x4014284A6C8F2100, .fadd r .rz), (0x4054284A6C8F2200, .fsub r .rm),
      (0x4094284A6C8F2300, .fmul r .rp), (0x40D4284A6C8F2000, .ffma r .rn),
      (0x4414284A6C8F2100, .frcp r .rz), (0x4454284A6C8F2200, .frsq r .rm),
      (0x4494284A6C8F2300, .fsqrt r .rp), (0x4854284A6C8F2100, .frnd r .rz),
      (0x4114284A6C8F2000, .fmin r), (0x4154284A6C8F2000, .fmax r),
      (0x44D4284A6C8F2000, .fex2 r), (0x4514284A6C8F2000, .flg2 r),
      (0x4554284A6C8F2000, .fsin r), (0x4594284A6C8F2000, .fcos r),
      (0x4194284A6C8F200F, .fcmp r .and .nan), (0x4814284A6C8F2D83, .fcvt r .e4m3 .rz .e5m2 3),
      (0x4894284A6C8F2955, .fcls r .bf16 0x155), (0x48D4284A6C8F3621, .f2i r .z16 .rm .f16 1),
      (0x4914284A6C8F2760, .i2f r .f16 .rp .s64), (0x4C14284A6C8F2500, .hadd2 r .f16 .rz),
      (0x4C54284A6C8F2900, .hmul2 r .bf16 .rz), (0x4C94284A6C8F2500, .hfma2 r .f16 .rz)] = true := by decide +kernel

/-- Words of the cross-lane rows (R118), packed by hand from their encoding tables. -/
theorem test_decode_cross : decodes
    [(0x6014284A6C8F3C04, .shfl r true .bcast), (0x6014284A6C8F3801, .shfl r false .up),
      (0x6054284A6C8F202D, .vote r .bal true 5), (0x6094284A6C8F2C01, .lred r .s64 .min),
      (0x6094284A6C8F3806, .lred r .z32 .fadd), (0x60D4284A6C8F3C00, .matchLanes r true),
      (0x6114284A6C8F2001, .flg r true)] = true := by decide +kernel

/-- Words of the control rows (R138), packed by hand from their encoding tables. -/
theorem test_decode_control : decodes
    [(0x701429000000B200, .bra b), (0x705429000000B200, .brx b),
      (0x70D429000000B200, .ret b), (0x711429000000B200, .exit b),
      (0x715429000000B200, .yield b), (0x719429000000B200, .nop b),
      (0x725429000000B200, .bjoin b), (0x729429000000B200, .bleave b),
      (0x72D429000000B200, .bwait b), (0x731429000000B200, .bset b),
      (0x735429000000B200, .bget b), (0x709429000000B201, .call b true),
      (0x71D429000000B201, .region b true), (0x739429000000B202, .esign b 2),
      (0x73D429000000B203, .eclr b 3), (0x7214284A6C8F4C3C, .spawn x 4 7)] = true := by decide +kernel

/-- Words of the system rows (R152), packed by hand from their encoding tables. -/
theorem test_decode_system : decodes
    [(0xE814284A00014B86, .trap ⟨⟨true, 2⟩, 0x14, 0x25, 0xA5C3⟩), (0xE854284A6C8F2002, .rte r .skip),
      (0xE894284A6C8F2010, .rdcw r 0x010), (0xE8D4284A6C8F2013, .wrcw r 0x013)] = true := by decide +kernel

/-- Words of the memory rows (R182, R184, R191), packed by hand from their encoding tables. -/
theorem test_decode_memory : decodes
    [(0x8014284A6C17016E, .ld m .s8), (0x8034284A6C170B6E, .ldTry t .s8),
      (0x83D4284A6C17016E, .st m .z64), (0x83F4284A6C170B6E, .stTry t .z64),
      (0x8494284A6C17016E, .lds m .s32), (0x84B4284A6C170B6E, .ldsTry t .s32),
      (0x8754284A6C17016E, .sts m .z16), (0x8774284A6C170B6E, .stsTry t .z16),
      (0x8954284A6C17016E, .ldk m .z16), (0x8AD4284A6C17016E, .stk m .s64),
      (0x8C14284A6C17016E, .pref m), (0x8C54284A6C17016E, .cas m false),
      (0x8C94284A6C17016E, .cas m true), (0x8CD4284A6C17016E, .casScr m false),
      (0x8D14284A6C17016E, .casScr m true), (0x8C74284A6C170B6E, .casTry t false false),
      (0x8CB4284A6C170B6E, .casTry t false true), (0x8CF4284A6C170B6E, .casTry t true false),
      (0x8D34284A6C170B6E, .casTry t true true), (0x9014284A6C17016E, .atom m .add32),
      (0x9074284A6C17016E, .red m .add64), (0x9894284A6C17016E, .atomScr m .minS32),
      (0x98F4284A6C17016E, .redScr m .minZ32), (0x9114284A6C17016E, .atom m .minS64),
      (0x9174284A6C17016E, .red m .minZ64), (0x9994284A6C17016E, .atomScr m .maxS32),
      (0x99F4284A6C17016E, .redScr m .maxZ32), (0x9214284A6C17016E, .atom m .maxS64),
      (0x9274284A6C17016E, .red m .maxZ64), (0x9A94284A6C17016E, .atomScr m .and32),
      (0x9AF4284A6C17016E, .redScr m .and64), (0x9314284A6C17016E, .atom m .or32),
      (0x9374284A6C17016E, .red m .or64), (0x9B94284A6C17016E, .atomScr m .xor32),
      (0x9BF4284A6C17016E, .redScr m .xor64), (0x9414284A6C17016E, .atom m .swap32),
      (0x9474284A6C17016E, .red m .swap64), (0x9C94284A6C17016E, .atomScr m .fadd),
      (0x9CF4284A6C17016E, .redScr m .fmin), (0x9514284A6C17016E, .atom m .fmax)] = true := by decide +kernel

/-- Words of the synchronisation rows (R183, R194), packed by hand from their encoding tables. -/
theorem test_decode_sync : decodes
    [(0x7414284A6C17016E, .fence m), (0x7454284A6C8F4E98, .barArr x ⟨2, true, false, 3⟩),
      (0x7494284A6C8F4C68, .barWait x ⟨0, false, true, 5⟩), (0x74D4284A6C8F4E9C, .barx x ⟨2, true, false, 3⟩ true),
      (0x7514284A6C8F4C01, .twait x true), (0x7554284A6C8F4C02, .tget x 2),
      (0x7594284A6C8F4C25, .wext x 4 .ge)] = true := by decide +kernel

/-- Words of the access processor (R213), packed by hand from their encoding tables. -/
theorem test_decode_quarry : decodes
    [(0xC01429000000B200, .alp b), (0xC054284A6C8F200D, .agen r true 5),
      (0xC094284A6C8F2002, .aidx r .table), (0xC094284A6C8F2001, .aidx r .hash),
      (0xC0D4284A6C8F4C0C, .aload x true .line), (0xC114284A6C8F4C03, .ascat x false .eight),
      (0xC414284A6C8F4C00, .qpop x), (0xC454284A6C8F4C00, .qpush x),
      (0xC454284A6C8F4C01, .qpushClose x), (0xC474284A6C8F4C02, .qpushStart x 2),
      (0xC494284A6C8F4C00, .qpeek x)] = true := by decide +kernel

/-- Words of the hoist and the ring (R233), packed by hand from their encoding tables. -/
theorem test_decode_engines : decodes
    [(0xD014284A6C8F4C00, .hoist x), (0xD054284A6C8F4C03, .rrot x 3)] = true := by decide +kernel

/-- Words of the matrix rows (R248), packed by hand from their encoding tables. -/
theorem test_decode_matrix : decodes
    [(0xA014284A6C8F4EC0, .mma x ⟨true, false, true, 2⟩), (0xA054284A6C8F4D20, .mmas x ⟨false, true, false, 1⟩),
      (0xA094284A6C8F4C02, .mldt x 2), (0xA214284A6C8F4C15, .acqb x 21),
      (0xA254284A6C8F4C0A, .relb x 10), (0xA294284A6C8F4C1F, .azero x 31),
      (0xA2D4284A6C8F4E66, .ard x 19 6), (0xA314284A6C8F4CD3, .awr x 6 19),
      (0xA354284A6C8F4F5C, .accst x true 5 3 2)] = true := by decide +kernel

/-- Words of the join rows (R275), packed by hand from their encoding tables. -/
theorem test_decode_join : decodes
    [(0xB014284A6C8F4C0C, .jopen x true 4), (0xB054284A6C8F4C01, .jins x .f16),
      (0xB094284A6C8F4C02, .jrun x .bf16), (0xB0D4284A6C8F4C00, .jdrain x),
      (0xB114284A6C8F4C03, .jstat x 3), (0xB154284A6C8F4C00, .jclose x)] = true := by decide +kernel

/-- Words of the fabric rows (R313), packed by hand from their encoding tables. -/
theorem test_decode_fabric : decodes
    [(0xD814284A6C8F4C40, .fget x true false), (0xD854284A6C8F4E80, .fput x true false true false),
      (0xD894284A6C8F4EA9, .fatom x true false true 2 .fadd), (0xD894284A6C8F4D36, .fatom x false true false 3 .minZ),
      (0xD8D4284A6C8F4D10, .fcas x false true 1), (0xD914284A6C8F4C00, .fflush x),
      (0xD954284A6C8F4D40, .fmcast x false true false true), (0xD994284A6C8F4C4C, .fred x false true .fmaxF32),
      (0xD994284A6C8F4D07, .fred x true false .faddBf16), (0xD9D4284A6C8F4C00, .fwinOpen x),
      (0xD9D4284A6C8F4C01, .fwinRevoke x)] = true := by decide +kernel

/-- Refused (R92, R93 step 1): the unassigned opcodes 0x009, 0x0FF, 0x13F, 0x1D7, 0x235, 0x255, 0x2C6, 0x305, 0x342, 0x368 and 0x3A4; Ext where a row gives it no
meaning; a modifier bit or code that the row does not define: `iadd` with bit 0, `and.s8`, `shl` with bit 7, `fadd` with format 1, `fcvt` from FP16 element 2, format 101,
`shfl` of type 101, mode 101, `vote` mode 11, `lred` operation 7, `spawn` with 5 arguments, slot 4, `trap` with bit 16, `rte` mode 11, `rdcw` of word 6, `wext` condition 6,
`aload` size 5, `mldt` size 3, `jopen` n 5, `jins` format 3, `fatom` code 10, 64-bit fadd, `movi` with bit 0. -/
theorem test_decode_refuses : refuses
    [0x024E000000000000, 0x3FCE000000000000, 0x4FCE000000000000, 0x75CE000000000000, 0x8D4E000000000000, 0x954E000000000000, 0xB18E000000000000,
      0xC14E000000000000, 0xD08E000000000000, 0xDA0E000000000000, 0xE90E000000000000, 0x002E080A0DE60800, 0x702FE60000001E00, 0xA02E004081E60080,
      0x000E080A0DE60801, 0x040E080A0DE60000, 0x080E080A0DE60880, 0x400E080A0DE60400, 0x480E080A0DE60022, 0x480E080A0DE61400,
      0x600E282A2C2E1400, 0x600E282A2C2E1805, 0x604E282A2C2E0030, 0x608E282A2C2E0807, 0x720E280001E60005, 0x720E280001E60020, 0xE80E000000020000,
      0xE84E000000000003, 0xE88E000000000006, 0x758E000000000006, 0xC0CE1401E7E60005, 0xA08E000000000003, 0xB00E000000000005, 0xB04E0C0FE7E60003,
      0xD88E0C04080A000A, 0xD88E0C04080A0109, 0x200E15E600024689] = true := by decide +kernel

/-! ### Well-formedness (R93 step 1) -/

/-- One ill-formed term for each check, which the check refuses. -/
theorem test_wf_refuses : ([.and r .s8, .xor r .z16, .shl r .z8 true 0, .rot r .s16 false 0, .bfx r .z8, .sel r .s16 false 0, .mov r .z16 false false,
    .movxw r .s8, .bfi r .s32, .lea r .z64 0, .fcvt r .f32 .rn .f16 2, .fcvt r .f16 .rn .f32 1, .f2i r .s32 .rn .bf16 3, .hadd2 r .f32 .rn, .hfma2 r .e4m3 .rn,
    .lred r .s32 .fadd, .lred r .s8 .add, .spawn x 5 0, .spawn x 0 4, .trap ⟨⟨false, 7⟩, 0, 0, 0x10000⟩, .rdcw r 0x006, .wrcw r 0x014, .mldt x 3, .jopen x false 5,
    .fatom x false true false 0 .fadd] : List Instr).all (fun i => !i.wf) = true := by decide

/-! ### States that meet the statements' hypotheses -/

/-- The guard that is always true. -/
def g : Guard := ⟨false, 7⟩

/-- Operand fields that pass the checks of R86 to R89 at any width. -/
def fr : FormR := ⟨g, 4, 6, 8, 10, 0, 0⟩
def fb : FormB := ⟨g, 4, 3, 15⟩

/-- Register values by number and lane, and a register side with them added. -/
def regLanes (n : Nat) (v : Nat → Nat) : Sparse Word := (List.range 32).filterMap fun l => if v l % 2 ^ 32 = 0 then none else some (32 * n + l, BitVec.ofNat 32 (v l))

/-- A squad at the word of a one-word clause of a class. Pair 12 holds addresses of the mapped page, pair 14 scratch addresses of muster slot 0, pair 16
addresses of peer 0, pair 18 an address past the page; uniform pairs 2 and 4 an address of the page and one of peer 0; s6 holds 16,
s10 the number 128, s12 the number 512. -/
def sq (cls : Nat) : Squad :=
  { uid := 0, place := {}
    exe := { bootExe cls none with
      mslots := [some 0, some 1, none, none]
      regs := regLanes 12 (fun l => 0x11000 + 8 * l) ++ regLanes 14 (fun l => 8 * l) ++ regLanes 16 (fun l => 8 * l) ++ regLanes 17 (fun _ => 2 ^ 24) ++ regLanes 18 (fun _ => 0x40000)
      uni := [(2, 0x11000), (5, 0x1000000), (6, 16), (10, 128), (12, 512)] } }

/-- Two musters on core 0, of core and of cluster placement, with a window of 16 scratch lines each and timeline slots 0 to 3; the barrier object is written. -/
def mus : Muster :=
  { idx := 0, kind := 2, place := 2, timelines := 4, barrier := 0x11800, barInit := true, remote := false, byteGated := false, check := 0, lines := 16, quota := 0
    cores := [0], placed := true, barDone := true }
def lau : Launch :=
  { id := 0, ctx := 0, queue := 0, number := 0, entry := 0x10000, args := 0x11000, exits := 0x11400, stackBase := 0x14000, stackKiB := 16, declared := 240, squads := 1
    musters := [mus, { mus with idx := 1, place := 1, cluster := some 0 }], dispatched := [0] }

/-- A machine in which a squad is in turn: one context, whose tables map one page, one launch with a muster, and no memory key. -/
def mach (q : Squad) : State :=
  let c : Chip := { State.reset.chip with
    dev := bootTables [], ctxs := modAt State.reset.chip.ctxs 0 fun _ => some bootCtx, locked := [], squads := [q], turn := some (.squad q.uid), launches := [lau], nextId := 10 };
  { State.reset with
    chip := c.modCore 0 fun k => { k with
      tlb := [{ ctx := 0, va := 0x10000, big := false, frame := 0x50000, host := false, r := true, w := true, x := true }]
      windows := [{ launch := 0, muster := 0, base := 0, lines := 16, check := 0 }, { launch := 0, muster := 1, base := 16, lines := 16, check := 0 }]
      slots := k.slots.mapIdx fun i s => if i < 4 then { s with owners := [(0, 0), (0, 1)] } else s } }

/-- A quarry thread in an access clause, and a machine in which it is in turn. -/
def th : QThread := { id := 0, exe := bootExe 3 (some 0), launch := 0, slot := 0, num := 1 }
def machT (t : QThread) : State :=
  let s := mach (sq 0);
  let c := s.chip.modCore 0 fun k => { k with threads := modAt k.threads 0 fun _ => some t };
  { s with chip := { c with squads := [], turn := some (.thread 0 0) } }

/-- A word placed for the next step, with nothing scheduled. -/
def placed (w : Nat) : State := State.reset.withFetchWord 64 w

/-- DecodeEncode, EncodeDecode. -/
theorem witness_encode : (Instr.rot r .z64 true 63).wf = true ∧ (encode (.rot r .z64 true 63)).isSome = true ∧
    (decode 0x000E080A0DE68800).toBool = true ∧ isEvent (.clauseStart 0 0) = true := by decide

/-- StepRuns: a placed word that decodes, one that does not, a scheduled event, and a scheduled turn. -/
theorem witness_StepRuns :
    (let good := fun (w : Nat) (ok : Bool) =>
      let s := placed w
      match s.chip.turn with
      | some a => s.agenda.isEmpty && s.chip.mayRun a && (match s.chip.wordOf a with
        | some v => match s.chip.fetchWord v.1 v.2.1 v.2.2 with
          | .ok d => decide (d.toNat = w) && (decode d).toBool == ok
          | .error _ => false
        | none => false)
      | none => false
    good 0x000E080A0DE68800 true && good 0x3FCE000000000000 false) = true ∧ isEvent .recoveryRequest = true := by decide +kernel

/-- The forms of the 46 lane-by-lane rows. -/
def laneRows (f : FormR) : List Instr :=
  [.iadd f .s64 true, .isub f .z8 false, .imul f .s32 true, .imulh f .z64, .imad f .s16 true, .imin f .s8, .imax f .z64, .iabs f .s64 true, .ineg f .z32 false,
    .and f .s32, .or f .z64, .xor f .z32, .andn f .s64, .not f .z64, .shl f .z64 true 63, .shr f .s32 false 0, .sar f .s64 false 0, .rot f .z32 true 31,
    .popc f .s8, .clz f .z64, .brev f .z16, .shf f true, .bfx f .s64, .bfi f .z64, .perm f, .lea f .s32 7, .fadd f .rn, .fsub f .rz, .fmul f .rm, .ffma f .rp,
    .fmin f, .fmax f, .frcp f .rn, .frsq f .rn, .fsqrt f .rp, .fex2 f, .flg2 f, .fsin f, .fcos f, .frnd f .rm, .fcvt f .e4m3 .rz .e5m2 3, .f2i f .s64 .rn .f16 1,
    .i2f f .bf16 .rp .z64, .hadd2 f .f16 .rn, .hmul2 f .bf16 .rz, .hfma2 f .f16 .rm]

/-- Whether an R-format form is ready for a squad, with its checks passing or not. -/
def readyR (cls : Nat) (f : FormR) (u : RUse) (ok : Bool) : Bool := (mach (sq cls)).ready (sq cls) [cls] (regsR f u) && passes ((sq cls).exe.chkR f u) == ok

/-- LaneResults: every row, for a squad and, where threads may run it, for a thread; and with each source held in a latch slot. -/
theorem witness_LaneResults : ((laneRows fr).all fun i => match laneOp i with
    | some o => readyR 0 o.f o.u true && (!o.threads || (machT th).readyThread 0 0 th && passes (th.exe.chkR o.f o.u))
    | none => false) = true ∧ ([(1, 0), (2, 1), (3, 2)].all fun p => readyR 0 { fr with hold := p.1, slot := p.2 } (use3 .z64) true) = true := by decide +kernel

/-- OperandChecks: each field is the first to fail: an odd pair, the code of the lane number as a destination, 0xF5, Hold on an unused field, and a latch slot 3. -/
theorem witness_OperandChecks :
    ([(FormR.mk g 5 6 8 10 0 0), ⟨g, 0xF4, 6, 8, 10, 0, 0⟩, ⟨g, 4, 0xF5, 8, 10, 0, 0⟩, ⟨g, 4, 6, 0xF0, 10, 0, 0⟩, ⟨g, 4, 6, 8, 239, 0, 0⟩, ⟨g, 4, 6, 8, 10, 1, 3⟩].all fun f =>
      readyR 0 f (use3 .z64) false) = true ∧
    (let e : Exe := { declared := 16, pos := 3, latchAt := [some 1, some 2, some 0] };
      e.srcOk true 14 = true ∧ e.srcOk true 15 = false ∧ e.srcOk false 15 = true ∧ e.srcOk false 16 = false ∧ e.srcOk false 0xF0 = true ∧ e.srcOk true 0xF1 = true ∧
      e.srcOk false 0xF2 = false ∧ e.srcOk false 0xF3 = true ∧ e.srcOk false 0xF4 = true ∧ e.srcOk false 0xF5 = false ∧ e.dstOk true 14 = true ∧ e.dstOk false 16 = false ∧
      e.dstOk false 0xF0 = false ∧ e.dstOk true 0xF3 = true ∧ e.dstOk false 0xF4 = false) := by decide +kernel

/-- WordOperations: every form named, and an immediate form of each width. -/
theorem witness_WordOperations : ([use2 .s32, use3 .z32, use1 .s32, useShift .z64 true, useShift .s32 false, useSingle3, useLea].all fun u => readyR 0 fr u true) = true ∧
    ([false, true].all fun w => passes ((sq 0).exe.chkDst (.gen w) 4) && (mach (sq 0)).ready (sq 0) [0] (codeRegs w 4) &&
      (mach (sq 0)).ready (sq 0) [0] (codeRegs w 4 ++ codeRegs w 6) && passes ((sq 0).exe.chkSrc 1 (.gen w) 6)) = true := by decide +kernel

/-- FlagsAndMoves: flags f0 and f7 for the comparisons; `sel`; `mov` between every two kinds of register, with a lane that takes part and with none; `movx` and `movxw`. -/
theorem witness_FlagsAndMoves :
    (let q := sq 0;
      let s := mach q;
      q.exe.flags.length = 7 ∧ ([0, 7].all fun d => let f : FormR := { fr with dst := d };
        readyR 0 f (useCmp .s64) true && readyR 0 f useFcmp true && readyR 0 f useFcls true) = true ∧ readyR 0 fr (use2 .z64) true = true ∧
      ([false, true].all fun au => passes (if au then q.exe.chkUni 1 true fr.a else q.exe.chkSrc 1 (.gen true) fr.a) &&
        s.ready q [0] (regsR fr (useMov .z64 false au) ++ [] ++ if au then uniRegs true fr.a else []) &&
        passes (q.exe.chkHold fr (useMov .z64 false au)) && passes (q.exe.chkDst (.gen true) fr.dst) &&
        s.ready q [0] (regsR fr (useMov .z64 true au) ++ uniRegs true fr.dst ++ if au then uniRegs true fr.a else []) &&
        passes (q.exe.chkUniDst 0 true fr.dst) && passes (q.exe.chkHold fr (useMov .z64 true au))) = true ∧
      q.exe.takesPart g 0 = true ∧ (∀ l, l < 32 → q.exe.takesPart ⟨true, 7⟩ l = false) ∧ q.exe.declared ≤ 240 ∧ passes (q.exe.chkUni 2 false fr.b) = true ∧
      ([false, true].all fun w => let t : IntTy := if w then .s64 else .z32;
        let n := fr.a.toNat; let k := fr.dst.toNat;
        s.ready q [0] (codeRegs w fr.dst ++ uniRegs false fr.b ++ if w then [n, n + 1] else [n]) && baseOk w fr.a && passes (q.exe.chkDst (.gen w) fr.dst) &&
        passes (q.exe.chkHold fr (useMovx t)) && q.exe.regOk w n && s.ready q [0] (codeRegs w fr.a ++ uniRegs false fr.b ++ if w then [k, k + 1] else [k]) &&
        baseOk w fr.dst && passes (q.exe.chkSrc 1 (.gen w) fr.a) && passes (q.exe.chkHold fr (useMovxw t)) && q.exe.regOk w k) = true) := by decide +kernel

/-- CrossLanes: every mode of `shfl` at both widths; a `vote` to f7 and to a register; `lred`, `match`, `flg`. -/
theorem witness_CrossLanes :
    (let q := sq 0;
      let s := mach q;
      ([false, true].all fun w => [ShMode.idx, .up, .down, .xor, .bcast].all fun mode =>
        s.ready q [0] (regsR fr (useShfl w mode) ++ if mode = .bcast then uniRegs false fr.b else []) && passes (q.exe.chkDst (.gen w) fr.dst) &&
        passes (q.exe.chkSrc 1 (.gen w) fr.a) && passes (if mode = .bcast then q.exe.chkUni 2 false fr.b else q.exe.chkSrc 2 (.gen false) fr.b) &&
        passes (q.exe.chkSrc 3 (.gen w) fr.c) && passes (q.exe.chkHold fr (useShfl w mode))) = true ∧
      passes (q.exe.chkHold fr {}) = true ∧ s.ready q [0] [] = true ∧ s.ready q [0] (codeRegs false fr.dst) = true ∧
      ([use1 .s64, use1 .z32, useMatch true, useMatch false, useFlg true, useFlg false].all fun u => readyR 0 fr u true) = true) := by decide +kernel

/-- Transfers and LaneChanges: a clause of each class for the forms that run in all, a target pair, a link pair; a lane that takes part and none; a thread. -/
theorem witness_Transfers :
    ([0, 1, 2, 4, 5].all fun cls => (mach (sq cls)).ready (sq cls) allClasses []) = true ∧ passes ((sq 0).exe.chkBurg fb false) = true ∧
    (mach (sq 0)).ready (sq 0) [0] (codeRegs true fb.reg) = true ∧ passes ((sq 0).exe.chkSrc 0 (.gen true) fb.reg) = true ∧
    passes ((sq 0).exe.chkDst (.gen true) fb.reg) = true ∧ (machT th).readyThread 0 0 th = true ∧ passes (th.exe.chkBurg fb false) = true := by decide +kernel

theorem witness_LaneChanges :
    (let q := sq 0;
      q.lpc.length = 32 ∧ q.resume.length = 32 ∧ q.st.length = 32 ∧ q.burgees.length = 12 ∧ q.ensigns.length = 4 ∧ q.exe.acting g ≠ 0 ∧ q.exe.acting ⟨true, 7⟩ = 0 ∧
      (mach q).chip.regionHeld q = false ∧ (mach q).ready q [0] [] = true ∧
      (let p : Squad := { q with region := some { hdrAt := 0x10000, pos := 0, mask := 1 } }; (mach p).chip.regionHeld p = false ∧ (mach p).ready p [0] [] = true)) := by decide +kernel

/-- Regions: in the middle of a clause and at its last word, with and without an open region. -/
theorem witness_Regions : ([(0, 2), (1, 1)].all fun p => let q : Squad := { sq 0 with exe := { (sq 0).exe with pos := p.1, hdr := BitVec.ofNat 64 (p.2 * 2 ^ 56) } };
    (mach q).ready q [0] [] && passes (q.exe.chkBurg fb false) && q.exe.acting g != 0 && !(mach q).chip.regionHeld q) = true := by decide +kernel

/-- Spawns: four arguments to a bin without a muster and with one, and a count of blocks at each end of its range; with no lane taking part; the context's bins with a
timer and without; a bin of the thread's key that has room and one that the thread fills, no such bin among fewer than 16, and none among 16. -/
theorem witness_Spawns : ([(1, 7), (30, 0)].all fun p => let n := p.1; let ms : BitVec 3 := p.2; let f : FormX := ⟨g, 4, 8, n, 0, 0, false⟩;
    let q := sq 0;
    let s := mach q;
    let c := s.chip.commitRegion q.uid;
    s.ready q [0] (codeRegs true f.p ++ blockRegs f.q.toNat 4) && passes (q.chkSpawn f 4 ms) && q.exe.acting f.g != 0 && !s.chip.regionHeld q &&
      !c.earlier (.squad q.uid) c.nextId (q.exe.acting f.g) && match c.spawnPlace q (if ms = 7 then none else some 0) with
        | some d => (d.launches.all fun l => l.musters.all fun k => !k.barInit || k.barDone) && decide (q.place.core < d.cores.length) && (d.ctx? 0).isSome
        | none => false) = true ∧ (sq 0).exe.acting ⟨true, 7⟩ = 0 ∧ bootCtx.binwait ≠ 0 ∧
    (let one : Spawned := { args := [1, 2, 3, 4], declared := 8 };
      let bin := fun (e k : Nat) => ({ launch := 0, ctx := 0, entry := e, muster := some 0, threads := List.replicate k one, since := e, wait := 0 } : Bin);
      ([30, 31].all fun k => let b := bin 0x10000 k; let pre := [bin 0x10010 3]; let post := [bin 0x10020 5];
        let c := (mach (sq 0)).chip.modCore 63 fun x => { x with bins := pre ++ b :: post };
        decide (63 < c.cores.length) && (c.core 63).bins == pre ++ b :: post && b.keyed 0 0x10000 (some 0) && (pre ++ post).all fun x => !x.keyed 0 0x10000 (some 0)) = true ∧
      ([15, 16].all fun k => let bs := (List.range k).map fun i => bin (0x10010 + 16 * i) 1;
        bs.length == k && bs.all fun x => !x.keyed 0 0x10000 (some 0)) = true) := by decide +kernel

/-- BurgeeComplete: a burgee whose lanes all wait, and one that has a lane still running. BurgeesAndEnsigns: burgees 0 and 11, lanes that take part and none, the register
forms; an ensign that is closed and one that is open, a legal declared set and an illegal one; a round that its last lane completes and that is cleared. -/
theorem witness_Burgees :
    (let q : Squad := { sq 0 with st := LaneState.burgeeWait 11 :: List.replicate 31 .eligible, burgees := (sq 0).burgees.set 11 1 };
      q.st.length = 32 ∧ (q.burgees.getD 11 0 ≠ 0 ∧ ∀ l, l < 32 → (q.burgees.getD 11 0).getLsbD l = true → q.state l = .burgeeWait 11) ∧ q.burgees.getD 0 0 = 0) ∧
    (let q := sq 0;
      let s := mach q;
      ([0, 11].all fun b => passes (q.exe.chkBurg { fb with burg := b } true)) = true ∧ s.ready q [0] [] = true ∧ q.exe.acting g ≠ 0 ∧ q.exe.acting ⟨true, 7⟩ = 0 ∧
      s.chip.regionHeld q = false ∧ s.ready q [0] (uniRegs false 6) = true ∧ passes (q.exe.chkUni 0 false 6) = true ∧ passes (q.exe.chkUniDst 0 false 6) = true ∧
      passes (q.exe.chkBurg fb false) = true) ∧
    (let q : Squad := { sq 0 with exe := { (sq 0).exe with uni := [(6, 0xFFFFFFFF)] }, ensigns := (sq 0).ensigns.set 3 { isOpen := true, cont := 0x10010, set := 0xFFFFFFFF } };
      let m := BitVec.ofNat 32 (q.exe.uniVal false 6) &&& q.liveMask;
      m ≠ 0 ∧ q.exe.acting g &&& ~~~m = 0 ∧ m = (q.ensigns.getD 3 {}).set ∧ q.exe.nextHdr = (q.ensigns.getD 3 {}).cont ∧ (mach q).ready q [0] (uniRegs false 6) = true) ∧
    BitVec.ofNat 32 ((sq 0).exe.uniVal false 8) &&& (sq 0).liveMask = 0 ∧
    ((sq 0).st.length = 32 ∧ (sq 0).lpc.length = 32 ∧ (sq 0).resume.length = 32 ∧ 3 < (sq 0).ensigns.length) ∧
    (let p : Squad := { sq 0 with ensigns := (sq 0).ensigns.set 3 { isOpen := true, signed := 1, set := 3 }, st := LaneState.ensignWait 3 :: List.replicate 31 .eligible };
      (p.ensigns.getD 3 {}).armed = false ∧ ((p.ensigns.getD 3 {}).signed ||| 2) = (p.ensigns.getD 3 {}).set ∧ p.state 0 = .ensignWait 3) := by decide +kernel

/-- A squad in handler mode that trapped in the middle of a clause of two words, or at a clause start. -/
def inHandler (cls : Nat) (atStart : Bool) : Squad :=
  { sq cls with trap := { hmode := true, cause := 5, mask := 0xFF, left := 0xFF, hdr := BitVec.ofNat 64 (2 ^ 56), hdrAt := 0x10000, pos := 1, atStart } }

/-- TakesTrap, DoubleTrap, TrapAndReturn: a trap of some lanes and of all, at the last word and before it; in handler mode, and without a handler. -/
theorem witness_Traps :
    (let s := mach (sq 5);
      s.chip.squad? 0 = some (sq 5) ∧ s.chip.ctx? 0 = some bootCtx ∧ (sq 5).trap.hmode = false ∧ bootCtx.trapvec ≠ 0 ∧ (sq 5).lpc.length = 32 ∧ (sq 5).resume.length = 32 ∧
      (sq 5).contEns = none ∧ bootCtx.closing = none ∧ s.ready (sq 5) [5] [] = true) ∧
    ([false, true].all fun start => let q := inHandler 5 start; (mach q).ready q [5] [] && q.trap.hmode && passes (q.exe.chkHold fr {}) && q.contLeft.isNone) = true ∧
    (let s := mach (sq 5);
      let c : Chip := { s.chip with ctxs := modAt s.chip.ctxs 0 fun _ => some { bootCtx with trapvec := 0 } };
      c.ctx? 0 = some { bootCtx with trapvec := 0 } ∧ c.squad? 0 = some (sq 5)) := by decide +kernel

/-- ControlWords: every listed word, in handler mode and outside it; a value from each end of its range and one outside; with a lane and with none. -/
theorem witness_ControlWords : ([0, 1, 2, 3, 4, 5, 8, 9, 10, 11, 12, 13, 16, 17, 18, 19].all fun n => let wide := decide (n = 0 ∨ n = 2 ∨ n = 4);
      [sq 5, inHandler 5 false].all fun q => (mach q).ready q [5] (regsR fr { dst := .gen wide }) && passes (q.exe.chkR fr { dst := .gen wide }) &&
        (mach q).ready q [5] (regsR fr { a := .gen wide }) && passes (q.exe.chkR fr { a := .gen wide })) = true ∧
    lowestLane ((sq 5).exe.acting g) = some 0 ∧ lowestLane ((sq 5).exe.acting ⟨true, 7⟩) = none ∧
    (let e := (sq 5).exe;
      let v := fun (n a : Nat) => { e with regs := regLanes n fun _ => a };
      ((v 6 64).src false 6 0 = 64 ∧ (v 6 65).src false 6 0 = 65 ∧ (v 6 1).src false 6 0 = 1 ∧ e.src false 6 0 = 0) ∧
        ((v 6 8).src true 6 0 = 8 ∧ (v 6 4).src true 6 0 = 4)) := by decide +kernel

/-- IllegalWords: a word in a class 4 clause of a squad and in a thread, and an instruction that neither of these clauses allows. -/
theorem witness_IllegalWords : (match encode (.hadd2 fr .f16 .rn) with
    | some w => !(legalClasses (w.toNat / 2 ^ 54)).contains (sq 4).exe.cls && !(legalClasses (w.toNat / 2 ^ 54)).contains 3
    | none => false) = true ∧ (mach (sq 4)).chip.turn = some (.squad 0) ∧ (mach (sq 4)).chip.squad? 0 = some (sq 4) ∧ (sq 4).exe.inClause = true ∧
    (machT th).readyThread 0 0 th = true := by decide +kernel

/-- ClauseEnds: before the last word and at it, with lanes and without. LaneSelection: no lane eligible but a yielded one, handler mode, an armed ensign. -/
theorem witness_Clauses :
    (let e := (sq 0).exe;
      (e.active ≠ 0 ∧ e.count ≤ e.pos) ∧ (let d : Exe := { e with hdr := BitVec.ofNat 64 (15 * 2 ^ 56) }; d.active ≠ 0 ∧ d.count = 15 ∧ ¬d.count ≤ d.pos)) ∧
    (let q : Squad := { sq 0 with st := List.replicate 31 .exited ++ [.yielded] };
      q.trap.hmode = false ∧ q.contLeft = none ∧ (∀ k, k < 4 → (q.ensigns.getD k {}).armed = false) ∧ (q.pick.map (·.active)) = some 0x80000000) ∧
    (let q : Squad := { sq 0 with st := List.replicate 32 .exited }; q.pick = none) ∧ ((inHandler 0 false).pick.map (·.active)) = some 0xFF ∧
    (let q : Squad := { sq 0 with ensigns := (sq 0).ensigns.set 3 { isOpen := true, armed := true, cont := 0x10010, set := 3 } };
      (q.ensigns.getD 3 {}).armed = true ∧ (∀ j, j < 3 → (q.ensigns.getD j {}).armed = false) ∧ (q.pick.map (·.active)) = some 3) := by decide +kernel

/-- A machine with one squad between clauses, and a header and a word at 0x10000. -/
def atHeader (q : Squad) (h w : Nat) : State :=
  let s := mach { q with exe := { q.exe with inClause := false, active := 0 }, lpc := List.replicate 32 0x10000 };
  { s with chip := { s.chip with dev := (s.chip.dev.setLe 0x50000 8 h).setLe 0x50008 8 w, turn := none } }

/-- ClauseStarts: a legal header whose wait mask is clear and whose Live field holds its greatest value; an illegal one, for lanes that came by a transfer and for others. -/
theorem witness_ClauseStarts :
    (let h := bootHeader 0;
      let w := 0x000E080A0DE68800;
      let s := atHeader (sq 0) h w;
      match s.chip.squads with
      | [q] => match q.pick with
        | some p => s.chip.onBench 0 0 == [q] && (s.chip.bench 0 0).enabled && !s.chip.held q && q.deferred.isNone && p.addr == 0x10000 && p.pos == 0 &&
          (s.chip.fetchWord 0 0 p.addr).toOption == some (BitVec.ofNat 64 h) && (s.chip.clauseWords 0 0 p.addr 0 0).head? == some (BitVec.ofNat 64 w) &&
          (decode (BitVec.ofNat 64 w)).toBool && !s.chip.codeHeld 0 0 p.addr 0 && demand (s.chip.clauseWords 0 0 p.addr 0 0) == (0, 0) && s.chip.escortRoom q 0 0
        | none => false
      | _ => false) = true ∧
    headerLegal (bootHeader 0) 240 ∧ headerLegal (bootHeader 5 + 2 ^ 35 + 30 * 2 ^ 24) 240 ∧ ¬headerLegal (bootHeader 3) 240 ∧
    ¬headerLegal (bootHeader 0 + 2 ^ 35 + 31 * 2 ^ 24) 248 ∧
    (let s := atHeader { sq 0 with byTransfer := 1 } (bootHeader 3) 0;
      (s.chip.ctx? 0).any (fun x => x.trapvec != 0) = true ∧ (s.chip.fetchWord 0 0 0x10000).toOption = some (BitVec.ofNat 64 (bootHeader 3)) ∧ (s.chip.squads.map Squad.byTransfer) = [1]) := by
  refine ⟨?_, ?_, ?_, ?_, ?_, ?_⟩ <;> first | decide +kernel | (unfold headerLegal; decide +kernel)

/-- A memory form over pair n, escorting one register or none, and its `.try` form. -/
def fm (n : Code) (esc : Bool) : FormM := ⟨g, 4, n, 9, if esc then 1 else 0, 2, true, 0, 0⟩
def ft (n : Code) : FormT := ⟨g, 4, n, 9, 1, 2, 6, true, 0, 0⟩

/-- The memory rows: global, scratch and stack, escorted and not. -/
def memRows : List Instr :=
  [.ld (fm 12 true) .s8, .ldTry (ft 12) .z64, .st (fm 12 false) .z16, .stTry (ft 12) .z64, .lds (fm 14 false) .s16, .ldsTry (ft 14) .z32, .sts (fm 14 true) .z8, .stsTry (ft 14) .s64,
    .ldk (fm 14 false) .z64, .stk (fm 14 false) .z32, .cas (fm 12 true) false, .casScr (fm 14 false) true, .casTry (ft 12) false true, .atom (fm 12 true) .maxS64,
    .red (fm 12 false) .fadd, .atomScr (fm 14 false) .add64, .redScr (fm 14 true) .xor32]

/-- A squad with its first and its last lane active. -/
def sq2 (cls : Nat) : Squad := { sq cls with exe := { (sq cls).exe with active := 0x80000001 } }

/-- Whether a memory instruction is ready (`memReady`) and all its lanes reach their locations (`lanesReach`). -/
def memOk (s : State) (q : Squad) (m : MemOp) : Bool :=
  s.ready q [0] m.uses && passes (m.check q.exe) && q.exe.acting m.g != 0 && !s.chip.acquiring q (q.exe.acting m.g) && !q.pennantFull (q.exe.pennant m.ps) &&
    (!m.tryFlag.isSome || s.chip.escortRoom q 1 m.escortSet.length) && !s.chip.hasWc q && !s.chip.committing q.uid
def reachOk (s : State) (q : Squad) (m : MemOp) : Bool :=
  [0, 31].all fun l => match s.chip.lane q m l with
    | .at ls => !s.chip.unsupported q.exe.ctx m.kind m.size (s.chip.laneVa q m l) (.at ls) && (s.chip.raceAt q.place ls).isNone
    | _ => false

/-- MemoryIssues: every row, outside a region; an atomic in a region. RegionStores: a store in a region whose buffer has one place left; a region that ends; two of its
stores under way; an instruction that ends it. -/
theorem witness_MemoryIssues : (memRows.all fun i => match memOpOf i with
    | some m => memOk (mach (sq2 0)) (sq2 0) m && reachOk (mach (sq2 0)) (sq2 0) m && !(mach (sq2 0)).chip.regionHeld (sq2 0)
    | none => false) = true ∧ (sq2 0).exe.flags.length = 7 ∧ (sq2 0).region = none ∧
    (let q : Squad := { sq2 0 with region := some { hdrAt := 0x10000, pos := 0, mask := 1 } };
      match memOpOf (.atom (fm 12 true) .maxS64) with
      | some m => memOk (mach q) q m && reachOk (mach q) q m && !(mach q).chip.regionHeld q
      | none => false) = true := by decide +kernel

theorem witness_RegionStores :
    (let b : BufStore := { scope := 0, order := 0, lanes := [(3, 0x11000, [(.dev 0x51000, 1), (.dev 0x51001, 2)])] };
      let q : Squad := { sq2 0 with region := some { hdrAt := 0x10000, pos := 0, mask := 0xFF, buf := List.replicate 31 b } };
      (match memOpOf (.st (fm 12 false) .z32) with
        | some m => memOk (mach q) q m && reachOk (mach q) q m && m.kind == .store && !m.escorted
        | none => false) = true ∧
      (mach q).chip.squad? 0 = some q ∧ (mach q).ready q [0] [] = true ∧ passes (q.exe.chkBurg fb false) = true ∧ q.exe.acting g ≠ 0 ∧ (mach q).chip.regionHeld q = true) ∧
    (let a : Access := { lane := 3, va := 0x11000, locs := [.dev 0x51000], data := [1] };
      let x : Request := { id := 3, agent := .squad 0, ctx := 0, core := 0, kind := .store, size := 1, accs := [a], scope := 0, order := 0, commit := true };
      let r : Request := { x with id := 4 };
      let c : Chip := { (mach (sq 0)).chip with requests := [x, r] };
      r.commit = true ∧ x ∈ c.requests ∧ x.agent = r.agent ∧ x.id < r.id ∧ a ∈ x.accs ∧ a.open_ = true) := by decide +kernel

/-- MemoryTraps: a misaligned second lane in global memory and in scratch; a lane on a page that faults; a full bench that has no room for a `.try` form. -/
theorem witness_MemoryTraps :
    ([(12, Instr.ld (fm 12 false) .z32, 0x11001), (14, .lds (fm 14 false) .z64, 0x81)].all fun p =>
      let q : Squad := { sq 0 with exe := { (sq 0).exe with regs := regLanes p.1 fun l => if l = 0 then 0x11000 - 0x11000 * (p.1 - 12) / 2 else p.2.2 } };
      match memOpOf p.2.1 with
      | some m => (mach q).ready q [0] m.uses && passes (m.chkData q.exe) && passes (q.exe.chkSrc 1 (.gen true) m.addr) && passes (m.chkEscort q.exe) && decide (m.scope ≤ 4) &&
          passes (m.chkLimits q.exe) && ((List.range 32).all fun k => (q.exe.mslots.getD (m.ea q.exe k / 2 ^ 30 % 4) none).isSome && decide (m.ea q.exe k < 2 ^ 57)) &&
          decide (m.ea q.exe 1 % m.size ≠ 0) && decide (m.ea q.exe 0 % m.size = 0)
      | none => false) = true ∧
    (let s := mach (sq2 0);
      let d := s.chip.dev.setLe 0x40020 8 (0x50000 + 0x15);
      let c : Chip := { s.chip with dev := d };
      match memOpOf (.st (fm 18 false) .z32) with
      | some m => memOk { s with chip := c } (sq2 0) m && (match c.lane (sq2 0) m 0 with
        | .fault _ => true
        | _ => false)
      | none => false) = true ∧
    (let q : Squad := { sq 0 with pennants := List.replicate 12 0 };
      let other : Request := { id := 3, agent := .squad 0, ctx := 0, core := 0, kind := .load, size := 4, accs := [], scope := 0, order := 0, escorted := true, escort := [(9, [])] };
      let s := mach q;
      let c : Chip := { s.chip with requests := List.replicate 8 other };
      match memOpOf (.ldTry (ft 12) .z64) with
      | some m => passes (m.check q.exe) && q.exe.acting m.g != 0 && !c.acquiring q (q.exe.acting m.g) && !q.pennantFull (q.exe.pennant m.ps) && !c.escortRoom q 1 m.escortSet.length
      | none => false) = true := by decide +kernel

/-- A request of squad 0 for 4 bytes of lane 31 at device bytes 0x51000 on. -/
def req (kind : AccKind) (dst : Option Code) (st : AccStatus) : Request :=
  { id := 3, agent := .squad 0, ctx := 0, core := 0, kind, size := 4, scope := 3, order := 0, dst, pennant := some 0
    accs := [{ lane := 31, va := 0x11000, locs := (List.range 4).map fun i => Loc.dev (0x51000 + i), data := [1, 2, 3, 4], cmp := [0, 0, 0, 0], status := st }] }

/-- A machine with some requests in flight. -/
def withReq (q : Squad) (rs : List Request) : State := let s := mach q; { s with chip := { s.chip with requests := rs } }

/-- Performs: a load, a store, an atomic, a compare-and-swap that holds and one that does not; bytes with an uncorrectable error; a store of which one of two elements is written. -/
theorem witness_Performs :
    ([AccKind.load, .store, .atom .add32 true, .cas false].all fun k =>
      let r := req k (if k == .store then none else some 4) .waiting;
      let s := withReq (sq 0) [r];
      match r.accs with
      | [a] => decide (s.chip.request? 3 = some r) && decide (a.lane < 32) && s.chip.canPerform r a && r.refusedLanes.isEmpty && decide a.locs.Nodup && a.elem == 0 && !s.chip.anyBad a.locs &&
          ofLe (s.chip.readLocs a.locs) == ofLe a.cmp && ofLe (s.chip.readLocs a.locs) != ofLe a.data &&
          ({ s.chip with bad := [(0x51003, true)] } : Chip).anyBad a.locs && decide (∀ l ∈ a.locs, s.chip.inStatus 0x51000 = false ∧ l ≠ .dev 0)
      | _ => false) = true ∧
    (let a : Access := { lane := 31, va := 0x11000, locs := (List.range 4).map fun i => Loc.dev (0x51000 + i), data := [1, 2, 3, 4], elem := 2, parts := [(0, [])] };
      let r : Request := { req .store none .waiting with accs := [a] };
      let s := withReq (sq 0) [r];
      s.chip.request? 3 = some r ∧ s.chip.canPerform r a = true ∧ r.refusedLanes = [] ∧ a.locs.Nodup ∧ 0 < a.elem ∧ 1 < r.size / a.elem ∧ 1 ∉ a.parts.map (·.1)) := by decide +kernel

/-- Lands: a completed load with and without an escort. -/
theorem witness_Lands :
    ([false, true].all fun esc =>
      let r : Request := { req .load (some 239) (.done [1, 2, 3, 4]) with escorted := esc, escort := if esc then [(239, List.replicate 32 7)] else [] };
      let q : Squad := { sq 0 with resident := if esc then List.range 29 else List.range 30 };
      let s := withReq q [r];
      decide (s.chip.squad? 0 = some q) && decide (s.chip.request? 3 = some r) && r.isOver && r.returns && q.evicted.isNone && q.awaiting != some r.id &&
        [1, 2, 4, 8].contains r.size && r.size == tyBytes r.ty && (r.accs.all fun a => decide (a.lane < 32)) && decide (r.accs.map (·.lane)).Nodup &&
        r.escort.all (fun e => e.2.length == 32) && decide (r.escort.map (·.1)).Nodup &&
        decide (((blocksOf (r.escort.map (·.1))).filter fun k => !q.resident.contains k).length ≤ s.chip.pool 0 0) && !s.chip.moveDue 0 0 &&
        (r.accs.all fun a => match a.status with
          | .done bs => bs.length == r.size
          | _ => true)) = true := by decide +kernel

/-- FencesAndTimelines: a prefetch, a fence of each scope and order, each mode of `tget`. -/
theorem witness_FencesAndTimelines :
    (let q := sq 0;
      let s := mach q;
      s.ready q [0] (codeRegs true 12) = true ∧ passes (chkPref { fm 12 false with scope := 1 } q.exe) = true ∧ s.chip.regionHeld q = false ∧ s.ready q [0] [] = true ∧
      q.exe.acting g ≠ 0 ∧ s.chip.hasWc q = false ∧ s.chip.acquiring q (q.exe.acting g) = false ∧ ([1, 2, 3].all fun o => !s.chip.fenceWaits q (q.exe.acting g) o) = true ∧
      ([0, 1, 2, 3].all fun (mode : BitVec 2) => s.ready q [0] (uniRegs (decide (mode.toNat < 2)) 62) &&
        passes (if mode.toNat < 2 then q.exe.chkPair 0 62 else q.exe.chkUniDst 0 false 62)) = true ∧ s.chip.slotHeld q 3 = true) := by decide +kernel

/-- A squad of 8 registers. -/
def sq8 (uid : Nat) : Squad := { sq 0 with uid, exe := { (sq 0).exe with declared := 8, inClause := false, regs := [] } }

/-- EscortsMove: a landed escort with room, alone and before another; two entries of which the older has no room; a reply that is stuck on a bench with 256 resident blocks and a full buffer; a squad that may be rehoused. -/
theorem witness_EscortsMove :
    (let s := mach (sq8 0);
      let c := s.chip.modBench 0 0 fun b => { b with landing := [{ uid := 0, regs := [(4, List.replicate 32 7)] }] };
      match (c.bench 0 0).landing with
      | [x] => x.uid == 0 && decide (x.regs.map (·.1)).Nodup && x.regs.all (fun e => e.2.length == 32) &&
        decide (((blocksOf (x.regs.map (·.1))).filter fun j => !(sq8 0).resident.contains j).length ≤ c.pool 0 0)
      | _ => false) = true ∧
    ([240, 256].all fun n =>
      let full : Squad := { sq8 1 with resident := List.range n };
      let e : RegFile := [(4, List.replicate 32 7)];
      let s := mach (sq8 0);
      let c := ({ s.chip with squads := [{ sq8 0 with resident := [] }, full] } : Chip).modBench 0 0 fun b => { b with landing := [{ uid := 0, regs := e }, { uid := 1, regs := [] }] };
      decide ((c.bench 0 0).landing.map (·.uid) = [0, 1]) && decide ((c.squad? 0).map (·.resident) = some []) && decide (((blocksOf (e.map (·.1))).length ≤ c.pool 0 0) = (n = 240)))
      = true ∧
    (let r : Request := { req .load (some 4) (.done [1, 2, 3, 4]) with escorted := true, escort := [(4, List.replicate 32 7)] };
      let full : Squad := { sq8 1 with resident := List.range' 64 256, lastIssue := 9 };
      let s := withReq (sq8 0) [r];
      let c := ({ s.chip with squads := [sq8 0, full], turn := none }).modBench 0 0 fun b => { b with landing := [{ uid := 1, regs := (List.range 512).map fun n => (n, []) }] };
      c.stuckReply 0 0 = some 0 ∧ c.victim 0 0 0 = some (sq8 0) ∧ (c.blockAreaWrite (sq8 0) (c.evictBytes (sq8 0))).isSome = true) ∧
    (let q : Squad := { sq8 0 with evicted := some 0 };
      let c := { (mach q).chip with turn := none };
      c.firstEvicted 0 0 = some q ∧
      (blocksOf ((List.range q.exe.declared).filter fun r => !(c.abroad q.uid).contains r)).length ≤ c.pool 0 0 ∧ c.moveDue 0 0 = false ∧
      ([0, 7].all fun r => [0, 31].all fun l => c.blockAreaRead q (128 * r + 4 * l) 4 == some 0) = true ∧
      ([0, 95].all fun i => c.blockAreaRead q (128 * q.exe.declared + 8 * i) 8 == some 0) = true) := by decide +kernel

/-- FaultsAndServices: a fault record that waits, with room; a region to restart; an atomic that the context engine performs, on a device location and for a peer. -/
theorem witness_FaultsAndServices :
    (let f : PFault := { num := 1, page := 0x30000, core := 0, die := 0, engine := false, kind := 1 };
      let x : Ctx := { bootCtx with faults := [f] };
      x.faults.find? (fun g => !g.appended) = some f ∧ x.faults.find? (fun g => g.num == f.num && !g.appended) = some f ∧
      (mach (sq 0)).chip.queueRoom x.pfBase x.pfCap = true) ∧
    (let q : Squad := { sq 0 with region := some { hdrAt := 0x10000, pos := 1, mask := 0xFF }, restart := true };
      (mach q).chip.squad? 0 = some q ∧ q.parked = none ∧ q.deferred = none ∧ q.lpc.length = 32 ∧ q.resume.length = 32 ∧ q.st.length = 32) ∧
    ([false, true].all fun peer =>
      let a : Access := { lane := 31, va := 0x11000, locs := if peer then [] else (List.range 4).map fun i => Loc.dev (0x51000 + i), data := [1, 0, 0, 0], unsup := true
                          fab := if peer then some { peer := 0, node := 1, index := 0, key := 0, off := 0x1000 } else none };
      let r : Request := { req (.atom .fmax true) (some 4) .waiting with accs := [a] };
      let s := withReq (sq 0) [r];
      decide (s.chip.request? 3 = some r) && decide a.locs.Nodup && (peer || !a.locs.isEmpty) && a.elem == 0 && !s.chip.inCopy a.locs && !s.chip.anyBad a.locs && !s.chip.orderHeld r a.lane && !s.chip.earlierAt r.agent r.id a.lane a.locs &&
        !r.commit && s.chip.locks.isEmpty && s.chip.fab.out.isEmpty) = true := by decide +kernel

/-- BarrierUpdates: an arrival with bytes, of a squad that wants the phase; the object has room for an arrival, or its count is full. -/
theorem witness_BarrierUpdates :
    (let u : BarUpdate := { id := 5, locs := (List.range 16).map fun i => Loc.dev (0x51800 + i), arrive := true, add := 128, uid := some 0, token := some 6, pennant := some 0, after := 3 };
      let s := withReq (sq 0) [req .load (some 4) .waiting];
      let c : Chip := { s.chip with updates := [u] };
      c.updates.find? (fun x => x.id == u.id) = some u ∧ c.fab.cmds = [] ∧ c.earlier (.squad 0) u.after u.lanes = false ∧ c.inCopy u.locs = false ∧ u.locs.length = 16 ∧ u.locs.Nodup ∧
      (u.locs.all fun l => match l with
        | .dev pa => !c.inStatus pa
        | _ => false) = true ∧
      (c.barObj u.locs).arrivals < 2 ^ 16 - 1 ∧ c.squad? 0 = some (sq 0)) := by decide +kernel

/-- Arrivals and Waits: an object by its address, in scratch, and a muster's; a phase that differs and one that does not, with an expired bound; a counter that is
reached; a word that compares. -/
def objRows : List (FormX × ObjMod) :=
  [(⟨g, 6, 2, 8, 0, 0, true⟩, ⟨0, false, false, 4⟩), (⟨g, 6, 12, 8, 0, 0, true⟩, ⟨0, false, true, 0⟩), (⟨g, 0xF3, 0xF3, 8, 0, 3, false⟩, ⟨1, true, false, 0⟩)]

theorem witness_Arrivals : (objRows.all fun p => let f := p.1; let o := p.2; let q := sq 0; let s := mach q;
    passes (q.exe.chkUniDst 0 false f.p) && passes (Chip.chkObjCodes q f o (.ok ())) && passes (s.chip.chkObj q f o) && q.exe.acting f.g != 0 && (s.chip.objAt q f o).toOption.isSome && !s.chip.acquiring q (q.exe.acting f.g) &&
      !q.pennantFull (q.exe.pennant f.ps) && !s.chip.regionHeld q && s.ready q [0] (regsObj f o false) && s.ready q [0] (regsObj f o true) &&
      passes (q.exe.chkUni 2 false f.s)) = true := by decide +kernel

theorem witness_Waits :
    (objRows.all fun p => let f : FormX := { p.1 with p := 7 }; let o := p.2; let q := sq 0; let s := mach q; let c := (s.chip.commitRegion 0).waitFill q (.barWait f o);
      q.exe.flags.length == 7 && q.exe.acting f.g != 0 && s.ready q [0] ((if o.form then [] else uniRegs true f.q) ++ uniRegs false f.s) &&
        passes (s.chip.chkBarWait q f o) && passes (c.chkBarWait q f o) && !s.chip.regionHeld q &&
        match c.objAt q f o with
        | .ok ls => !c.openFor q f.g ls && !c.earlierOrdered (.squad 0) c.nextId (q.exe.acting f.g) && !c.inCopy ls && (c.barObj ls).phase == q.exe.uniVal false 8 && (c.barObj ls).phase != q.exe.uniVal false 6 &&
            (({ c with dev := c.dev.setLe 0x51800 16 (2 ^ 97) } : Chip).barObj ((List.range 16).map fun i => .dev (0x51800 + i))).remote
        | .error _ => false) = true ∧
    (let q : Squad := { sq 0 with waitTested := true, waitExpired := true, region := some { hdrAt := 0x10000, pos := 0, mask := 0xFF } };
      let f : FormX := ⟨g, 0, 2, 6, 0, 3, false⟩;
      let s : State := { mach q with chip := { (mach q).chip with dev := (mach q).chip.dev.setLe 0x51000 4 513 } };
      let b := s.chip.commitRegion 0;
      let c := s.chip.modCore 0 fun k => { k with slots := k.slots.map fun x => { x with issue := 0x11000, done := 0x11000 } };
      q.waitMet = none ∧ b.earlierOrdered (.squad 0) b.nextId (q.exe.acting f.g) = false ∧ s.chip.regionHeld q = false ∧ s.ready q [0] (uniRegs true f.q) = true ∧ passes (s.chip.chkTwait q f) = true ∧
      passes (b.chkTwait q f) = true ∧
      ((b.core 0).slots.getD 3 {}).done < q.exe.uniVal true f.q ∧ ((c.core 0).slots.getD 3 {}).done = q.exe.uniVal true f.q ∧
      s.ready q [0] (uniRegs true f.q ++ uniRegs false f.s) = true ∧ passes (Chip.chkWext q f 4) = true ∧ q.exe.uniVal true f.q < 2 ^ 56 ∧ q.exe.uniVal true f.q % 4 = 0 ∧
      ([Cond.ge, .lt].all fun k => let b := b.waitFill q (.wext f 4 k);
        match b.xl 0 0 { r := true } (q.exe.uniVal true f.q) 4 with
        | .ok ls => !b.openFor q f.g ls && !b.earlierOrdered (.squad 0) b.nextId (q.exe.acting f.g) && !b.inCopy ls && !b.anyBad ls &&
            intCond k (signed 32 (ofLe (b.readLocs ls))) 16 == (k == .ge)
        | .error _ => false) = true) ∧
    ([(Cond.lt, false), (.ge, true)].all fun p =>
      let i : Instr := .wext ⟨g, 2, 2, 8, 0, 0, false⟩ 4 p.1;
      let s := atHeader { sq 0 with waitTested := true } (bootHeader 0) ((encode i).getD 0).toNat;
      let c : Chip := { s.chip with ctxs := modAt s.chip.ctxs 0 fun _ => some { bootCtx with extwait := 5 } };
      match c.squads with
      | [q] => q.waitTested && c.squad? 0 == some q && ((c.ctx? 0).map Ctx.extwait) == some 5 && (match c.waitingAt q with
        | some (d, j) => j == i && (match c.testWait d j, p.2 with
          | .unmet e, false => e
          | .met _, true => true
          | _, _ => false)
        | none => false)
      | _ => false) = true := by decide +kernel

/-- AccessPrograms: a counter that comes to 0 and one that does not; the modes of `aidx`; a read into the entry being filled, into a new one and into an empty
queue; a store from the oldest entry, and from a queue that is done. -/
def thq : QThread := { th with exe := { th.exe with active := 1, mslots := [some 0, some 1, none, none], regs := [(32 * 4, 1), (32 * 8, 32), (32 * 12, 0x11000)] } }
def machQ (t : QThread) (x : Queue) : State :=
  let s := machT t;
  { s with chip := s.chip.modCore 0 fun k => { k with queues := k.queues.set 15 { x with launch := 0, muster := 0, ctx := 0, thread := 0 } } }

theorem witness_AccessPrograms :
    (let s := machT thq;
      s.readyThread 0 0 thq = true ∧ thq.exe.active = 1 ∧ passes (thq.exe.chkSrc 0 (.gen false) 4) = true ∧ passes (thq.exe.chkDst (.gen false) 4) = true ∧
      thq.exe.guard g 0 = true ∧ thq.exe.guard ⟨true, 7⟩ 0 = false ∧ thq.exe.src false 4 0 = 1 ∧ thq.exe.src false 8 0 = 32 ∧ passes (thq.exe.chkR fr useAgen) = true ∧
      ([AidxMode.modulo, .hash, .table].all fun k => passes (thq.exe.chkR fr (useAidx k))) = true) ∧
    (let d : QThread := { thq with table := some 0 };
      let s := machT d;
      let c := s.chip.modCore 0 fun k => { k with windows := [{ launch := 0, muster := 0, base := 0, lines := 128, check := 0 }] };
      (c.tableWord 0 d 4095).toOption = some (some 0)) ∧
    (let f : FormX := ⟨g, 12, 15, 7, 0, 0, false⟩;
      let e : QEntry := { num := 0, fill := 120, out := [(112, 8)] };
      ([{ state := .loadOpen }, { state := .loadOpen, entries := [e], next := 1 }, { state := .loadOpen, entries := [{ e with fill := 121 }], next := 1 }].all fun (x : Queue) =>
        let s := machQ thq x;
        s.readyThread 0 0 thq && passes (thq.exe.chkSrc 0 (.gen true) f.p) && decide (s.chip.quarryReads 0 < 256) && (s.chip.queue 0 15).state == .loadOpen &&
          (match s.chip.threadAt 0 thq false false (thq.exe.src true f.p 0) 8 with
            | .ok (.inl _) => true
            | _ => false)) = true ∧
      ([{ state := .scatterOpen, entries := [{ e with out := [] }], next := 1 }, { state := .draining }, { state := .closed }].all fun (x : Queue) =>
        let s := machQ thq x;
        s.readyThread 0 0 thq && (s.chip.queue 0 15).state == x.state && ((s.chip.queue 0 15).atHead true 128).entries.length == x.entries.length &&
          (match s.chip.threadAt 0 thq true true (thq.exe.src true 14 0) 128 with
            | .ok (.inl _) => true
            | _ => false)) = true) := by decide +kernel

/-- Quarry: entries to take, to peek at and none; a queue that takes words, that is full but for a reserved slot, and that is shut; a start command with a table and
without; its taking by the lowest and the last thread, and a refusal; a thread's clause; a landed read; a start that is complete. -/
def squadQ (q : Squad) (x : Queue) : State :=
  let s := mach q;
  { s with chip := s.chip.modCore 0 fun k => { k with queues := k.queues.set 15 { x with launch := 0, muster := 0, ctx := 0, thread := 0 } } }
def popRow : FormX := ⟨g, 4, 15, 7, 0xF3, 3, false⟩
def startCmd : QStart := { ctx := 0, launch := 0, muster := 0, slot := 3, num := 1, entry := 0x10000, args := [1, 2], loads := [15], scatters := [0], table := none, mslots := [some 0, some 1, none, none], hdrAt := 0 }

theorem witness_Queues :
    (let q : Squad := { sq 0 with qHold := some 3 };
      let x : Queue := { state := .loadOpen, entries := [{ num := 3, shut := true, reserved := true }], next := 4 };
      let s := squadQ q x;
      q.exe.flags.length = 7 ∧ q.exe.pos = 0 ∧ s.ready q [0] (codeRegs false 4) = true ∧ passes (s.chip.chkPop q popRow) = true ∧ (s.chip.queue 0 15).entries = x.entries) ∧
    ([{ state := .loadClosed }, { state := .faulted }].all fun (x : Queue) => (squadQ (sq 0) x).ready (sq 0) [0] (codeRegs false 4) && passes ((squadQ (sq 0) x).chip.chkPop (sq 0) popRow) &&
      (match ((squadQ (sq 0) x).chip.queue 0 15).popTest with
        | .none_ => true
        | _ => false)) = true ∧
    ([{ state := .scatterOpen, held := 63 }, { state := .draining }, { state := .closed }].all fun (x : Queue) => (squadQ (sq 0) x).ready (sq 0) [0] (codeRegs false 4) &&
      passes ((squadQ (sq 0) x).chip.chkPush (sq 0) popRow) && (squadQ (sq 0) x).chip.queueFor (sq 0) 15 false && ((squadQ (sq 0) x).chip.queue 0 15).state == x.state) = true ∧
    ([8, 0xF3].all fun (t : Code) => let f : FormX := ⟨g, 8, 16, 6, t, 3, true⟩; let q := sq 0; let s := mach q;
      s.ready q [0] (uniRegs true f.p ++ blockRegs (256 + f.q.toNat) 8 ++ uniRegs false f.s ++ uniRegs false f.t) && passes (s.chip.chkStart q f 0) &&
        passes (q.exe.chkStartVals f) && !s.chip.acquiring q (q.exe.acting g) && !q.pennantFull (q.exe.pennant f.ps) && !s.chip.regionHeld q && !s.chip.earlier (.squad q.uid) s.chip.nextId (q.exe.acting g)) = true := by
  decide +kernel

theorem witness_QuarryEvents :
    ([0, 15].all fun t =>
      let s := mach (sq 0);
      let c := s.chip.modCore 0 fun k => { k with starts := [startCmd], threads := k.threads.mapIdx fun i _ => if i = t then none else some thq };
      let full := c.modCore 0 fun k => { k with queues := k.queues.set 15 { state := .loadOpen } };
      decide (0 < c.cores.length) && decide ((c.core 0).starts = [startCmd]) && (c.core 0).threads.length == 16 && (c.core 0).queues.length == 16 && (c.thread? 0 t).isNone &&
        ((List.range t).all fun k => (c.thread? 0 k).isSome) && !c.startRefused 0 startCmd && full.startRefused 0 startCmd) = true ∧
    (let d : QThread := { thq with exe := { thq.exe with inClause := false } };
      let s := machT d;
      let h := 3 * 2 ^ 60 + 15 * 2 ^ 56 + 0xFF * 2 ^ 36;
      let c : Chip := { s.chip with dev := s.chip.dev.setLe 0x50000 8 h };
      c.thread? 0 0 = some d ∧ c.threadStops 0 d = false ∧ d.exe.hdrAt % 8 = 0 ∧ c.failedIn d.id d.exe.hdrAt 8 = false ∧ (c.fetchWord 0 0 d.exe.hdrAt).toOption = some (BitVec.ofNat 64 h) ∧
      h / 2 ^ 60 = 3 ∧ h / 2 ^ 44 % 2 ^ 12 = 0 ∧ h / 2 ^ 36 % 2 ^ 8 = 0xFF ∧ h % 2 ^ 36 = 0) ∧
    (let r : Request := { req .load none (.done [1, 2, 3, 4]) with agent := .thread 0 0, queue := 15, entry := 0, fill := 124 };
      let s := squadQ (sq 0) { state := .loadOpen, entries := [{ num := 0, out := [(124, 4)], fill := 128 }, { num := 1 }], next := 2 };
      let c : Chip := { s.chip with requests := [r] };
      c.request? 3 = some r ∧ (c.queue 0 r.queue).cmd = r.cmd ∧ r.queue < (c.core 0).queues.length) ∧
    (let d : QDone := { id := 7, slot := 3, num := 1 };
      let c := (mach (sq 0)).chip.modCore 0 fun k => { k with ends := [d] };
      let late : Request := { req .load none .waiting with agent := .thread 0 0, cmd := 7, queue := 15, entry := 0 };
      (c.core 0).ends.find? (fun x => x.id == d.id) = some d ∧ c.requests = [] ∧ d.slot < (c.core 0).slots.length ∧
      late.kind = .load ∧ late.core = 0 ∧ (c.queue 0 late.queue).entries = []) := by decide +kernel

/-- A hoist record: 128 bytes of global memory at 0x11000 to offset 0x400 of the window, with a countdown at 0x11900. -/
def hoistRec : Nat := 0x11000 + 0x400 * 2 ^ 64 + 0x1190 * 2 ^ 132 + 127 * 2 ^ 192 + 2 ^ 210

/-- CopyIssues: the record above at scratch address 0; a ring tile of one line. -/
theorem witness_CopyIssues :
    (let q := sq 4;
      let s := mach q;
      let c := s.chip.modCore 0 fun k => { k with scratch := k.scratch.setLe 0 64 hoistRec };
      let f : FormX := ⟨g, 8, 10, 0, 0, 3, false⟩;
      q.exe.acting f.g ≠ 0 ∧ (c.acquiring q (q.exe.acting g) = false ∧ q.pennantFull (q.exe.pennant f.ps) = false ∧ c.regionHeld q = false ∧
        c.earlier (.squad q.uid) c.nextId (q.exe.acting g) = false) ∧
      s.ready q [4] (uniRegs false f.p) = true ∧ passes (q.exe.chkUni 0 false f.p) = true ∧ c.slotHeld q 3 = true ∧ q.exe.uniVal false f.p % 64 = 0 ∧
      (c.scratchAt 0 q.launch q.exe.mslots 0 64).isSome = true ∧ Sparse.get false (c.core 0).absent 0 = false ∧
      ofLe ((List.range 64).map fun i => (c.commitRegion q.uid).byteAt (.scr 0 i)) = hoistRec ∧ c.shapeOk q hoistRec = true ∧
      s.ready q [4] (uniRegs false f.p ++ uniRegs false f.q) = true ∧ passes (c.chkRrot q f 1) = true ∧ q.exe.mslots.getD 1 none = some 1 ∧ q.exe.uniVal false f.q = 128 ∧
      (c.scratchAt 0 q.launch q.exe.mslots 0 128).isSome = true) := by decide +kernel

/-- CopiesLand: the record of `hoistRec` as a command, its line, and its completion; one that meets a page without rights, its barrier object's page present or not, and one whose
countdown is still owed; a ring round that can start, one whose lengths differ, one that cannot start, one whose context leaves, and a tile's last line. -/
def hoistCmd : HoistCmd := { id := 5, core := 0, ctx := 0, launch := 0, slot := 3, num := 1, hdrAt := 0, record := hoistRec, srcBase := 0, dstBase := 0, barBase := 0 }
def ringReq (n : Nat) : RingReq := { id := 20 + n, core := n, ctx := 0, launch := 0, muster := 1, round := 1, slot := 3, num := 1, hdrAt := 0, tile := 512, pos := 512, len := 128 }

theorem witness_CopiesLand :
    (let h := hoistCmd;
      let c := (mach (sq 4)).chip.modCore 0 fun k => { k with hoists := [h] };
      c.hoist? 5 = some h ∧ (c.core 0).hoists.find? (fun x => x.id == 5) = some h ∧ c.hoistWorks h = true ∧ shapeMoves h.record = true ∧ h.lines = [8] ∧
      (match c.hoistLine h 8, c.hoistBar h with
        | .ok ms, .ok bar => !c.inCopy (ms.map (·.1) ++ ms.map (·.2.2)) && ms.length == 128 && ms.map (·.2.1) == List.range' 0x400 128 && ms.map (·.2.2) == (List.range 128).map (fun i => Loc.scr 0 (0x400 + i)) && bar.length == 16
        | _, _ => false) = true ∧ c.updates = [] ∧
      (let d : Chip := { c with dev := c.dev.setLe 0x40028 8 (0x50000 + 0x19) };
        let near : HoistCmd := { h with record := hoistRec + 0x40000 };
        let far : HoistCmd := { h with record := hoistRec + 0x40000 + (0x3000 - 0x1190) * 2 ^ 132 };
        let owes : HoistCmd := { h with faulted := true, owed := 128 };
        (d.hoistError near).isSome && (d.hoistBar near).toBool && (d.hoistError far).isSome && d.hoistWorks owes && (match d.hoistBar far, d.hoistBar owes with
          | .error (.absent _, _, _), .ok bar => !bar.isEmpty
          | _, _ => false)) = true) ∧
    (let s := mach (sq 4);
      let c : Chip := { s.chip with rings := (List.range 4).map ringReq };
      c.ringWaiting 0 1 = [ringReq 0, ringReq 1, ringReq 2, ringReq 3] ∧ c.clusterOf 0 = some (0, 0) ∧ (c.rings.map (·.id)).Nodup ∧
      c.clusterCores 0 = [(0, 0), (1, 1), (2, 2), (3, 3)] ∧ (∀ n ∈ c.clusterCores 0, (∃ x ∈ c.rings, x.core = n.1) ∧ (c.core n.1).preempt ≠ some 0) ∧
      (let d : Chip := { s.chip with rings := [ringReq 0, { ringReq 1 with len := 256 }, ringReq 2, ringReq 3] };
        (d.ringWaiting 0 1).map (·.len) = [128, 256, 128, 128] ∧ (d.rings.map (·.core)).Nodup ∧
          ((d.modCore 2 fun k => { k with preempt := some 0 }).core 2).preempt = some 0)) ∧
    (let s := mach (sq 4);
      let c : Chip := { s.chip with rings := [ringReq 0] };
      c.ringWaiting 0 1 = [ringReq 0] ∧ c.membersOut 0 1 = true ∧ c.memberOn 0 1 3 = false ∧ (3, 3) ∈ c.clusterCores 0) ∧
    (let r : RingReq := { ringReq 0 with len := 256, started := true, incoming := List.replicate 256 7, landed := [0] };
      r.landed.length + 1 = r.len / 128 ∧ (1 ∉ r.landed) ∧ r.incoming.length = r.len) := by decide +kernel

/-- A squad with handles h0 to h3 on banks 0 to 3: two dense and two hash banks under a scalar table, and a machine with them. -/
def sqB (cls : Nat) : Squad := { sq cls with handles := [some 0, some 1, some 2, some 3] ++ List.replicate 12 none }
def table0 : Table := { first := 2, block := false, n := 1, base := 0x12000, capacity := 4 }
def bench0 : Bench := { accValid := true, modes := [.dense, .dense, .hash, .hash] ++ List.replicate 12 .free, tables := [table0] }
def machB (q : Squad) (b : Bench) : State := let s := mach q; { s with chip := s.chip.modBench 0 0 fun _ => b }

/-- Banks: the fewest and the most banks to acquire, banks to free, to zero and to access at both ends of a row; a service; a bench to spill. -/
theorem witness_Banks :
    (let q := sqB 1;
      let s := machB q bench0;
      0 < s.chip.benches.length ∧ (s.chip.benchOf q) = bench0 ∧ bench0.modes.length = 16 ∧ q.handles.length = 16 ∧ (∀ i, i < 16 → ∀ b, q.bank i = some b → b < 16) ∧
      bench0.service = none ∧ bench0.accCtx = q.exe.ctx ∧ s.ready q [1] [] = true ∧ q.exe.acting g ≠ 0 ∧ q.exe.pos = 0 ∧ (∀ i, i < 12 → q.bank (4 + i) = none) ∧
      ((List.range 16).filter fun i => bench0.modes.getD i .free == .free).length = 12 ∧ s.chip.acqTurn q = true ∧ q.banks 0 2 = some [0, 1] ∧ q.banks 2 2 = some [2, 3] ∧
      s.chip.tableOver q 0 = none ∧ (s.chip.tableOver q 3).map (·.2) = some table0) ∧
    ([(1, 31), (32, 0)].all fun p => let q := sqB 1; let s := machB q bench0;
      s.ready q [1] (blockRegs 0 p.1) && passes (q.exe.chkBase ⟨g, 0, 0xF3, 0xF3, 0xF3, 0, false⟩) && decide (p.2 + p.1 ≤ 32)) = true ∧
    (let b : Bench := { bench0 with service := some 0, accValid := false };
      let s := machB (sqB 1) b;
      (s.chip.bench 0 0).service = some 0 ∧ s.chip.hasSaved 0 0 0 = false ∧ b.drains = [] ∧ (∀ y ∈ b.tables, y.running = none) ∧ s.chip.ctx? bench0.accCtx = some bootCtx) := by
  decide +kernel

/-- Position codes 0, 1, 2, 3 in each of the 32 groups of lane 0, in the registers from 200 on. -/
def codeRegs012 : Sparse Word :=
  let v := ((List.range 32).map fun i => 0x688 * 2 ^ (12 * i)).sum;
  (List.range 12).map fun k => (32 * (200 + k), BitVec.ofNat 32 (v / 2 ^ (32 * k)))

/-- MatrixInstructions: `mma` of FP8 from registers with 32 lanes, from scratch under an armed ensign of one lane, and `mmas`; `mldt` whose columns lie in the window; `accst` of
bytes to scratch. -/
theorem witness_mma :
    ([(false, false, false, sqB 1), (false, true, true, { sqB 1 with ensigns := [{ isOpen := true, armed := true, cont := 0x10000, set := 0x80000000 }, {}, {}, {}] }),
      (true, false, false, { sqB 1 with exe := { (sqB 1).exe with active := 1, regs := (32 * 40, 0x800) :: codeRegs012 } })].all fun (p : Bool × Bool × Bool × Squad) =>
      let m : MmaMod := ⟨p.2.2.1, false, p.2.1, 0⟩;
      let q : Squad := { p.2.2.2 with exe := { p.2.2.2.exe with uni := [] } };
      let s := machB q bench0;
      let f : FormX := ⟨g, if p.2.2.1 then 6 else 64, 96, 40, 200, 0, false⟩;
      let S : LaneMask := if p.2.1 then (q.ensigns.getD 0 {}).set else q.exe.active;
      s.ready q [1] (regsMma f m p.1) && passes (q.exe.chkMma f m p.1) && S != 0 && ((List.range 32).all fun l => !S.getLsbD l || q.exe.guard f.g l) &&
        !q.pennantFull (q.exe.pennant f.ps) && (match s.chip.mmaChecks q f m p.1 S with
        | .ok (b, _, va, vb) => decide (b < 16) && s.chip.present ((va.getD []) ++ (vb.getD [])).flatten && !s.chip.openAt q S ((va.getD []) ++ (vb.getD [])).flatten &&
          !s.chip.acquiring q S && !s.chip.blocked q.uid (blockRegs (f.s.toNat + 1) 4) &&
          (va.getD [] ++ vb.getD []).all fun v => (s.chip.raceAt q.place v).isNone
        | .error _ => false)) = true := by decide +kernel

theorem witness_mldt :
    ([0, 1, 2].all fun (es : BitVec 2) => let f : FormX := ⟨g, 8, 14, 64, 0xF3, 0, false⟩; let q := sqB 1; let s := machB q bench0;
      s.ready q [1] (uniRegs false f.p ++ uniRegs false f.q ++ blockRegs f.s.toNat 32) && passes (q.exe.chkUni 0 false f.p) && passes (q.exe.chkUni 1 false f.q) &&
        decide (f.s.toNat + 32 ≤ q.exe.declared) && !s.chip.acquiring q (q.exe.acting g) && !q.pennantFull (q.exe.pennant f.ps) && (q.exe.mslots.getD 0 none).isSome &&
        (match s.chip.mldtLane q 0 0 (2 ^ es.toNat) 31 with
          | some rs => rs.all fun r => (s.chip.raceAt q.place r.2).isNone
          | none => false)) = true := by decide +kernel

/-- The scratch bytes of a bank's rows, one after another. -/
def rowLocs : List (List Loc) := (List.range 32).map fun i => (List.range 32).map fun j => Loc.scr 0 (32 * i + j)

theorem witness_accst :
    (let f : FormX := ⟨g, 8, 62, 8, 0xF3, 0, false⟩;
      let q : Squad := { sqB 1 with exe := { (sqB 1).exe with uni := [(62, 32)] } };
      let s := machB q bench0;
      s.ready q [1] (uniRegs false f.p ++ uniRegs false f.q ++ uniRegs false f.s) = true ∧ passes (q.exe.chkAccst f true 3 4 0) = true ∧ q.bank 0 = some 0 ∧
      (accFmt 3).bytes = 1 ∧ q.exe.uniVal false f.p = 0 ∧ q.exe.uniVal false f.q = 32 ∧
      (match s.chip.accRows q true 0 32 1 with
        | .ok rows => rows == rowLocs
        | .error _ => false) = true ∧
      s.chip.acquiring q (BitVec.allOnes 32) = false ∧ q.pennantFull (q.exe.pennant f.ps) = false ∧ s.chip.regionHeld q = false ∧ s.chip.requests = [] ∧ (s.chip.core 0).race = [] ∧
      s.chip.openAt q (BitVec.allOnes 32) rowLocs.flatten = false) := by decide +kernel

/-- The checks of `joinFits` that a list of locations meets. -/
def fits (s : State) (q : Squad) (t : Table) (ks : List Nat) (limit : Nat) (xs : List (Nat × List Nat)) (ls : List (List Loc)) : Bool :=
  let sp := (xs.foldl (probeInto ks limit) (s.chip.benchOf q, t, [])).2.2
  decide (t.count + sp.length ≤ t.capacity) && !s.chip.acquiring q (BitVec.allOnes 32) && !s.chip.openAt q (BitVec.allOnes 32) ls.flatten && !s.chip.inCopy ls.flatten && ls.length == sp.length && decide ls.flatten.Nodup &&
    (List.range sp.length).all fun i => (s.chip.xlFor q.uid q.place.core q.exe.ctx { w := true } (t.base + (t.count + i) * t.recBytes) t.recBytes).toOption == some (ls.getD i []) &&
      (ls.getD i []).length == t.recBytes

/-- JoinInstructions: a scalar and a block table to open; insertions that find slots, and one that spills; the other rows on a table. -/
theorem witness_JoinInstructions :
    (let q := sqB 2;
      let s := machB q bench0;
      ([(2, false, 1), (2, true, 0)].all fun (p : Nat × Bool × BitVec 3) => let b : Bench := { bench0 with modes := List.replicate 4 .dense ++ List.replicate 12 .free, tables := [] };
        (machB q b).ready q [2] (uniRegs true 2 ++ uniRegs false 6) && passes (q.exe.chkUni 0 true 2) && passes (q.exe.chkUni 1 false 6) && (q.banks 2 (2 ^ p.2.2.toNat)).isSome &&
          decide (q.exe.uniVal true 2 % (if p.2.1 then 64 else 8) = 0)) = true ∧
      s.chip.tableAt q 2 = some table0 ∧ s.ready q [2] (uniRegs false 62) = true ∧ passes (q.exe.chkUniDst 0 false 62) = true ∧ table0.draining = false ∧
      s.ready q [2] (codeRegs false 12 ++ codeRegs false 14) = true ∧ s.ready q [2] [] = true ∧ s.ready q [2] (uniRegs true 2 ++ uniRegs false 6) = true ∧
      s.chip.slotHeld q 3 = true ∧ table0.stopped = false ∧ s.chip.acquiring q (q.exe.acting g) = false ∧ s.chip.earlier (.squad 0) s.chip.nextId (q.exe.acting g) = false ∧
      (let e : Exe := { q.exe with active := 0x80000001 };
        let xs := ((List.range 32).filter fun l => e.takesPart g l).map fun l => (e.src false 12 l, [widen .f32 (e.src false 14 l)]);
        xs.length = 2 ∧ fits s q table0 [2, 3] 16 xs [] = true) ∧
      fits s q table0 [2, 3] 16 [(0xFFFFFFFF, [1])] [(List.range 8).map fun i => .dev (0x52000 + i)] = true) := by decide +kernel

/-- An entry of 16 records with the keys of a list, and a machine with two such queues. -/
def entryOf (n : Nat) (ks : List Nat) : QEntry := { num := n, shut := true, fill := 128, bytes := ks.flatMap fun k => leBytes 8 (k * 2 ^ 48 + 0x3F800000) }
def machJ (q : Squad) (b : Bench) (xs ys : List QEntry) : State :=
  let s := machB q b;
  let qu := fun (es : List QEntry) => ({ state := .loadClosed, entries := es, next := 9, ended := true } : Queue);
  { s with chip := s.chip.modCore 0 fun k => { k with queues := (k.queues.set 0 (qu xs)).set 15 (qu ys) } }

/-- JoinRuns: a run that begins, one that takes up a stopped one in the middle of its head entry, and one that goes on; a stop request; two ends; a key that the other stream has passed; two groups that meet, of a scalar table
and of a block table with its tiles in scratch. -/
theorem witness_JoinRuns :
    (let q := sqB 2;
      let f : FormX := ⟨g, 0, 15, 7, 0xF3, 2, false⟩;
      let low := entryOf 0 (List.range' 1 16);
      let high := entryOf 0 (List.range' 20 16);
      let ok := fun (tb : Table) (xs ys : List QEntry) =>
        let s := machJ q { bench0 with tables := [tb] } xs ys;
        s.ready q [2] (uniRegs true f.t) && passes (q.exe.chkJrun f) && s.chip.tableAt q f.handle == some tb && q.exe.flags.length == 7 && (s.chip.core 0).queues.length == 16 &&
          passes (s.chip.jrunCheck q f .f32 tb) && !s.chip.stopRequest q &&
          let qa := (s.chip.queue 0 0).reserveHead (0, 2); let qb := (s.chip.queue 0 15).reserveHead (0, 2);
          qa.noMore (0, 2) && qb.noMore (0, 2) && (qa.recs (0, 2) 0).isEmpty == xs.isEmpty && (qb.recs (0, 2) 0).isEmpty == ys.isEmpty;
      ok table0 [] [] = true ∧ ok { table0 with running := some 16 } [low] [] = true ∧ ok table0 [] [low] = true ∧ ok table0 [low] [high] = true ∧ ok table0 [low] [low] = true ∧
      (let s := machJ q { bench0 with tables := [{ table0 with stopped := true, queueA := 0, offA := 2 }] } [{ low with reserved := true, join := some (0, 2) }] [low];
        (∃ x ∈ (s.chip.queue 0 0).entries, x.join = some (0, 2)) ∧ (∀ x ∈ (s.chip.queue 0 15).entries, x.join ≠ some (0, 2)) ∧
        (((s.chip.queue 0 0).reserveHead (0, 2)).recs (0, 2) 2).map (·.key) = List.range' 3 14) ∧
      ((headGroup low.records).map (·.key) = [1] ∧ (headGroup high.records).map (·.key) = [20]) ∧
      (let s := machJ q bench0 [low] [low];
        fits s q table0 [2, 3] 16 (((headGroup low.records).flatMap fun x => (headGroup low.records).map fun y => (x, y)).map fun p =>
          (p.1.coord * 2 ^ 16 + p.2.coord, [mul32 (widen .f32 p.1.payload) (widen .f32 p.2.payload)])) []) = true ∧
      (let tb : Table := { table0 with block := true };
        let tile : QEntry := { low with bytes := (List.range' 1 16).flatMap fun k => leBytes 8 (k * 2 ^ 48) };
        let k : FormX := { f with t := 24 };
        let s := machJ q { bench0 with tables := [tb] } [tile] [tile];
        s.ready q [2] (uniRegs true k.t) && passes (q.exe.chkJrun k) && s.chip.tableAt q k.handle == some tb && passes (s.chip.jrunCheck q k .f32 tb) &&
          !s.chip.acquiring q (q.exe.acting k.g) && match headGroup tile.records with
          | [x] => (match s.chip.tileVectors q k x x with
            | .ok (va, vb) => s.chip.present (va ++ vb).flatten && !s.chip.openAt q (q.exe.acting k.g) (va ++ vb).flatten && (va ++ vb).all (fun v => (s.chip.raceAt q.place v).isNone) &&
              fits s q tb [2, 3] 16 [(0, va.flatMap fun a => vb.map fun b => matElem 0 [] (vecElems (matFmt 0) (s.chip.readOver q.region a)) (vecElems (matFmt 0) (s.chip.readOver q.region b)) 0)] []
            | .error _ => false)
          | _ => false) = true ∧
      (machB q { bench0 with service := some 1 }).chip.stopRequest q = true) := by decide +kernel

/-- ProbesAndDrains: a walk that meets its key at the last step, an empty slot at the first, and neither; a drain of one key of the table and one spill, with room and without. -/
theorem witness_ProbesAndDrains :
    (let t : Table := { table0 with n := 0 };
      let s0 := HASH 5 10;
      let b : Bench := { bench0 with keys := Sparse.set 0xFFFFFFFF (Sparse.set 0xFFFFFFFF [] (2048 + s0 % 1024) 6) (2048 + (s0 + 1) % 1024) 5 };
      t.block = false ∧ b.key 2 (s0 % 1024) = 6 ∧ b.key 2 ((s0 + 1) % 1024) = 5 ∧ bench0.key 2 (s0 % 1024) = 0xFFFFFFFF) ∧
    ([1, 2].all fun cap =>
      let t : Table := { table0 with count := 1, draining := true };
      let d : Drain := { id := 7, first := 2, banks := [2, 3], out := 0x13000, capacity := cap, slot := 3, num := 1, ctx := 0, hdrAt := 0 };
      let s := machB (sqB 2) { bench0 with tables := [t], drains := [d], keys := [(2048, 9)], vals := [(2048, 0x3F800000)] };
      let c : Chip := { s.chip with dev := s.chip.dev.setLe 0x52000 8 0x3F80000000000004 };
      c.copying.isEmpty && c.drain? 7 == some (0, 0, d) && (c.bench 0 0).tables.find? (fun y => y.first == 2) == some t && (match c.spoils 7 0 0 t with
        | .ok sp => sp == [(4, [0x3F800000])] && (let all := drainAll ((c.bench 0 0).held t [2, 3]) sp;
          all.map (·.1) == [4, 9] && (match c.drainWrite 7 0 0 t d.out 0 (all.take cap) with
            | (_, w, none) => w == cap
            | _ => false))
        | .error _ => false)) = true := by decide +kernel

/-- A machine of node 0 in a fabric: node 1 is reached, window 0 of peer 0 names entry 2 there, and its own entry 16 exposes the mapped page. -/
def expo16 : Expo := { base := 0x10000, key := 5, size := 16, ctx := 0, state := 1, signal := true, reduce := true, atomic := true, write := true, read := true }
def machF (q : Squad) (e : Expo) : State :=
  let s := mach q;
  { s with
    chip := { s.chip with
      fab := { s.chip.fab with
        tlb := [{ die := 0, ctx := 0, peer := 0, win := 0, pe := 2 ^ 63 + 2 ^ 49, we := 2 ^ 63 + 2 * 2 ^ 48 + 5 * 2 ^ 32 + 16 * 2 ^ 26 }]
        routes := [(1, BitVec.ofNat 32 (2 ^ 31 + 4 * 2 ^ 20 + 5))], expo := s.chip.fab.expo.set 16 e
        groups := s.chip.fab.groups.set 0 (some { offset := 0x1000, key := 5, index := 16, rank := 1, root := 0, count := 2 }) }
      dev := s.chip.dev.setLe 0x51000 16 (2 ^ 56 + (2 ^ 56 + 32) * 2 ^ 64) } }

/-- A squad for engine commands: s14 holds 1, s20 a 64 KiB boundary, s22 the least window descriptor. -/
def sqF : Squad := { sq 4 with exe := { (sq 4).exe with uni := [(2, 0x11000), (5, 0x1000000), (6, 16), (10, 128), (12, 512), (14, 1), (20, 0x10000), (22, 12 * 65536)], active := 0x80000001 } }

/-- FabricCommands: atomics of both widths, with a return and without; puts of every side; a multicast of one entry; a get to scratch and to memory; a contribution; an entry
closed, open and in flight; a flush. -/
theorem witness_FabricCommands :
    (let q := sqF;
      let s := machF q {};
      q.exe.acting g ≠ 0 ∧ s.chip.acquiring q (q.exe.acting g) = false ∧ s.chip.regionHeld q = false ∧ s.chip.hasWc q = false ∧ s.chip.earlier (.squad 0) s.chip.nextId (q.exe.acting g) = false ∧
      q.pennantFull (q.exe.pennant true) = false ∧
      ([(true, false), (false, true)].all fun (p : Bool × Bool) => let f : FormX := ⟨g, 20, 16, 22, 24, 0, true⟩;
        let m := fabMem f 3 (.atom (fatomOp .maxS p.1) (!p.2)) (casTy p.1);
        s.ready q [4] (fabRegs f p.1 (!p.2) false) && passes (m.chkFab f false q.exe) && s.ready q [4] (fabRegs f p.1 true true) &&
          passes ((fabMem f 3 (.cas p.1) (casTy p.1)).chkFab f true q.exe) && [0, 31].all fun l => match s.chip.lane q m l with
            | .peer a => a == { peer := 0, node := 1, index := 2, key := 5, off := 8 * l }
            | _ => false) = true ∧
      ([false, true].all fun scr => let f : FormX := ⟨g, 4, if scr then 12 else 2, 10, 4, 3, true⟩;
        s.ready q [4] (uniRegs true f.p ++ localRegs scr f.q ++ uniRegs false f.s ++ uniRegs true f.t) && passes (s.chip.chkPut q f scr) &&
          passes (q.exe.chkPutVals f true true scr) && (s.chip.putSides q 3 (q.exe.uniVal true f.p) 128 (some (q.exe.uniVal true f.t)) true).toOption.isSome &&
          (let f : FormX := ⟨g, 2, if scr then 12 else 2, 10, 14, 3, true⟩;
            s.ready q [4] (uniRegs true f.p ++ localRegs scr f.q ++ uniRegs false f.s ++ uniRegs true f.t) && passes (s.chip.chkMcast q f scr) &&
              passes (q.exe.chkMcastVals f true scr) && match (s.chip.commitRegion 0).mcastList q 0x11000 1 with
                | .ok xs => xs == [(2 ^ 56, 2 ^ 56 + 32)] && passes (q.exe.chkEntries true true xs) &&
                  (xs.mapM fun x => (s.chip.commitRegion 0).putSides q 0 x.1 128 (some x.2) true).toOption.isSome
                | .error _ => false) &&
          (let f : FormX := ⟨g, 4, if scr then 12 else 2, 10, if scr then 8 else 2, 3, true⟩;
            s.ready q [4] (uniRegs true f.p ++ localRegs scr f.q ++ uniRegs false f.s ++ localRegs scr f.t) && passes (s.chip.chkGet q f scr scr) &&
              passes (q.exe.chkGetVals f scr scr) && s.chip.homeIn q f scr && (s.chip.fabAt q (q.exe.uniVal true f.p) 128).toOption.isSome) &&
          (let f : FormX := ⟨g, 8, if scr then 12 else 2, 10, 4, 3, true⟩;
            s.ready q [4] (uniRegs false f.p ++ localRegs scr f.q ++ uniRegs true f.s ++ uniRegs true f.t) && passes (s.chip.chkRed q f scr) &&
              passes (q.exe.chkRedVals f true scr (fredCode .faddBf16) s.chip.fab.groups) && (s.chip.fabAt q (q.exe.uniVal true f.t) 16).toOption.isSome)) = true) := by
  decide +kernel

/-- FabricCommands: aperture accesses of every kind that issue; a mask of several runs; a store that joins an entry, one that fills it, one that opens an entry with room and with 64. -/
theorem witness_Aperture :
    ([Instr.ld (fm 16 true) .s8, .st (fm 16 true) .z64, .atom (fm 16 false) .add64, .red (fm 16 true) .fadd, .cas (fm 16 false) false, .stTry (ft 16) .z32].all fun i =>
      let q := sq2 0; let s := machF q {};
      match memOpOf i with
      | some m => memOk s q m && m.space == .glob && !s.chip.regionHeld q && !s.chip.earlier (.squad 0) s.chip.nextId (q.exe.acting m.g) && s.chip.requests.isEmpty &&
          [0, 31].all fun l => (match s.chip.lane q m l with
            | .peer a => a == { peer := 0, node := 1, index := 2, key := 5, off := 8 * l + if m.addr == 16 then m.ea q.exe 0 % 2 ^ 24 else 0 }
            | _ => false) && !s.chip.unsupported q.exe.ctx m.kind m.size (s.chip.laneVa q m l) (s.chip.lane q m l)
      | none => false) = true ∧
    maskRuns 0 ([true, true, false, true] ++ List.replicate 124 false) = [(0, 2), (3, 1)] ∧
    (let a : FabAddr := { peer := 0, node := 1, index := 2, key := 5, off := 0x1008 };
      let w : WcEntry := { id := 5, ctxs := [0], node := 1, index := 2, key := 5, line := 0x20, va := 2 ^ 56, bytes := List.replicate 128 7, mask := List.replicate 4 false ++ List.replicate 124 true };
      let c := (machF (sq 0) {}).chip.modCore 0 fun k => { k with wc := [w] };
      let other : WcEntry := { w with line := 0x21 };
      a.off % 128 + 8 ≤ 128 ∧ a.off / 128 = w.line ∧ w.bytes.length = 128 ∧ w.mask.length = 128 ∧ w.id < c.nextId ∧ w.mask.getD 0 true = false ∧
        (∃ i, i < 8 ∧ ({ a with off := 0x1000 } : FabAddr).off % 128 + i = 3) ∧ other.line ≠ a.off / 128 ∧ (List.replicate 64 other).length = 64) := by decide +kernel

theorem witness_Windows :
    ([0, 1, 2].all fun st => let q := sqF; let f : FormX := ⟨g, 6, 20, 22, 0xF3, 3, true⟩;
      [0, 1].all fun inFlight => let s := machF q { expo16 with state := st, inFlight };
        s.chip.fab.wins.isEmpty && s.chip.fab.expo.length == 256 && s.ready q [4] (uniRegs false f.p ++ uniRegs true f.q ++ uniRegs false f.s) &&
          passes (s.chip.chkWin q f true) && passes (s.chip.chkWinVals q.exe f true) && passes (s.chip.chkWin q f false) && passes (s.chip.chkWinVals q.exe f false) &&
          (s.chip.fab.expo.getD 16 {}).state == st && ((s.chip.ctx? 0).map fun k => k.closing.isNone) == some true) = true ∧
    (let q : Squad := { sqF with badResponse := true };
      let s := machF q {};
      s.ready q [4] [] = true ∧ q.exe.flags.length = 7 ∧ s.chip.hasWc q = false ∧ s.chip.fabricOpen 0 = false ∧ s.chip.earlier (.squad 0) s.chip.nextId (q.exe.acting g) = false) := by decide +kernel

/-- A packet from node 1 to this node's entry 16, at its offset 0x1000, and a machine that holds it accepted. -/
def pkt1 (opcode : Nat) (payload : List Byte) : Packet :=
  { src := 1, dest := 0, opcode := BitVec.ofNat 4 opcode, index := 16, key := 5, offset := 0x1000, bytes := 4, barIndex := 16, barKey := 5, barOffset := 0x1800, hops := 4, payload }
def machIn (x : InPacket) : State :=
  let s := machF (sq 4) { expo16 with inFlight := 1 };
  { s with chip := { s.chip with fab := { s.chip.fab with inn := [x] } } }

/-- FabricTarget: packets whose header announces their payload; arrivals for which every check holds, and one for each that fails; placements of each kind; a packet
for another node that goes on and two that do not; a packet that is discarded; a round that is complete. -/
theorem witness_FabricTarget :
    ([(0, []), (1, [1, 2, 3, 4]), (2, [5, 6, 7, 8]), (3, [1, 0, 0, 0]), (4, []), (5, [9, 8, 7, 6])].all fun x => let p := pkt1 x.1 x.2;
      p.port == 0 && p.span == 1 && p.payload.length == (if p.opcode = 0 ∨ p.opcode = 4 then 0 else p.bytes.toNat)) = true ∧
    (let f := (machF (sq 4) expo16).chip.fab;
      let p : Packet := { pkt1 1 [1, 2, 3, 4] with dest := 1 };
      f.reaches 1 = true ∧ f.routePorts 1 = [0, 2] ∧ f.node ≠ 1 ∧ 1 < p.hops.toNat ∧ f.combines p = false ∧ f.reaches 2 = false ∧ f.leads 1 = true ∧ 5 < (pkt1 6 []).opcode.toNat) ∧
    ([0, 1, 2, 4].all fun op => let p := pkt1 op [1, 2, 3, 4]; let s := machF (sq 4) expo16;
      p.dest.toNat == s.chip.fab.node && s.chip.fab.reaches p.src.toNat && s.chip.fab.checks p (if op = 0 ∨ op = 2 then 4 else 4) == 0 &&
        ({ s.chip.fab with expo := s.chip.fab.expo.set 16 { expo16 with state := 2 } } : Fabric).checks p 4 == 3 && s.chip.fab.checks { p with key := 6 } 4 == 2 &&
        s.chip.fab.checks { p with offset := 0xFFFD } 4 == 5 && s.chip.fab.checks { p with offset := 0xFFFC } 4 == 0 &&
        ({ s.chip.fab with expo := s.chip.fab.expo.set 16 { expo16 with read := false, write := false, atomic := false, signal := false } } : Fabric).checks p 4 == 4 &&
        s.chip.fab.checks { p with counted := true, barKey := 6 } 4 == 8) = true ∧
    (let gr : RedGroup := { offset := 0x1000, key := 5, index := 16, rank := 1, root := 0, count := 2 };
      let p : Packet := { pkt1 3 [1, 0, 0, 0] with span := 2 };
      let a : Packet := { p with src := 2, span := 1, rank := 1 };
      let f := { (machF (sq 4) expo16).chip.fab with partials := [{ id := 40, group := 0, round := p.seq.toNat, parts := [(1, a, none)] }] };
      (f.groups[0]?).join = some gr ∧ f.inn = [] ∧ p.rank.toNat + p.span ≤ gr.count ∧ (a.rank.toNat < p.rank.toNat + p.span ∧ p.rank.toNat ≤ a.rank.toNat) ∧
        ¬ a.rank.toNat ≤ p.rank.toNat ∧ (¬ 3 + p.span ≤ gr.count) ∧ f.leads a.src.toNat = false) ∧
    ([pkt1 0 [], { pkt1 1 [1, 2, 3, 4] with counted := true, ordered := true }, { pkt1 2 [1, 2, 3, 4] with operation := 9 }, pkt1 4 []].all fun p =>
      let x : InPacket := { id := 30, pkt := p, expo := 16 };
      let s := machIn x;
      s.chip.fab.inn.find? (fun y => y.id == 30) == some x && (!p.ordered || p.seq.toNat == s.chip.fab.expects p) && (match s.chip.packetLocs x with
        | .ok (ls, bar) => ls == (List.range (if p.opcode = 4 then 16 else 4)).map (fun i => Loc.dev (0x51000 + i)) && bar.length == (if p.counted then 16 else 0) &&
          !s.chip.lockWaits p ls && !s.chip.batchHeld x ls && !s.chip.inCopy (ls ++ bar) && x.parts.isEmpty && decide (ls.Nodup ∧ (∀ l ∈ ls, l ∉ bar) ∧ x.expo < s.chip.fab.expo.length) && (ls ++ bar).all (fun l => match l with
            | .dev pa => !s.chip.inStatus pa
            | _ => false) && !s.chip.anyBad ls && decide ((s.chip.barObj ls).arrivals < 2 ^ 16 - 1)
        | .error _ => false) && (s.chip.fab.expo.getD 16 {}).state == 1) = true ∧
    (let p := { pkt1 2 [1, 2, 3, 4] with operation := 9 };
      let x : InPacket := { id := 30, pkt := { p with message := 5 }, expo := 16 };
      let y : InPacket := { id := 31, pkt := { p with message := 4 }, expo := 16 };
      let s := machIn x;
      let c : Chip := { s.chip with fab := { s.chip.fab with inn := [x, y] } };
      c.fab.inn.find? (fun z => z.id == 30) = some x ∧ y.cycle = x.cycle ∧ y.pkt.ordered = false ∧ y.pkt.message.toNat < x.pkt.message.toNat ∧
        (c.packetLocs x).toOption = (c.packetLocs y).toOption ∧ (c.packetLocs x).toOption = some ((List.range 4).map fun i => .dev (0x51000 + i), [])) ∧
    (let s := machF (sq 4) {}; s.chip.fab.reaches 1 = true ∧ s.chip.fab.reaches 2 = false ∧ s.chip.fab.node = 0 ∧ atomFab (fatomOp .fadd false) = 9) := by decide +kernel

theorem witness_combine :
    (let p0 : Packet := { pkt1 3 [1, 0, 0, 0] with operation := 0 };
      let p1 : Packet := { p0 with src := 2, payload := [2, 0, 0, 0] };
      let h : Partial := { id := 40, group := 0, round := 3, parts := [(1, p1, none), (0, p0, none)] };
      let s := machF (sq 4) expo16;
      let f := { s.chip.fab with partials := [h] };
      let gr : RedGroup := { offset := 0x1000, key := 5, index := 16, rank := 1, root := 0, count := 2 };
      let bs := leBytes 4 (redResult 0 [1, 2]);
      (f.groups[0]?).join = some gr ∧ f.partials.find? (fun y => y.group == 0 && y.round == 3) = some h ∧ h.ranked 2 = [(p0, none), (p1, none)] ∧ gr.root = f.node ∧
      p0.counted = false ∧ p0.operation.toNat ≤ 12 ∧ p0.span = 1 ∧ p1.span = 1 ∧ p1.operation = p0.operation ∧ f.leads 1 = true ∧ gr.index < 256 ∧ s.chip.copying = [] ∧
      (redElems 0 p0 = [1] ∧ redElems 0 p1 = [2]) ∧ f.checks (resultPacket gr p0 bs) bs.length = 0 ∧
      (s.chip.targetLocs s.chip.nextId expo16 { w := true } 0x1000 4).toOption = some ((List.range 4).map fun i => .dev (0x51000 + i))) ∧
    (let p0 : Packet := { pkt1 3 [1, 0, 0, 0] with operation := 0, dest := 1, src := 0 };
      let p1 : Packet := { p0 with src := 2, rank := 1, payload := [2, 0, 0, 0] };
      let h : Partial := { id := 40, group := 0, round := 3, parts := [(0, p0, none), (1, p1, none)] };
      let one : Partial := { h with parts := [(0, p0, none)] };
      let gr : RedGroup := { offset := 0x1000, key := 5, index := 16, rank := 1, root := 1, count := 3 };
      let s := machF (sq 4) expo16;
      let f := { s.chip.fab with partials := [h], groups := s.chip.fab.groups.set 0 (some gr) };
      (f.groups[0]?).join = some gr ∧ f.partials.find? (fun y => y.group == 0 && y.round == 3) = some h ∧ gr.root ≠ f.node ∧ h.ranked 3 = [(p0, none), (p1, none)] ∧
        one.ranked 3 = [(p0, none)] ∧ 0 < p0.span ∧ f.routePorts 1 ≠ [] ∧ pairs 3 p0 p1 = true ∧ p1.rank.toNat < gr.count) := by decide +kernel

/-- FabricInitiator: a packet of a lane and the last of a command, injected and answered; a put to be read; a lane's access with a return and an escorted one without; a combined
partial sum; a get's piece, at home, refused and at a page that is absent; an entry to drain; a port of each width, and one with a queue. -/
def put1 : FabCmd := { id := 50, kind := 0, ctx := 0, uid := 0, core := 0, slot := 3, num := 1, dst := { peer := 0, node := 1, index := 2, key := 5, off := 0 }, remote := 2 ^ 56, len := 4
                       scr := false, localAt := 0x11000, counted := true }
theorem witness_FabricInitiator :
    (let o : OutPacket := { id := 60, die := 0, pkt := { pkt1 1 [1, 2, 3, 4] with src := 0, dest := 1 }, owner := .cmd 50 0, ctx := 0, uids := [0] };
      let k : FabCmd := { put1 with loaded := true };
      let s := machF (sq 4) {};
      let f := { s.chip.fab with out := [o], cmds := [k] };
      f.out.find? (fun x => x.id == 60) = some o ∧ o.sent = none ∧ f.reaches o.pkt.dest.toNat = true ∧ f.routePorts o.pkt.dest.toNat = [0, 2] ∧ f.mayInject o = true ∧
      ({ s.chip with fab := f } : Chip).packetHeld o = false ∧ k.signal = false ∧ k.left = false ∧ o.pkt.dest.toNat ≠ f.node ∧
      f.cmds.find? (fun y => y.id == 50) = some k ∧ k.slot < (s.chip.core 0).slots.length) ∧
    (let s := machF (sq 4) {};
      let c : Chip := { s.chip with fab := { s.chip.fab with cmds := [put1] } };
      c.fab.out = [] ∧ c.fab.cmds.find? (fun y => y.id == 50) = some put1 ∧ c.fab.cmds.filter (fun y => y.core == 0 && y.slot == 3 && y.num == 1) = [put1] ∧
      (c.localLocs put1 { r := true } 0 4).toOption = some ((List.range 4).map fun i => .dev (0x51000 + i)) ∧ c.copying = []) ∧
    (let r : Request := { req (.atom .add32 true) (some 4) .waiting with accs := [{ lane := 31, va := 2 ^ 56, fab := some put1.dst }] };
      let o : OutPacket := { id := 60, die := 0, pkt := { pkt1 2 [1, 0, 0, 0] with src := 0, dest := 1 }, owner := .lane 3 31, ctx := 0, uids := [0], sent := some 0 };
      let e : Request := { req (.atom .add32 false) none .waiting with escorted := true, accs := r.accs };
      e.returns = true ∧ e.dst = none ∧ (mach (sq 4)).chip.fab.kept = [] ∧
      ({ o with owner := .relay [{ pkt1 3 [] with src := 1 }] } : OutPacket).sent.isSome = true ∧ (machF (sq 4) {}).chip.fab.leads 1 = true ∧
      r.returns = true ∧ o.sent.isSome = true ∧ (withReq (sq 4) [r]).chip.request? 3 = some r ∧ (withReq (sq 4) [r]).chip.squad? 0 = some (sq 4)) ∧
    (let k : FabCmd := { put1 with kind := 1 };
      (k.stopped, k.signal, k.home, k.scr) = (false, false, none, false) ∧
        ((machF (sq 4) {}).chip.localLocs { k with localAt := 0x30000 } { w := true } 0 4 matches .error (some _)) = true ∧ k.slot < ((mach (sq 4)).chip.core 0).slots.length ∧
        ((machF (sq 4) {}).chip.localLocs k { w := true } 0 4).toOption = some ((List.range 4).map fun i => .dev (0x51000 + i))) ∧
    (let w : WcEntry := { id := 70, ctxs := [0], stores := [(3, 0, [1, 2, 3, 4]), (4, 124, [5, 6, 7, 8])], node := 1, index := 2, key := 5, line := 0, va := 2 ^ 56, mask := List.replicate 4 true ++ List.replicate 120 false ++ List.replicate 4 true };
      let c := (mach (sq 4)).chip.modCore 0 fun k => { k with wc := [w] };
      (c.core 0).wc.find? (fun x => x.id == 70) = some w ∧ maskRuns 0 w.mask = [(0, 4), (124, 4)]) ∧
    (mach (sq 4)).chip.fab.ports[0]? = some ({} : Port) ∧ (mach (sq 4)).chip.fab.ports[19]? = some ({} : Port) ∧
    ([{}, { queue := 64 }, { width := 2, queue := 100 }, { width := 2, waking := true }].all fun p : Port => ((mach (sq 4)).chip.fab.ports.set 19 p)[19]? == some p) = true := by decide +kernel

/-- FabricInitiator: the read and the write of an atomic that the context engine performs for a peer. -/
theorem witness_services :
    ([[], [7, 0, 0, 0]].all fun cmp =>
      let w : Access := { lane := 31, va := 2 ^ 56, fab := some put1.dst, data := [1, 0, 0, 0], cmp, unsup := true };
      let r : Request := { req (.atom .add32 true) (some 4) .waiting with accs := [w] };
      let o : OutPacket := { id := 60, die := 0, pkt := { pkt1 (if cmp.isEmpty then 0 else 1) cmp with src := 0, dest := 1 }, owner := .service 3 31, ctx := 0, uids := [0], sent := some 0 };
      let c : Chip := { (withReq (sq 4) [r]).chip with fab := { (machF (sq 4) {}).chip.fab with out := [o] } };
      c.request? 3 == some r && r.returns && c.fab.out.find? (fun x => x.id == 60) == some o && !o.pkt.ordered && c.fab.kept.isEmpty && c.fab.node == 0) = true := by decide +kernel

/-- The same machine with two cores. -/
def few (s : State) : State := { s with chip := { s.chip with cores := s.chip.cores.take 2, benches := s.chip.benches.take 12 } }

/-- A thread in a bin, the squad it forms, a squad with nothing left, and its exit record. -/
def bin1 : Bin := { launch := 0, ctx := 0, entry := 0x10000, muster := some 0, threads := [⟨[1, 2], 16⟩, ⟨[3], 8⟩], since := 0 }
def formed1 : Formed := { id := 5, launch := 0, ctx := 0, core := 0, entry := 0x10000, muster := some 0, threads := bin1.threads }
def sqDone (spawned : Bool) : Squad :=
  { sq 0 with spawned, exe := { (sq 0).exe with inClause := false, active := 0 }, st := List.replicate 32 .exited, pennants := List.replicate 12 0
              handles := some 0 :: List.replicate 15 none }
def exit1 (a : Nat) : ExitRecord := { id := 0, ctx := 0, addr := a, value := 7, number := 0 }

/-- SquadsEnd: a bin; a formed squad that a core takes, in a cluster that is On, that gates, that is off; one whose place is chosen; a squad that may retire, of a launch and spawned; an exit record
that can be written and one that cannot; a muster that is over, the last of its launch and not. -/
theorem witness_SquadsEnd :
    (let c := (mach (sq 0)).chip.modCore 0 fun k => { k with bins := [bin1] }; (c.core 0).bins[0]? = some bin1) ∧
    ([ClusterPower.on, .gating, .off].all fun pw =>
      let s := (few (mach (sq 0))).setPower 0 pw;
      let s : State := { s with chip := { s.chip with formed := [formed1] } };
      s.chip.formed.find? (fun x => x.id == 5) == some formed1 && s.chip.launch? 0 == some lau && (s.chip.placeFormed formed1).map (·.1) == some 0 &&
        (s.chip.clusterOf 0).map (·.1) == some 0 && s.powerOf 0 == pw && s.chip.coreOn 0 == (pw == .on) && decide (formed1.threads.length ≤ 32) &&
        (List.range 6).all fun b => !s.chip.moveDue 0 b) = true ∧
    (let s := few (mach (sq 0));
      let f : Formed := { formed1 with place := some { core := 1, bench := 3, slot := 1 } };
      let c : Chip := { s.chip with formed := [f] };
      c.formed.find? (fun x => x.id == 5) = some f ∧ c.launch? 0 = some lau ∧ c.coreOn 1 = true ∧ c.benchReady 1 3 f.declared = true) ∧
    ([false, true].all fun sp => let c := (machB (sqDone sp) bench0).chip; c.squad? 0 == some (sqDone sp) && c.mayRetire (sqDone sp) && c.launch? 0 == some lau &&
      (c.benchOf (sqDone sp)).accValid && (c.benchOf (sqDone sp)).accCtx == (sqDone sp).exe.ctx) = true ∧
    ((let s := mach (sqDone false);
      let s : State := { s with chip := { s.chip with exitRecords := [exit1 0x11400], launches := [{ lau with squads := 2 }] } };
      let l : Launch := { lau with squads := 2 };
      s.chip.exitRecords.find? (fun x => x.id == 0) = some (exit1 0x11400) ∧ s.chip.squad? 0 = some (sqDone false) ∧ s.chip.launch? 0 = some l ∧ s.chip.ctx? 0 = some bootCtx ∧ bootCtx.closing = none ∧
        (s.chip.xlFor 0 0 0 { w := true } 0x11400 16).toOption = some ((List.range 16).map fun i => .dev (0x51400 + i)) ∧ s.chip.copying = [] ∧
        ((List.range 16).map fun i => Loc.dev (0x51400 + i)).Nodup ∧ l.retired + 1 ≠ l.squads) ∧
      (match (mach (sqDone false)).chip.xlFor 0 0 0 { w := true } (2 ^ 60) 16 with
      | .error (.access _) => true
      | _ => false : Bool) = true) ∧
    ([false, true].all fun last =>
      let m0 : Muster := { mus with kind := 0, base := 0, count := 1, stride := 0, timelines := 4 };
      let l : Launch := { lau with musters := [m0, { mus with idx := 1, retired := last }], dispatched := [0], retired := if last then 1 else 0 };
      let s := mach (sq 0);
      let c : Chip := { s.chip with squads := [], launches := [l] };
      c.launch? 0 == some l && c.muster? 0 0 == some m0 && !m0.retired && c.musterOver l m0 && (last == decide (l.retired = l.squads)) &&
        !(c.anySquad 0 fun _ => true) && c.formed.isEmpty && c.cores.all fun k => k.bins.isEmpty) = true := by decide +kernel

/-- A command of a type for context 0 with its payload from bit 256 on, and a machine that holds commands. -/
def cmd (typ : Nat) (started : Bool) (payload : Nat) : Cmd := { id := 3, queue := 0, record := typ * 2 ^ 24 + payload * 2 ^ 256, entry := 2, number := 0, started }
def machC (ks : List Cmd) : State :=
  let s := few (mach (sq 0));
  { s with chip := { s.chip with cmds := ks, running := true, squads := [] } }

/-- A launch payload: n squads of `blocks` register blocks at 0x10000, exit records at 0x11400, a table of one muster of both squads at 0x11900. -/
def launchPay (n blocks : Nat) : Nat := 0x10000 + 0x11000 * 2 ^ 64 + 0x11400 * 2 ^ 128 + 0x11900 * 2 ^ 192 + 0x14000 * 2 ^ 256 + n * 2 ^ 320 + 16 * 2 ^ 352 + blocks * 2 ^ 448
def musterEntry (count place lines : Nat) : Nat := count * 2 ^ 8 + lines * 2 ^ 36 + place * 2 ^ 56 + 1 * 2 ^ 104 + 3 * 2 ^ 192

/-- LaunchesStart: a launch command without its context, with 0 and 31 register blocks, with a table that is well formed; a unit that a core takes, in a cluster in each
state; squads that keep a chosen place, of which those whose barrier object is written may go; a barrier object to write. -/
theorem witness_LaunchesStart :
    ([(2, 1), (2, 30), (2, 0), (2, 31), (0, 1)].all fun p => let k := cmd 1 false (launchPay p.1 p.2);
      let s := machC [k];
      let s : State := { s with chip := { s.chip with dev := s.chip.dev.setLe 0x51900 32 (musterEntry 2 2 16) } };
      let none_ : Chip := { s.chip with ctxs := List.replicate 64 none };
      s.chip.cmd? 3 == some k && k.typ == 1 && (s.chip.launch? 3).isNone && s.chip.mayStart k && (s.chip.inherits k).isNone && !s.chip.closing 0 &&
        none_.mayStart k && (none_.ctx? 0).isNone && !none_.closing 0 && (s.chip.ctx? 0).isSome &&
        (match s.chip.checkLaunch k with
          | .ok l => (p == (2, 1) || p == (2, 30)) && l.musters.length == 1
          | .error f => f == (1, 0) && (p.1 == 0 || p.2 == 0 || p.2 == 31))) = true ∧
    ([ClusterPower.on, .gating, .off].all fun pw =>
      let m0 : Muster := { mus with kind := 0, base := 0, count := 2, stride := 1, cores := [], placed := false, barDone := false };
      let l : Launch := { lau with squads := 2, declared := 16, musters := [{ m0 with barInit := false }], dispatched := [] };
      let s := (few (mach (sq 0))).setPower 0 pw;
      let s : State := { s with chip := { s.chip with launches := [l] } };
      s.chip.formed.isEmpty && (s.chip.launchOrder.findSome? fun x => (s.chip.placeUnit x).map fun r => (x, r.1)) == some (l, 1) && s.chip.launch? 0 == some l &&
        l.nextSquad == some 0 && l.unitSquads 0 == [0, 1] && ((List.range 6).all fun b => !s.chip.moveDue 1 b) && s.chip.dispatchable.isNone && s.chip.coreOn 1 == (pw == .on) && (s.chip.clusterOf 1).map (·.1) == some 0 && s.powerOf 0 == pw) = true ∧
    ([false, true].all fun done =>
      let m0 : Muster := { mus with kind := 0, base := 0, count := 1, stride := 1, cores := [1], barDone := done };
      let l : Launch := { lau with squads := 2, musters := [m0], dispatched := [], placing := [(0, { core := 1 }), (1, { core := 1, bench := 5 })] };
      let s := few (mach (sq 0));
      let c : Chip := { s.chip with launches := [l] };
      ((List.range 6).all fun b => decide (2 * (l.declared / 8) ≤ c.pool 1 b)) && c.dispatchable == some l && c.launch? 0 == some l && (l.placing.filter fun x => c.mayDispatch l x).map (·.1) == if done then [0, 1] else [1]) = true ∧
    (let b : BarInit := { id := 8, launch := 0, muster := 0, core := 0 };
      let s := mach (sq 0);
      let s : State := { s with chip := { s.chip with barInits := [b] } };
      let ls := (List.range 16).map fun i => Loc.dev (0x51800 + i);
      s.chip.barInits.find? (fun x => x.id == 8) = some b ∧ s.chip.launch? 0 = some lau ∧ s.chip.muster? 0 0 = some mus ∧ mus.barrier ≠ 0 ∧
        (s.chip.xlFor 8 0 0 { w := true } 0x11800 16).toOption = some ls ∧ s.chip.copying = [] ∧ ls.Nodup ∧ ls.length = 16 ∧ (List.range 16).all (fun i => !s.chip.inStatus (0x51800 + i)) = true) := by decide +kernel

/-- CommandsStart: a posted record of each kind, accepted and refused; a wait that inherits a failure, waits that are met, a context that is missing and one that is there; a
number that comes next. -/
theorem witness_CommandsStart :
    ([6 * 2 ^ 24 + 1 * 2 ^ 32 + 2 ^ 110, 6 * 2 ^ 24 + 1 * 2 ^ 32 + 1, 11 * 2 ^ 24 + 1 * 2 ^ 32].all fun r =>
      let s := machC [];
      let c : Chip := { s.chip with cmdWindow := 0x60000, dev := s.chip.dev.setLe (0x60000 + 128) 128 r };
      c.running && c.journalRoom && c.nextQueue == some 0 && decide (0 < c.queues.length) && c.cmds.isEmpty && c.headRecord 0 == r && c.posted 0 &&
        (recordCause (c.queues.getD 0 {}) 0 r == 0) == bit r 110) = true ∧
    (recordCause {} 1 (9 * 2 ^ 24) = 0x0A ∧ recordCause {} 1 (2 ^ 18 + 6 * 2 ^ 24) = 0x0A ∧ recordCause {} 1 (6 * 2 ^ 24) = 0 ∧ recordCause {} 0 (10 * 2 ^ 24) = 0 ∧
      recordCause {} 0 (11 * 2 ^ 24) = 0x09 ∧ recordCause {} 0 0 = 0x09 ∧ recordCause {} 0 (2 ^ 64) = 0x01) ∧
    (let c : Chip := { (machC []).chip with queues := [{ enabled := true, prio := 7, ctx := 0, expect := 65, dead := List.range 64 }] };
      (c.queues.getD 0 {}).expect % 64 ∈ (c.queues.getD 0 {}).dead) ∧
    (let k : Cmd := { cmd 6 false 0 with record := 6 * 2 ^ 24 + 2 ^ 95 + 2 ^ 94 + 5 * 2 ^ 88 + 7 * 2 ^ 128 };
      let s := machC [k];
      let at_ := fun (x : CmdTimeline) => { s.chip with timelines := s.chip.timelines.set 5 x };
      k.waits = [(5, 7, true)] ∧ k.started = false ∧ (at_ { done := 9, failNo := 7, failCause := 4 }).cmd? 3 = some k ∧
        ((at_ { done := 9, failNo := 7, failCause := 4 }).timelines.getD 5 {}) = { done := 9, failNo := 7, failCause := 4 } ∧
        ((at_ { done := 7, failNo := 8, failCause := 4 }).timelines.getD 5 {}) = { done := 7, failNo := 8, failCause := 4 }) ∧
    ([2, 3, 4, 5, 6, 7, 8, 9, 10].all fun typ => let k := cmd typ false 0;
      let s := machC [k];
      s.chip.cmd? 3 == some k && k.waits.isEmpty && k.typ == typ && (s.chip.ctx? k.ctx).isSome && !s.chip.closing k.ctx && s.chip.quiescent &&
        (({ s.chip with ctxs := List.replicate 64 none } : Chip).ctx? k.ctx).isNone) = true ∧
    (let x : CmdTimeline := { issue := 9, done := 6, failNo := 5, failCause := 1 }; x.finished = [] ∧ x.done + 1 = 7 ∧ x.failNo ≠ 0 ∧ x.failNo < 7) := by decide +kernel

/-- Payloads: a code load of 16 bytes at 0x11000 from 0x60000 with n relocation records at 0x60100; a view of 32 by 32 bytes; a queue's new setting. -/
def loadPay (at_ n : Nat) : Nat := 0x60000 + at_ * 2 ^ 64 + 16 * 2 ^ 128 + n * 2 ^ 160 + 0x60100 * 2 ^ 192 + 8 * 2 ^ 256
def viewPay (low : Nat) : Nat := 2 + (low + 2 ^ 83 + 2 ^ 108 + 0x60 * 2 ^ 133 + 0x50 * 2 ^ 174 + 0x40 * 2 ^ 215) * 2 ^ 256
def withDev (s : State) (m : Mem → Mem) : State := { s with chip := { s.chip with dev := m s.chip.dev } }

/-- DeviceCommands: relocation records that hold and one of each cause, a page that is present and one that is not; views to enter, to clear and to refuse; a device that is
quiescent and one that is not, tables in memory and not, with a reserved bit and without; a context's packets and none; every form of queue configuration. -/
theorem witness_DeviceCommands :
    ([(0x11000, 0, 0), (0x11000, 1, 2 ^ 22 + 5), (0x11000, 1, 2 * 2 ^ 22 + 13), (0x11000, 1, 3 * 2 ^ 22 + 1000), (0x11000, 1, 5), (0x11000, 1, 2 ^ 22 + 64), (0x80000, 0, 0)].all fun p =>
      let k := cmd 2 true (loadPay p.1 p.2.1);
      let s := withDev (machC [k]) fun m => m.setLe 0x60100 8 p.2.2;
      s.chip.cmd? 3 == some k && k.started && k.typ == 2 && !s.chip.loadAhead k && s.chip.regionReadable 0x60000 16 && s.chip.regionReadable 0x60100 (8 * p.2.1) &&
        (p.2.1 == 0 || s.chip.relocCause [] 16 p.2.2 == (if p.2.2 = 5 then some 1 else if p.2.2 = 2 ^ 22 + 64 then some 7 else none)) &&
        s.chip.leafAt 0 (p.1 / 65536 * 65536) == (if p.1 = 0x11000 then some 0x40008 else none) && bits (s.chip.dev.le 0x40008 8) 51 16 == 5 &&
        !bit (s.chip.dev.le 0x40008 8) 8 && (p.1 != 0x11000 || (let c : Chip := { s.chip with locked := [(0x50000, 0x60000)] };
          c.regionReadable 0x60000 16 && !s.chip.isLocked 0x50000 && c.isLocked 0x50000 && c.leafAt 0 0x10000 == some 0x40008)) &&
        !({ s.chip with locked := [(0x60008, 0x60010)] } : Chip).regionReadable 0x60000 16 && ({ s.chip with cmds := [{ k with id := 2 }, k] } : Chip).loadAhead k) = true ∧
    ([(1, 5, 7), (2, 13, 10), (3, 1000, 12)].all fun p => match (mach (sq 0)).chip.placeOf [] p.1 p.2.1 with
      | some v => decide (v < 2 ^ p.2.2)
      | none => false) = true ∧
    ([viewPay 0, viewPay 1, 2].all fun pay => let k := cmd 3 true pay;
      let s := machC [k];
      let e := bits k.record 767 512;
      s.chip.cmd? 3 == some k && s.chip.ctx? 0 == some bootCtx && decide (0 < s.chip.ctxs.length) && bits k.record 263 256 == 2 &&
        bit e 83 == (pay != 2) && (!bit e 83 || s.chip.viewCause bootCtx 2 e == if pay = viewPay 1 then 1 else 0) && !s.chip.accessesIn 0 (fun va => bootCtx.views.any fun v => v.idx == 2 && v.holds va) &&
        (let v := View.ofEntry 2 e;
          let r := { req .load (some 4) .waiting with scratch := false, accs := [{ lane := 0, va := v.baseRm }] };
          ({ s.chip with requests := [r] } : Chip).accessesIn 0 (fun va => [v].any fun v => v.idx == 2 && v.holds va))) = true ∧
    ([0x60000, 2 ^ 50].all fun b => let k := cmd 4 true (b + 3 * 2 ^ 64);
      let s := machC [k];
      let t := withDev s fun m => m.setLe 0x61010 16 (2 ^ 127);
      s.chip.cmd? 3 == some k && s.chip.quiescent && s.chip.regionReadable b 0x2010 == (b == 0x60000) && bits (s.chip.dev.le 0x61010 16) 127 104 == 0 && bits (t.chip.dev.le 0x61010 16) 127 104 != 0 &&
        !({ s.chip with locks := [], fab := { s.chip.fab with back := [(1, 0, [])] } } : Chip).quiescent) = true ∧
    ([5, 6].all fun typ => let k := cmd typ true 0;
      let s := machC [k];
      let r := req .load (some 4) .waiting;
      s.chip.cmd? 3 == some k && k.typ == typ && s.chip.fab.out.isEmpty && s.chip.fab.cmds.isEmpty && s.chip.cores.all (fun n => n.wc.isEmpty) && !s.chip.accessesIn 0 (fun _ => true) &&
        ({ s.chip with requests := [{ r with scratch := false }] } : Chip).accessesIn 0 (fun _ => true) && s.chip.requests.isEmpty &&
        ([({ lane := 0, va := 0, fab := some { peer := 0, node := 1, index := 0, key := 0, off := 0 } } : Access)].all fun a => a.open_ && a.fab.isSome) &&
        (let u : BarUpdate := { id := 4, locs := [.dev 0x51000], va := 0x11000, arrive := false, add := -4 };
          ({ s.chip with updates := [u] } : Chip).accessesIn 0 (fun va => overlap 0x11000 64 va 128))) = true ∧
    ([0, 1, 63].all fun i => [false, true].all fun on => let k := cmd 9 true (i + 5 * 2 ^ 8 + (if on then 2 ^ 11 else 0) + 7 * 2 ^ 12);
      let s := machC [k];
      s.chip.cmd? 3 == some k && bits k.record 261 256 == i && bit k.record 267 == on && decide (i < s.chip.queues.length)) = true := by decide +kernel

/-- A context record, and a command for context 1. -/
def ctxRec (low level1 : Nat) : Nat := low + level1 + 0x180000 * 2 ^ 192 + 0x400000 * 2 ^ 256 + 7 * 2 ^ 592 + 3 * 2 ^ 600 + 0x190000 * 2 ^ 608 + 7 * 2 ^ 672
def cmd1 (typ payload : Nat) : Cmd := { cmd typ true payload with record := typ * 2 ^ 24 + 2 ^ 18 + payload * 2 ^ 256 }
def fault1 : PFault := { num := 4, page := 0x20000, core := 0, die := 0, engine := false, kind := 0, waiters := [77, 0] }

/-- ContextCommands: a record that holds, one with a reserved bit, one outside the device, one at a misaligned address, a context that exists; a teardown of no context, of one that
closes and of one; a fault that squads and accesses wait on, resolved and not, and a number that no fault has. -/
theorem witness_ContextCommands :
    ([(0x60000, ctxRec 0 0x100000, 0), (0x60000, ctxRec (2 ^ 700) 0x100000, 1), (0x60000, ctxRec 0 (2 ^ 50), 2), (0x60008, 0, 3)].all fun p =>
      let k : Cmd := { cmd1 7 p.1 with data := p.2.1 };
      let s := withDev (machC [k]) fun m => m.setLe 0x60000 128 p.2.1;
      let x := Ctx.ofRecord k.data;
      s.chip.cmd? 3 == some k && k.started && k.typ == 7 && k.ctx == 1 && k.data == p.2.1 && (s.chip.ctx? 1).isNone && decide (1 < s.chip.ctxs.length) && bits k.record 319 256 == p.1 &&
        (p.2.2 == 3 || (s.chip.regionReadable p.1 128 && !({ s.chip with locked := [(p.1, p.1 + 1)] } : Chip).regionReadable p.1 128 && !x.badFields && ctxReserved p.2.1 == (p.2.2 == 1) && s.chip.ctxRegions x == (p.2.2 != 2) &&
          x.errBase == 0x180000 && x.pfBase == 0x190000))) = true ∧
    (let k := cmd 7 true 0x60000; (machC [k]).chip.cmd? 3 = some k ∧ ((machC [k]).chip.ctx? 0).isSome = true) ∧
    (let s := machC [cmd 8 true 0, cmd1 8 0];
      let c : Chip := { s.chip with ctxs := s.chip.ctxs.set 0 (some { bootCtx with closing := some 3 }) };
      s.chip.cmd? 3 = some (cmd 8 true 0) ∧ s.chip.ctx? 0 = some bootCtx ∧ bootCtx.closing = none ∧ 0 < s.chip.ctxs.length ∧ c.closing 0 = true ∧ s.chip.ctx? 1 = none ∧
        (machC [cmd1 8 0]).chip.cmd? 3 = some (cmd1 8 0) ∧ s.chip.fab.expo.all (fun e => e.state == 0) = true) ∧
    ([false, true].all fun bad => [4, 5].all fun num => let k := cmd 10 true (num + if bad then 2 ^ 64 else 0);
      let s := machC [k];
      let x : Ctx := { bootCtx with faults := [fault1] };
      let parked : Squad := { sq 0 with parked := some 4 };
      let r := req .load (some 4) (.faulted 4);
      let c : Chip := { s.chip with ctxs := s.chip.ctxs.set 0 (some x), squads := if bad then [{ sq 2 with parked := some 4 }] else [parked], requests := if bad then [r] else [] };
      c.cmd? 3 == some k && bit k.record 320 == bad && c.ctx? 0 == some x && x.faults.find? (fun g => g.num == num) == (if num = 4 then some fault1 else none) &&
        !c.walkHeld 0 fault1.page &&
        c.requests.all (fun r => !r.isOver && r.returns) && (!bad || (c.squads.all fun q => q.parked == some 4 && q.spills fault1 && q.awaiting.isNone) && decide (c.requests.map (·.id)).Nodup)) = true := by decide +kernel

/-- One core, on which context 0 is to be pre-empted, with save areas; a squad between clauses at a header that is a safe point. -/
def leaving (ls : List Launch) (qs : List Squad) : State :=
  let s := atHeader (sq 0) (bootHeader 0 + 2 ^ 35 + 2 * 2 ^ 24) 0;
  let c : Chip := { s.chip with
    cores := s.chip.cores.take 1, benches := s.chip.benches.take 6, squads := if qs.isEmpty then s.chip.squads else qs.filter fun q => q.uid != 99, launches := ls
    ctxs := s.chip.ctxs.set 0 (some { bootCtx with imgSlots := 2, musSlots := 2 }) };
  { s with chip := c.modCore 0 fun k => { k with preempt := some 0 } }
def gone : List Squad := [{ sq 0 with uid := 99 }]
def saved1 : SavedSquad :=
  { uid := 7, slot := 1, launch := 0, spawned := false, entry := 0x10000, resume := [], byResume := 0, trap := {}, contLeft := none, quota := [], badResponse := false
    stackNo := 0, savedAt := [] }
def set1 : CoreSet := { id := 30, ctx := 0, core := 0, squads := [saved1], musters := [], complete := true }

/-- ContextsLeave: a core whose pre-emption is under way; one where a context of higher priority waits for it, one where a context of the same priority does and the resident
has a slice, and one where none waits, with a move off it and without; a pre-emption that waits for its core; a squad at a safe point; a reply of a saved squad; a muster alone
on its core. -/
theorem witness_ContextsLeave :
    ([5, 0].all fun prio =>
      let s := leaving [lau] [];
      let c : Chip := { (s.chip.modCore 0 fun k => { k with preempt := none, bins := [bin1] }) with
        ctxs := (s.chip.ctxs.set 0 (some { bootCtx with imgSlots := 2, musSlots := 2, prio := 0, slice := 9 })).set 1 (some { bootCtx with prio }), coreSets := [{ set1 with ctx := 1 }] };
      let d : Chip := { c with moves := [{ launch := 0, muster := 0, core := 0, target := 1 }] };
      decide (0 < c.cores.length) && (s.chip.core 0).preempt.isSome && (c.core 0).preempt.isNone && c.moves.isEmpty && c.asked.isEmpty && c.residents 0 == [0] &&
        ((List.range 64).filter fun w => (c.ctx? w).isSome && c.waitsFor w 0) == [1] && (c.prio 0, c.prio 1, c.slice 0) == (0, prio, 9) &&
        ((List.range 64).filter fun w => (d.ctx? w).isSome && d.waitsFor w 0) == [1] && d.moving 0 0 && d.moves.all (fun m => m.asked.isNone) &&
        ((List.range 64).filter fun w => (({ c with coreSets := [] } : Chip).ctx? w).isSome && ({ c with coreSets := [] } : Chip).waitsFor w 0).isEmpty &&
        (({ c with asked := [(0, 3, 1), (0, 0, 1)] } : Chip).asked.find? fun a => a.1 == 0 && (c.residents 0).contains a.2.1) == some (0, 0, 1)) = true ∧
    (let s := leaving [lau] [];
      match s.chip.squads with
      | [q] => s.chip.squad? q.uid == some q && (s.chip.safeHeader q).isSome && !q.exe.inClause && !q.dead && q.deferred.isNone && (s.chip.core 0).preempt == some q.exe.ctx && q.region.isNone &&
        !q.restart && q.evicted.isNone && s.chip.requests.isEmpty && s.chip.updates.isEmpty && s.chip.fab.cmds.isEmpty && (s.chip.core 0).wc.isEmpty &&
        (s.chip.benchOf q).landing.isEmpty && s.chip.freeImage 0 == some 0 && decide (q.exe.declared ≤ 240) &&
        (q.exe.mslots.length, q.exe.flags.length, q.st.length, q.burgees.length, q.pennants.length, q.ensigns.length, q.handles.length, q.lpc.length) == (4, 7, 32, 12, 12, 4, 16, 32)
      | _ => false) = true ∧
    (let r : Request := { req .load (some 4) (.done [1, 2, 3, 4]) with agent := .squad 7 };
      let s := leaving [lau] [];
      let c : Chip := { s.chip with requests := [r], coreSets := [set1], dev := (s.chip.dev.setLe (0x1000000 + 32768) 4 1).setLe (0x1000000 + 32768 + 0x700) 32 (2 ^ 4) };
      c.request? 3 = some r ∧ c.squad? 7 = none ∧ c.saved? 7 = some (0, saved1) ∧ r.isOver = true ∧ r.returns = true ∧ r.escorted = false ∧ r.size = tyBytes r.ty ∧ c.dev.le (c.image 0 1 + 0x700) 32 < 2 ^ 240 ∧ saved1.st.getD 31 .exited ≠ .exited ∧
        (let v : SavedSquad := { saved1 with st := saved1.st.set 31 .exited };
          let e : Request := { r with escorted := true, escort := [(4, List.replicate 32 7)] };
          let d : Chip := { c with requests := [e], coreSets := [{ set1 with squads := [v] }] };
          d.request? 3 = some e ∧ d.saved? 7 = some (0, v) ∧ e.isOver = true ∧ e.returns = true ∧ (e.escort.map (·.1)).Nodup ∧ v.st.getD 31 .exited = .exited) ∧
        c.image 0 1 = 0x1000000 + 32768 ∧ 0 < c.dev.le (c.image 0 1) 4 ∧ c.dev.le (c.image 0 1 + 0x700) 32 = 2 ^ 4 ∧ r.pennant = some 0) ∧
    (let l : Launch := { lau with musters := [mus] };
      let s := leaving [l] gone;
      s.chip.squads = [] ∧ s.chip.formed = [] ∧ (s.chip.core 0).bins = [] ∧ (∀ y ∈ s.chip.launches, y.placing = []) ∧ s.chip.mustersOn 0 (fun y _ => y.ctx == 0) = [(l, mus)] ∧ s.chip.slotsQuiet 0 l mus = true ∧
        s.chip.rings = [] ∧ s.chip.scratchOpen 0 0 = false ∧ s.chip.threadsQuiet 0 0 0 = true ∧ s.chip.freeRecords 0 1 = some [0] ∧ ((s.chip.core 0).window? 0 0).isSome = true ∧ bit mus.timelines 2 = true ∧
        ((s.chip.core 0).slots.getD 2 {}).issue < 2 ^ 64) := by decide +kernel

/-- ContextsReturn: a core set that a core takes, in a cluster in each state; one of two squads with a muster, a thread and its queue; a closed bench that has an owner, one that has none, and an open bench; a group that may move and one
that may not; a move in which a squad has not stopped, on a core that is being pre-empted and on one that is not, one in which all have, and one with a saved squad. -/
theorem witness_ContextsReturn :
    ([ClusterPower.on, .gating, .off].all fun pw =>
      let s := (leaving [lau] gone).setPower 0 pw;
      let c : Chip := { (s.chip.modCore 0 fun k => { k with preempt := none }) with coreSets := [set1], dev := s.chip.dev.setLe (0x1000000 + 32768 + 4) 4 (1 + 2 * 2 ^ 16) };
      c.coreSets.find? (fun x => x.id == 30) == some set1 && set1.complete && c.bindings set1 == [] && c.image 0 1 == 0x1000000 + 32768 && c.dev.le (c.image 0 1) 4 == 0 &&
        ((c.setCores set1).findSome? fun n => (c.setOnto set1 n).map fun _ => n) == some 0 && (c.clusterOf 0).map (·.1) == some 0 && s.powerOf 0 == pw && c.coreOn 0 == (pw == .on)) = true ∧
    (let s := leaving [lau] gone;
      let k2 : CoreSet := { set1 with squads := [saved1, { saved1 with uid := 8, slot := 0 }], musters := [(0, 0, 1)], threads := [(5, th)], queues := [(15, { thread := 5, launch := 0, muster := 0 })] };
      let c : Chip := { (s.chip.modCore 0 fun k => { k with preempt := none, windows := [], slots := k.slots.map fun x => { x with owners := [] } }) with
        coreSets := [k2], dev := ((s.chip.dev.setLe (0x1000000 + 32768 + 4) 4 (1 + 2 * 2 ^ 16)).setLe (0x1000000 + 4) 4 (1 + 2 * 2 ^ 16)).setLe (s.chip.musterRecord 0 1) 64 (4 + 16 * 2 ^ 128) };
      c.coreSets.find? (fun x => x.id == 30) = some k2 ∧ c.bindings k2 = [] ∧ (∀ v ∈ k2.squads, c.dev.le (c.image 0 v.slot) 4 = 0) ∧
        ((c.setCores k2).findSome? fun n => (c.setOnto k2 n).map fun _ => n) = some 0 ∧ c.coreOn 0 = true ∧ (k2.musters.map fun m => (m.1, m.2.1)).Nodup ∧
        (c.core 0).window? 0 0 = none ∧ ((c.core 0).slots.getD 2 {}).owners = [] ∧ bit (c.dev.le (c.musterRecord 0 1) 64) 2 = true ∧ (c.core 0).threads.length = 16 ∧
        (c.core 0).queues.length = 16 ∧ (0, 0) ∈ c.setMusters k2) ∧
    (let c := (leaving [lau] gone).chip;
      let d := c.modBench 0 0 fun _ => { bench0 with closed := true };
      let e := c.modBench 0 0 fun b => { b with closed := true };
      (c.bench 0 0).closed = false ∧ 0 < c.benches.length ∧ (d.bench 0 0).closed = true ∧ d.onBench 0 0 = [] ∧ (d.bench 0 0).drains = [] ∧ (d.bench 0 0).accValid = true ∧
        (d.bench 0 0).modes.getD 0 .free ≠ .free ∧ (d.bench 0 0).val 0 0 < 2 ^ 32 ∧ (e.bench 0 0).closed = true ∧ (e.bench 0 0).accValid = false ∧ e.onBench 0 0 = []) ∧
    (let c := (few (mach (sq 0))).chip;
      let d : Chip := { c with ctxs := c.ctxs.set 0 (some { bootCtx with migrate := true }) };
      c.launch? 0 = some lau ∧ c.muster? 0 0 = some mus ∧ c.mayMove lau mus 0 1 = false ∧ d.mayMove lau mus 0 1 = true ∧ d.launch? 0 = some lau) ∧
    (let c := (few (mach (sq 0))).chip;
      let mv : Move := { launch := 0, muster := 0, core := 0, target := 1 };
      let d : Chip := { c with moves := [mv] };
      let asked : Move := { mv with asked := some 1 };
      let a : Chip := { c with moves := [asked] };
      a.moves.find? (fun m => !a.allStopped m && !a.moveSaves m) = some asked ∧ a.launch? 0 = some lau ∧ (a.core 0).preempt = none ∧
        ((a.modCore 0 fun k => { k with preempt := some 0 }).core 0).preempt.isSome = true ∧
        (a.modCore 0 fun k => { k with preempt := some 0 }).moves.find? (fun m => !(a.modCore 0 fun k => { k with preempt := some 0 }).allStopped m && !a.moveSaves m) = some asked ∧
        ({ a with coreSets := [{ set1 with target := some 1 }] } : Chip).moveSaves asked = true ∧
      let e : Chip := { c with moves := [mv], squads := [{ sq 0 with stopped := true }] };
      d.moves.find? (fun m => !d.allStopped m && !d.moveSaves m) = some mv ∧ d.squads.any (fun q => d.moveOf q == some mv) = true ∧ e.allStopped mv = true ∧
        e.squads.any (fun q => e.moveOf q == some mv) = true) := by decide +kernel

/-- The machine after reset with a cluster in a power state. -/
def power (p : ClusterPower) : State := State.reset.setPower 3 p

/-- PlatformUpkeep: an idle cluster and one that is not, in each state; a squad in a local wait and one that runs; a member to swap and one that is pinned, fast, absent or of no
tier, and one short of the threshold; a group that holds a lay-by; a clock that the limiter may set and ones that it may not; balances at each limit; clocks at each step; benches with and without a last context. -/
theorem witness_PlatformUpkeep :
    ([ClusterPower.on, .gating, .abandoning, .off, .waking].all fun p => (power p).powerOf 3 == p && decide (3 < (power p).plat.power.length) && decide (3 < (power p).chip.on.length)) = true ∧
    State.reset.chip.clusterIdle 3 = true ∧ (mach (sq 0)).chip.clusterIdle 0 = false ∧ (0, 0) ∈ State.reset.chip.clusterCores 0 ∧
    ([none, some (3, 0x10000)].all fun wait =>
      let q : Squad := { sq 0 with lpc := List.replicate 32 0x10000, st := List.replicate 32 (.burgeeWait 1), exe := { (sq 0).exe with inClause := wait.isNone } };
      let s := mach q;
      let x : Ctx := { bootCtx with watchdog := 5 };
      let c : Chip := { s.chip with ctxs := s.chip.ctxs.set 0 (some x) };
      c.squad? 0 == some q && c.ctx? 0 == some x && c.localWait q == wait && c.queueRoom x.errBase x.errCap) = true ∧
    (let s := mach (sq 0);
      let t : State := { s with chip := { s.chip with cap := 3 * 2 ^ 39 }, plat := { s.plat with counts := [(4 * 5, 3), (4 * 5 + 1, 200)] } };
      Sparse.Wf 0 t.plat.counts ∧ s.chip.cap = 0 ∧ t.chip.memberExists 5 1 = true ∧ t.chip.memberExists 5 4 = false ∧ memberAt (t.plat.entry 5) 0 = 0 ∧ Sparse.get 0 t.plat.counts (4 * 5) + 16 ≤ Sparse.get 0 t.plat.counts (4 * 5 + 1) ∧
        (let p : Plat := { t.plat with counts := [(4 * 5, 3), (4 * 5 + 1, 18)] };
          Sparse.get 0 p.counts (4 * 5 + 1) < Sparse.get 0 p.counts (4 * 5) + 16) ∧
        (let p : Plat := { t.plat with layby := [3 * 2 ^ 21] };
          3 * 2 ^ 21 / 65536 ≤ 96 + 31 ∧ 96 + 31 < 3 * 2 ^ 21 / 65536 + 32 ∧ bit (p.entry 127).toNat 8 = true ∧ bit (p.entry 128).toNat 8 = false) ∧ slotIn (t.plat.entry 5) 1 ≠ 0 ∧ slotIn (t.plat.entry 5) 0 = 0 ∧
        bit (t.plat.entry 5).toNat 8 = false ∧ bit (0x1E4 : BitVec 16).toNat 8 = true) ∧
    ([(-8 : Int), 0, 8].all fun b => ({ State.reset.plat with refresh := State.reset.plat.refresh.set 319 b } : Plat).refresh[319]? == some b) = true ∧
    ([1000, 1600, 2000, 2500].all fun f => (State.reset.chip.core 63).enabled && ({ State.reset.plat with clocks := State.reset.plat.clocks.set 63 f } : Plat).clocks[63]? == some f) = true ∧
    63 < State.reset.plat.limits.length ∧ (1234 ∉ [1000, 1600, 2000, 2500]) ∧ ((State.resetOf .m56).chip.core 63).enabled = false ∧ (State.reset.chip.bench 0 0).lastCtx = [none, none, none] ∧ some 4 ∈ (({ bench0 with lastCtx := [none, some 4, none] } : Bench).lastCtx) := by
  unfold Sparse.Wf; decide +kernel

/-- PlatformUpkeep, ErrorsAndRepair: channels that work and ones that do not; a member that accesses to a streaming range alone have reached. -/
theorem witness_channels : channelFitted State.reset.chip 255 ∧ channelFitted State.reset.chip 5 ∧ ¬ channelFitted State.reset.chip (256 + 319) ∧
    ¬ channelFitted { State.reset.chip with retired := [255] } 255 ∧
    (let h : HintRange := { base := 0, len := 1, hint := 1, members := [21] };
      let c : Chip := { State.reset.chip with launches := [{ lau with hints := [h] }] };
      (∃ l ∈ c.launches, ∃ h ∈ l.hints, h.hint = 1 ∧ 21 ∈ h.members) ∧ 21 ∉ c.reached) := by
  unfold channelFitted; decide +kernel

/-- Counters one short of each threshold. -/
def nearly (e : ErrPlace) (count bad : Nat) : State :=
  { State.reset with plat := { State.reset.plat with errors := [{ place := e, count, bad }], repair := [(9, 9)] } }

theorem witness_nearly : ∀ e count bad, (nearly e count bad).chip = State.reset.chip := fun _ _ _ => rfl

/-- ErrorsAndRepair: a place of each kind below its threshold and at it, where `witness_channels` says that channel 5 works. -/
theorem witness_ErrorsAndRepair :
    ([(ErrPlace.channel 5, 64, (2, 5)), (.wavelength 159, 1024, (3, 159)), (.bench 63 5, 16, (4, 8 * ((State.reset.chip.sites[63]?).join).getD 0 + 5)), (.row (5 * 2 ^ 30), 4, (1, 5 * 2 ^ 30))].all
      fun p => [p.2.1 - 1, 0].all fun n => let s := nearly p.1 n 0;
        (s.plat.counter p.1).count == n && !s.plat.repair.contains p.2.2 && decide (6 * 63 + 5 < s.chip.benches.length)) = true ∧
    ((nearly (.channel 5) 0 1).plat.counter (.channel 5)).bad + 1 = 2 ∧ (2, 5) ∉ (nearly (.channel 5) 0 1).plat.repair ∧ (5 : BitVec 10) = BitVec.ofNat 10 ((5 * 2 ^ 30 : BitVec 40).toNat / 2 ^ 30) ∧
    State.reset.chip.fab.ports[159 / 8]? = some ({} : Port) := by decide +kernel

/-- A boot block whose fields are in their limits: window 0x100000, journal 0x200000, c 7, status block 0x300000, capacity 1.5 TiB. -/
def block (len : Nat) (go : Nat) : BitVec 512 := BitVec.ofNat 512 (go + 3 * 2 ^ 39 * 2 ^ 152 + 0x300000 * 2 ^ 216 + 7 * 2 ^ 280 + 0x200000 * 2 ^ 288 + 0x100000 * 2 ^ 352 + len * 2 ^ 416)
def inBoot (b : Boot) : State := { State.reset with chip := { State.reset.chip with locked := [] }, plat := { State.reset.plat with boot := b, block := block 4096 1 } }

/-- BootAndHost: every boot state; a block to apply, one outside its limits, one with an image to verify; bytes that can be read and ones that cannot, aligned. -/
theorem witness_BootAndHost :
    (State.reset.plat.refresh.length, State.reset.plat.suppressed.length, State.reset.plat.energy.length) = (320, 64, 64) ∧
    ([Boot.ready, .recovery].all fun b => (inBoot b).plat.boot == b && bit (block 0 1).toNat 0 && (BootBlock.read (block 0 1).toNat).ok (inBoot b).plat.part.module &&
      (BootBlock.read (block 0 1).toNat).len == 0 && !(BootBlock.read ((block 0 1).toNat + 2 ^ 150)).ok true && (BootBlock.read (block 4096 1).toNat).ok true && (BootBlock.read (block 4096 1).toNat).len == 4096) = true ∧
    ((inBoot .verify).plat.boot = .verify ∧ (inBoot .verify).plat.block = block 4096 1 ∧ (inBoot .running).plat.boot ∈ [Boot.reset, .verify, .running] ∧ (inBoot .reset).plat.boot = .reset) ∧
    (apart 0x200000 64 0x300000 65536 ∧ apart 0x100000 1 0x200000 64 ∧ apart 0x100000 1 0x300000 65536) ∧
    ([4, 8].all fun n => 0x1000 % n == 0 && (List.range n).all fun i => let c := (inBoot .running).chip;
      c.exists (0x1000 + i) && !c.isLocked (0x1000 + i) && !Sparse.get false c.bad (0x1000 + i) && !c.inStatus (0x1000 + i)) = true ∧
    (inBoot .running).chip.exists (2 ^ 45) = false ∧ (inBoot .running).chip.hostWaits 0x1000 4 = false ∧ (∀ signed version : Bool, (signed ∧ version) ∨ signed = false ∨ (signed ∧ version = false)) := by
  unfold apart; decide +kernel

/-- BootAndHost: an access that waits for the copy of its row. -/
theorem witness_hostWaits : ({ (inBoot .running).chip with copying := [(Config.rowOf (inBoot .running).chip.fitted (inBoot .running).chip.retired 0x1000).toNat] } : Chip).hostWaits 0x1000 4 = true := by
  simp [Chip.hostWaits, Chip.inCopy, List.range, List.range.loop]

/-- Attestation: every state of the negotiation; a session that is opened, secured, and attested; an open one whose code verifies or not, which Config leaves open. -/
theorem witness_Attestation :
    ([{}, { versioned := true }, { versioned := true, capable := true }, { versioned := true, capable := true, negotiated := true }].map fun p : Spdm => (p.versioned, p.capable, p.negotiated)) =
      [(false, false, false), (true, false, false), (true, true, false), (true, true, true)] ∧
    bit 0x100 8 = true ∧ bit 4 2 = true ∧ bit 0x80 8 = false ∧
    (let p : Spdm := { versioned := true, capable := true, negotiated := true, sessions := [⟨7, false, false⟩, ⟨8, true, false⟩, ⟨9, true, true⟩] };
      p.session? 6 = none ∧ p.secured 6 = false ∧ p.session? 7 = some ⟨7, false, false⟩ ∧ p.secured 7 = false ∧ p.session? 8 = some ⟨8, true, false⟩ ∧ p.secured 8 = true ∧
        p.session? 9 = some ⟨9, true, true⟩ ∧ (∀ y ∈ p.sessions, y.id % 2 ^ 16 ≠ 10 % 2 ^ 16)) ∧
    State.reset.plat.keys.length = 16 := by decide +kernel

/-- MemoryStaysCanonical and PlatformStaysLegal: the state after reset meets both invariants and steps to a next state. -/
theorem witness_invariants : memoryWf State.reset ∧ platformWf State.reset.plat ∧ ∃ t, step { State.reset with agenda := [.event .getVersion] } = .next t := by
  refine ⟨⟨by unfold Mem.Wf Sparse.Wf; decide +kernel, by unfold Mem.Wf Sparse.Wf; decide +kernel, by unfold Mem.Wf Sparse.Wf; decide +kernel⟩, ⟨fun g => ?_, by decide +kernel, by decide +kernel, by decide +kernel⟩, _, rfl⟩
  have two : ∀ b : Bool, ((List.range 4).map fun m => slotIn (0xE4 ||| if b then 0x100 else 0) m).Nodup := by decide +kernel
  exact two _

end Sys2Proof.Tests
end

section
/-! Laws that the statements of the scope family need: list positions, numbers in memory, sparse tables mapped value by value. -/

namespace Sys2Proof

/-! ### Elements of lists -/

theorem getElem?_modAt_self {α : Type} (xs : List α) (i : Nat) (f : α → α) : (modAt xs i f)[i]? = xs[i]?.map f := by
  simp [modAt]

theorem getElem?_modAt_ne {α : Type} (xs : List α) {i j : Nat} (f : α → α) (h : j ≠ i) : (modAt xs i f)[j]? = xs[j]? := by
  simp [modAt, Ne.symm h]

theorem getD_modAt_self {α : Type} {xs : List α} {i : Nat} (h : i < xs.length) (f : α → α) (d : α) : (modAt xs i f).getD i d = f (xs.getD i d) := by
  simp [modAt, h]

theorem getD_modAt_ne {α : Type} (xs : List α) {i j : Nat} (f : α → α) (d : α) (h : j ≠ i) : (modAt xs i f).getD j d = xs.getD j d := by
  rw [List.getD_eq_getElem?_getD, getElem?_modAt_ne xs f h, List.getD_eq_getElem?_getD]

@[simp] theorem length_modAt {α : Type} (xs : List α) (i : Nat) (f : α → α) : (modAt xs i f).length = xs.length := List.length_modify ..

/-! ### Sparse tables -/

theorem Sparse.get_of_forall_ne {α : Type} (d : α) {m : Sparse α} {i : Nat} (h : ∀ e ∈ m, e.1 ≠ i) : Sparse.get d m i = d := by
  induction m with
  | nil => rfl
  | cons e m ih => rw [Sparse.get, if_neg (h e List.mem_cons_self), ih fun x hx => h x (List.mem_cons_of_mem e hx)]

/-- A canonical table mapped value by value, less the keys that now hold the default, reads mapped at every key. -/
theorem Sparse.get_filterMap_value {α : Type} [DecidableEq α] {d : α} {g : α → α} (hg : g d = d) {m : Sparse α} (h : Sparse.Wf d m) (i : Nat) :
    Sparse.get d (m.filterMap fun e => if g e.2 = d then none else some (e.1, g e.2)) i = g (Sparse.get d m i) := by
  obtain ⟨hkeys, hvals⟩ := h
  induction m with
  | nil => exact hg.symm
  | cons e m ih =>
    obtain ⟨hlt, hrest⟩ := List.pairwise_cons.mp hkeys
    have ih := ih hrest fun x hx => hvals x (List.mem_cons_of_mem e hx)
    have later : e.1 = i → Sparse.get d m i = d := fun hi => get_of_forall_ne d fun x hx => by have := hlt x hx; omega
    by_cases hv : g e.2 = d <;> by_cases hi : e.1 = i
    · simp [hv, ih, Sparse.get, hi, later hi, hg]
    · simp [hv, ih, Sparse.get, hi]
    · simp [hv, Sparse.get, hi]
    · simp [hv, ih, Sparse.get, hi]

/-! ### Numbers in memory -/

theorem Mem.byte_setLe_of_apart (m : Mem) {a n b : Nat} (v : Nat) (h : apart b 1 a n) : (m.setLe a n v).byte b = m.byte b := by
  unfold apart at h
  exact Mem.byte_setBytes_out m a _ b (by rw [length_leBytes]; omega)

/-- A number just written reads back, less what its bytes do not hold. -/
theorem Mem.le_setLe_self (m : Mem) (a n v : Nat) : (m.setLe a n v).le a n = v % 256 ^ n := by
  have bytes : (m.setLe a n v).bytes a n = leBytes n v := by
    refine List.ext_getElem (by simp [Mem.bytes, Sparse.getList]) fun i h1 h2 => ?_
    rw [length_leBytes] at h2
    simp [Mem.bytes, Sparse.getList, Mem.setLe, Mem.setBytes, Sparse.get_setList, h2]
  rw [Mem.le, bytes, ofLe_leBytes]

theorem Mem.le_congr {m w : Mem} {a n : Nat} (h : ∀ i, i < n → m.byte (a + i) = w.byte (a + i)) : m.le a n = w.le a n := by
  unfold Mem.le Mem.bytes Sparse.getList
  exact congrArg ofLe (List.map_congr_left fun i hi => h i (List.mem_range.mp hi))

theorem Mem.le_setLe_of_apart (m : Mem) {a n b k : Nat} (v : Nat) (h : apart b k a n) : (m.setLe a n v).le b k = m.le b k := by
  unfold apart at h
  exact Mem.le_congr fun i hi => byte_setLe_of_apart m v (by unfold apart; omega)

/-- The single byte of a one-byte number. -/
theorem Mem.byte_setLe_one (m : Mem) (a v : Nat) : (m.setLe a 1 v).byte a = BitVec.ofNat 8 v := by
  simp [Mem.setLe, Mem.setBytes, Mem.byte, Sparse.get_setList, leBytes]

theorem ofNat_pattern (w : Nat) (y : Int) : BitVec.ofNat w (pattern w y) = BitVec.ofInt w y := by
  have hpos : (0 : Int) < 2 ^ w := Int.pow_pos (by decide)
  have hlt : (y % 2 ^ w).toNat < 2 ^ w := by
    rw [Int.toNat_lt (Int.emod_nonneg y (Int.ne_of_gt hpos)), Int.natCast_pow]
    exact Int.emod_lt_of_pos y hpos
  refine BitVec.eq_of_toNat_eq ?_
  rw [BitVec.toNat_ofNat, BitVec.toNat_ofInt, pattern, Nat.mod_eq_of_lt hlt, Int.natCast_pow]
  rfl

/-- A field's value at its place, as a product. -/
theorem fld_eq (lo v : Nat) : fld lo v = v * 2 ^ lo := Nat.shiftLeft_eq v lo

end Sys2Proof

namespace Sys2Proof.Machine

/-! ### Appending to a queue in device memory (R325) -/

theorem Chip.queueWrite_appended (c : Chip) (base k rec : Nat) : appended c (c.queueWrite base k rec) base k rec := by
  refine ⟨?_, ?_, fun a hw hr => ?_⟩
  · exact (Mem.le_setLe_of_apart _ _ (.inr (by omega))).trans (Mem.le_setLe_self _ _ _ _)
  · exact Mem.le_setLe_self _ _ 8 _
  · exact (Mem.byte_setLe_of_apart _ _ (by unfold apart; omega)).trans (Mem.byte_setLe_of_apart _ _ (by unfold apart; omega))

/-- A report of a context whose error queue has room is appended to it. -/
theorem Chip.errAppend_of_room {c : Chip} {ctx : Nat} {x : Ctx} (hx : c.ctx? ctx = some x) (h : c.queueRoom x.errBase x.errCap = true) (rec : Nat) :
    c.errAppend ctx rec = c.queueWrite x.errBase x.errCap rec := by
  simp [Chip.errAppend, hx, h]

/-- A record in the layout of R212 as a sum of its fields at their places. -/
theorem record212_eq (kind cause slot thread core number clause addr : Nat) : record212 kind cause slot thread core number clause addr =
    kind + cause * 2 ^ 8 + slot * 2 ^ 30 + thread * 2 ^ 36 + core * 2 ^ 40 + number * 2 ^ 64 + clause * 2 ^ 128 + addr * 2 ^ 192 := by
  simp only [record212, fld_eq]; omega

end Sys2Proof.Machine
end

section
/-! What the platform's operations do, once each, and what they leave as it was. -/

namespace Sys2Proof.Machine

/-! ### Reports: device memory and free values alone -/

theorem reportsOnly_refl (c : Chip) : reportsOnly c c := rfl

theorem reportsOnly_eq {c d : Chip} (h : reportsOnly c d) : d = { c with dev := d.dev, fresh := d.fresh } := by
  rw [← h]

theorem reportsOnly_trans {c d e : Chip} (h : reportsOnly c d) (k : reportsOnly d e) : reportsOnly c e := by
  rw [reportsOnly_eq k, reportsOnly_eq h]; rfl

/-- What a chip that has written reports still holds of what errors and repairs touch. -/
theorem reportsOnly_keeps {c d : Chip} (h : reportsOnly c d) :
    d.squads = c.squads ∧ d.bad = c.bad ∧ d.copying = c.copying ∧ d.fab = c.fab ∧ d.benches = c.benches := by
  rw [reportsOnly_eq h]; exact ⟨rfl, rfl, rfl, rfl, rfl⟩

theorem reportsOnly_free (s : State) : reportsOnly s.chip s.free.2.chip := rfl

theorem State.statusPut_chip (s : State) (off n v : Nat) :
    (s.statusPut off n v).chip = if s.chip.running then { s.chip with dev := s.chip.dev.setLe (s.chip.status + off) n v } else s.chip := by
  unfold State.statusPut; split <;> rfl

@[simp] theorem State.statusPut_plat (s : State) (off n v : Nat) : (s.statusPut off n v).plat = s.plat := by
  unfold State.statusPut; split <;> rfl

theorem reportsOnly_statusPut {c : Chip} {s : State} (h : reportsOnly c s.chip) (off n v : Nat) : reportsOnly c (s.statusPut off n v).chip := by
  refine reportsOnly_trans h ?_
  rw [State.statusPut_chip]; split <;> rfl

theorem reportsOnly_logAppend (s : State) (rec : Nat) : reportsOnly s.chip (s.logAppend rec).chip := by
  unfold State.logAppend
  split
  · exact reportsOnly_refl _
  · refine reportsOnly_statusPut (reportsOnly_statusPut ?_ _ _ _) _ _ _
    exact reportsOnly_refl _

theorem State.logAppend_plat (s : State) (rec : Nat) : (s.logAppend rec).plat = { s.plat with log := (s.logAppend rec).plat.log } := by
  unfold State.logAppend
  split
  · rfl
  · simp

/-! ### Power states of clusters (R345, R346) -/

theorem State.powerOf_setPower_self {s : State} {n : Nat} (h : n < s.plat.power.length) (p : ClusterPower) : (s.setPower n p).powerOf n = p :=
  getD_modAt_self h _ _

theorem State.powerOf_setPower_ne (s : State) {n m : Nat} (h : m ≠ n) (p : ClusterPower) : (s.setPower n p).powerOf m = s.powerOf m :=
  getD_modAt_ne _ _ _ h

/-- An event that answers, from the old state of a cluster, the machine with its new state, up to what its cores hold. -/
theorem powerMoves_of_exec {i : Instr} {s t : State} {n : Nat} {old new : ClusterPower} (he : s.powerOf n = old → exec i s = .next t)
    (hplat : t.plat = (s.setPower n new).plat) (hchip : t.chip = { (s.setPower n new).chip with cores := t.chip.cores }) : powerMoves i s n old new := by
  intro hold hp hon
  refine ⟨t, he hold, ?_, ?_, fun m hm => ?_, ?_, ?_, ?_⟩
  · exact (congrArg (fun p : Plat => p.power.getD n .on) hplat).trans (State.powerOf_setPower_self hp new)
  · rw [hchip]; exact getD_modAt_self hon _ _
  · exact (congrArg (fun p : Plat => p.power.getD m .on) hplat).trans (State.powerOf_setPower_ne s hm new)
  · rw [hchip]; rfl
  · rw [hchip]; exact ⟨rfl, rfl⟩
  · rw [hplat]; rfl

theorem exec_clusterGateRequest (n : Nat) (s : State) :
    exec (.clusterGateRequest n) s = .next (if s.powerOf n = .on ∧ s.chip.clusterIdle n then s.setPower n .gating else s) := rfl

theorem exec_clusterGatingAbandon (n : Nat) (s : State) :
    exec (.clusterGatingAbandon n) s = .next (if s.powerOf n = .abandoning then s.setPower n .on else s) := rfl

theorem exec_clusterWakeComplete (n : Nat) (s : State) :
    exec (.clusterWakeComplete n) s = .next (if s.powerOf n = .waking then s.setPower n .on else s) := rfl

/-- The machine when a cluster has gone Off. -/
def State.goneOff (s : State) (n : Nat) : State :=
  { s.setPower n .off with chip := (s.chip.clusterCores n).foldl (fun c k => c.modCore k.1 Core.lose) (s.setPower n .off).chip }

theorem exec_clusterGatingComplete (n : Nat) (s : State) :
    exec (.clusterGatingComplete n) s = .next (if s.powerOf n = .gating then s.goneOff n else s) := rfl

theorem Chip.foldl_modCore_besides {β : Type} (ns : List (Nat × β)) (f : Core → Core) (c : Chip) :
    ns.foldl (fun c k => c.modCore k.1 f) c = { c with cores := (ns.foldl (fun c k => c.modCore k.1 f) c).cores } := by
  refine foldl_keeps (P := fun d : Chip => d = { c with cores := d.cores }) (fun d k h => ?_) ns rfl
  rw [h]; rfl

@[simp] theorem Core.lose_lose (k : Core) : k.lose.lose = k.lose := by simp [Core.lose]

theorem Core.slots_lose (k : Core) (i : Nat) : k.lose.slots.getD i {} = {} := by
  simp only [Core.lose, List.getD_eq_getElem?_getD, List.getElem?_map]
  cases k.slots[i]? <;> rfl

@[simp] theorem Chip.byteAt_scr (c : Chip) (n off : Nat) : c.byteAt (.scr n off) = (c.core n).scratch.byte off := rfl

/-- Each core of a list has lost what Off loses, however often the list names it. -/
theorem Chip.core_foldl_lose {β : Type} (ns : List (Nat × β)) {c : Chip} {n : Nat} (h : n < c.cores.length) :
    (ns.foldl (fun c k => c.modCore k.1 Core.lose) c).core n = if n ∈ ns.map (·.1) then (c.core n).lose else c.core n := by
  induction ns generalizing c with
  | nil => rfl
  | cons k ns ih =>
    rw [List.foldl_cons, ih (by simpa using h)]
    by_cases hk : k.1 = n
    · subst hk; simp [core_modCore_self h]
    · rw [core_modCore_ne c _ hk, List.map_cons]
      simp only [List.mem_cons, Ne.symm hk, false_or]

theorem Chip.lt_of_mem_clusterCores {c : Chip} {n : Nat} {k : Nat × Nat} (h : k ∈ c.clusterCores n) : k.1 < c.cores.length := by
  obtain ⟨m, hm, hk⟩ := List.mem_filterMap.mp h
  split at hk
  · split at hk
    · cases hk; exact List.mem_range.mp hm
    · cases hk
  · cases hk

theorem State.core_goneOff {s : State} {n : Nat} {k : Nat × Nat} (h : k ∈ s.chip.clusterCores n) : (s.goneOff n).chip.core k.1 = (s.chip.core k.1).lose := by
  have hlen : k.1 < (s.setPower n .off).chip.cores.length := Chip.lt_of_mem_clusterCores h
  exact (Chip.core_foldl_lose _ hlen).trans (if_pos (List.mem_map_of_mem h))

/-! ### The watchdog (R347) -/

theorem exec_watchdogReport (uid : Nat) (s : State) : exec (.watchdogReport uid) s = .next { s with chip := s.chip.watchdog uid } := rfl

theorem Chip.watchdog_idle {c : Chip} {q : Squad} (hq : c.squad? q.uid = some q) (h : c.localWait q = none) : c.watchdog q.uid = c := by
  simp only [Chip.watchdog, hq, h]
  split
  · rfl
  · exact ite_self c

theorem Chip.watchdog_waiting {c : Chip} {q : Squad} {x : Ctx} {row a : Nat} (hq : c.squad? q.uid = some q) (hx : c.ctx? q.exe.ctx = some x)
    (hw : x.watchdog ≠ 0) (h : c.localWait q = some (row, a)) :
    c.watchdog q.uid = c.errAppend q.exe.ctx (record212 0x26 row q.place.slot q.place.bench q.place.core 0 a a) := by
  simp only [Chip.watchdog, hq, hx, h, if_neg hw]

/-! ### Remap entries (R367) -/

theorem slotIn_lt (e : BitVec 16) (m : Nat) : slotIn e m < 4 := by
  unfold slotIn bits
  rw [show 2 * m + 1 - 2 * m + 1 = 2 by omega]
  exact Nat.mod_lt _ (by decide)

theorem memberAt_lt (e : BitVec 16) (k : Nat) : memberAt e k < 4 := by
  unfold memberAt
  cases h : (List.range 4).find? fun m => slotIn e m == k with
  | none => decide
  | some m => exact List.mem_range.mp (List.mem_of_find?_eq_some h)

/-- Slots and upper byte of an entry put together from its fields. -/
theorem fields_of_entry {hi p0 p1 p2 p3 : Nat} (hhi : hi < 256) (h0 : p0 < 4) (h1 : p1 < 4) (h2 : p2 < 4) (h3 : p3 < 4) :
    let e := BitVec.ofNat 16 (fld 8 hi + fld 6 p3 + fld 4 p2 + fld 2 p1 + p0)
    slotIn e 0 = p0 ∧ slotIn e 1 = p1 ∧ slotIn e 2 = p2 ∧ slotIn e 3 = p3 ∧ bits e.toNat 15 8 = hi := by
  simp only [slotIn, bits, fld_eq, BitVec.toNat_ofNat, Nat.shiftRight_eq_div_pow]
  omega

/-- Exchanging two members' slots leaves every other slot and the upper byte as they were. -/
theorem slotIn_swapSlots (e : BitVec 16) (a b : Nat) :
    (∀ k, k < 4 → slotIn (swapSlots e a b) k = if k = a then slotIn e b else if k = b then slotIn e a else slotIn e k) ∧
      bits (swapSlots e a b).toNat 15 8 = bits e.toNat 15 8 := by
  have put : ∀ k, (if k = a then slotIn e b else if k = b then slotIn e a else slotIn e k) < 4 := fun k => by
    split
    · exact slotIn_lt e b
    · split <;> exact slotIn_lt e _
  obtain ⟨s0, s1, s2, s3, hi⟩ := fields_of_entry (Nat.mod_lt (e.toNat >>> 8) (show 0 < 256 by decide)) (put 0) (put 1) (put 2) (put 3)
  refine ⟨fun k hk => ?_, hi⟩
  match k, hk with
  | 0, _ => exact s0
  | 1, _ => exact s1
  | 2, _ => exact s2
  | 3, _ => exact s3

/-- The groups of a lay-by are pinned, whatever their slots. -/
theorem Plat.entry_pinned {p : Plat} {g : Nat} (h : p.pinned g = true) : bit (p.entry g).toNat 8 = true := by
  simp [bit, Plat.entry, h, show Nat.testBit 256 8 = true by decide]

theorem Plat.entry_of_unpinned {p : Plat} {g : Nat} (h : bit (p.entry g).toNat 8 = false) : p.pinned g = false :=
  Bool.eq_false_iff.mpr fun hp => by rw [Plat.entry_pinned hp] at h; cases h

@[simp] theorem Plat.pinned_remap (p : Plat) (r : Sparse (BitVec 16)) (g : Nat) : ({ p with remap := r } : Plat).pinned g = p.pinned g := rfl

theorem Plat.entry_set_self {p : Plat} {g : Nat} (h : p.pinned g = false) (v : BitVec 16) :
    ({ p with remap := p.remap.set 0xE4 g v } : Plat).entry g = v := by
  rw [Plat.entry, Sparse.get_set_self, Plat.pinned_remap, h]
  simp

theorem Plat.entry_set_ne (p : Plat) {g k : Nat} (h : k ≠ g) (v : BitVec 16) : ({ p with remap := p.remap.set 0xE4 g v } : Plat).entry k = p.entry k := by
  rw [Plat.entry, Sparse.get_set_ne _ _ _ (Ne.symm h), Plat.pinned_remap, Plat.entry]

/-! ### Access counts (R368, R369) -/

theorem exec_tierCountHalving (s : State) : exec .tierCountHalving s =
    .next { s with plat := { s.plat with counts := s.plat.counts.filterMap fun e => if e.2 / 2 = 0 then none else some (e.1, e.2 / 2) } } := rfl

/-- From s to t the access counts of some keys may have risen, no further than to 255, but not those of streamed members; nothing else has changed but the
model's count of free values. -/
def State.countsRise (s t : State) (keys : List Nat) : Prop :=
  t.chip = { s.chip with fresh := t.chip.fresh } ∧ t.plat = { s.plat with counts := t.plat.counts } ∧
    ∀ k, let old := Sparse.get 0 s.plat.counts k; let new := Sparse.get 0 t.plat.counts k;
      (k ∉ keys → new = old) ∧ (old ≤ 255 → old ≤ new ∧ new ≤ 255) ∧ (s.chip.streamed k = true → new = old)

theorem State.countsRise_trans {s t u : State} {xs ys : List Nat} (h : s.countsRise t xs) (k : t.countsRise u ys) : s.countsRise u (xs ++ ys) := by
  obtain ⟨hc, hp, hk⟩ := h
  obtain ⟨kc, kp, kk⟩ := k
  refine ⟨by rw [kc, hc], by rw [kp, hp], fun key => ?_⟩
  obtain ⟨h1, h2, h3⟩ := hk key
  obtain ⟨k1, k2, k3⟩ := kk key
  refine ⟨fun hn => ?_, fun ho => ?_, fun hs => ?_⟩
  · rw [k1 fun hm => hn (List.mem_append_right _ hm), h1 fun hm => hn (List.mem_append_left _ hm)]
  · exact ⟨Nat.le_trans (h2 ho).1 (k2 (h2 ho).2).1, (k2 (h2 ho).2).2⟩
  · rw [k3 (by rw [hc]; exact hs), h3 hs]

theorem State.countsRise_countAccesses (s : State) (g m : Nat) : s.countsRise (s.countAccesses g m) [4 * g + m] := by
  unfold State.countAccesses
  split
  · exact ⟨rfl, rfl, fun k => ⟨fun _ => rfl, fun h => ⟨Nat.le_refl _, h⟩, fun _ => rfl⟩⟩
  · rename_i hs
    refine ⟨rfl, rfl, fun k => ?_⟩
    simp only [Sparse.get_set, List.mem_singleton]
    refine ⟨fun hk => if_neg (Ne.symm hk), fun h => ?_, fun hk => if_neg fun e => hs (by rw [e]; exact hk)⟩
    split
    · rename_i e; rw [e]; omega
    · exact ⟨Nat.le_refl _, h⟩

theorem Chip.streamed_iff (c : Chip) (key : Nat) :
    c.streamed key = true ↔ (∃ l ∈ c.launches, ∃ h ∈ l.hints, h.hint = 1 ∧ key ∈ h.members) ∧ key ∉ c.reached := by
  simp [Chip.streamed]

/-! ### Swaps (R368) -/

theorem exec_tierSwap (g m : Nat) (s : State) : exec (.tierSwap g m) s = .next (s.tierSwap g m) := rfl

/-- No swap is possible where there is no tier, the group is pinned, or the member is fast or absent. -/
theorem State.tierSwap_idle {s : State} {g m : Nat}
    (h : s.chip.cap = 0 ∨ bit (s.plat.entry g).toNat 8 = true ∨ slotIn (s.plat.entry g) m = 0 ∨ s.chip.memberExists g m = false) : s.tierSwap g m = s := by
  refine if_pos ?_
  obtain h | h | h | h := h <;> simp [h]

/-- A possible swap is made where the member's count exceeds the fast member's by 16 or more; else both counts are brought up to date. -/
theorem State.tierSwap_eq {s : State} {g m f : Nat} (hcap : s.chip.cap ≠ 0) (hpin : bit (s.plat.entry g).toNat 8 = false)
    (hslot : slotIn (s.plat.entry g) m ≠ 0) (hm : s.chip.memberExists g m = true) (hf : memberAt (s.plat.entry g) 0 = f) :
    s.tierSwap g m =
      if Sparse.get 0 s.plat.counts (4 * g + f) + 16 ≤ Sparse.get 0 s.plat.counts (4 * g + m) then
        { s with chip := s.chip.slowed (4 * g + f), plat := { s.plat with remap := s.plat.remap.set 0xE4 g (swapSlots (s.plat.entry g) f m) } }
      else (s.countAccesses g f).countAccesses g m := by
  subst hf
  exact if_neg (by simp [hcap, hpin, hslot, hm])

theorem Chip.lt_of_memberExists {c : Chip} {g m : Nat} (h : c.memberExists g m = true) : m < 4 := by
  simp only [Chip.memberExists, Bool.and_eq_true, decide_eq_true_eq] at h; exact h.1.2

/-! ### Refresh balances (R371) -/

theorem exec_refreshTick (ch : Nat) (s : State) : exec (.refreshTick ch) s = .next (s.setBalance ch fun b => max (-8) (b - 1)) := rfl
theorem exec_refreshPullIn (ch : Nat) (s : State) : exec (.refreshPullIn ch) s = .next (s.setBalance ch fun b => if b < 8 then b + 1 else b) := rfl

theorem Chip.channelWorks_iff (c : Chip) (code : Nat) : c.channelWorks code = true ↔ channelFitted c code := by
  simp [Chip.channelWorks, channelFitted, and_assoc]

theorem State.setBalance_idle {s : State} {ch : Nat} (h : ¬ channelFitted s.chip (channelCode ch)) (f : Int → Int) : s.setBalance ch f = s := by
  rw [← Chip.channelWorks_iff, Bool.not_eq_true] at h
  unfold State.setBalance
  split
  · rfl
  · simp [h]

theorem State.setBalance_eq {s : State} {ch : Nat} {b : Int} (hb : s.plat.refresh[ch]? = some b) (h : channelFitted s.chip (channelCode ch))
    (f : Int → Int) : s.setBalance ch f =
      ({ s with plat := { s.plat with refresh := s.plat.refresh.set ch (f b) } } : State).statusPut (0x100 + ch) 1 (pattern 8 (f b)) := by
  rw [← Chip.channelWorks_iff] at h
  simp [State.setBalance, hb, h]

/-- A working channel takes its new balance, which the status block shows; no other channel and no other byte changes. -/
theorem State.setBalance_effect {s : State} {ch : Nat} {b : Int} (hb : s.plat.refresh[ch]? = some b) (h : channelFitted s.chip (channelCode ch))
    (f : Int → Int) :
    let t := s.setBalance ch f
    t.plat.refresh[ch]? = some (f b) ∧ (∀ j, j ≠ ch → t.plat.refresh[j]? = s.plat.refresh[j]?) ∧ t.plat = { s.plat with refresh := t.plat.refresh } ∧
      reportsOnly s.chip t.chip ∧ (s.chip.running = true → t.chip.dev.byte (s.chip.status + 0x100 + ch) = BitVec.ofInt 8 (f b)) ∧
      ∀ a, ¬(s.chip.running = true ∧ a = s.chip.status + 0x100 + ch) → t.chip.dev.byte a = s.chip.dev.byte a := by
  obtain ⟨hlt, -⟩ := List.getElem?_eq_some_iff.mp hb
  simp only [State.setBalance_eq hb h, statusPut_plat, statusPut_chip]
  refine ⟨by simp [hlt], fun j hj => by simp [Ne.symm hj], trivial, ?_, fun hr => ?_, fun a ha => ?_⟩
  · split <;> rfl
  · rw [if_pos hr, Nat.add_assoc]
    exact (Mem.byte_setLe_one _ _ _).trans (ofNat_pattern 8 (f b))
  · split
    · rename_i hr
      refine Mem.byte_setLe_of_apart _ _ ?_
      have : a ≠ s.chip.status + 0x100 + ch := fun e => ha ⟨hr, e⟩
      unfold apart; omega
    · rfl

/-! ### Power statistics and energy (R372, R379, R380) -/

/-- From s to t nothing has moved but the energy of contexts and its report. -/
def State.energyMoves (s t : State) : Prop := reportsOnly s.chip t.chip ∧ t.plat = { s.plat with energy := t.plat.energy }

theorem State.energyMoves_addEnergy {s t : State} (h : s.energyMoves t) (x : Nat) : s.energyMoves (t.addEnergy x) := by
  obtain ⟨hc, hp⟩ := h
  refine ⟨?_, ?_⟩
  · refine reportsOnly_statusPut ?_ _ _ _
    exact reportsOnly_trans hc (reportsOnly_free t)
  · simp only [State.addEnergy, statusPut_plat]
    rw [hp]

theorem State.energy_addEnergy_ne (s : State) {x y : Nat} (h : y ≠ x) : (s.addEnergy x).plat.energy.getD y 0 = s.plat.energy.getD y 0 := by
  simp only [State.addEnergy, statusPut_plat]
  exact getD_modAt_ne _ _ _ h

theorem State.energyMoves_addEnergies {s t : State} (h : s.energyMoves t) (xs : List (Option Nat)) : s.energyMoves (t.addEnergies xs) :=
  foldl_keeps (P := s.energyMoves) (fun _ x hu => energyMoves_addEnergy hu x) _ h

theorem State.energy_addEnergies_of_notMem (s : State) {xs : List (Option Nat)} {y : Nat} (h : some y ∉ xs) :
    (s.addEnergies xs).plat.energy.getD y 0 = s.plat.energy.getD y 0 := by
  refine List.foldlRecOn (motive := fun t : State => t.plat.energy.getD y 0 = s.plat.energy.getD y 0) _ _ rfl fun t ht x hx => ?_
  have hne : y ≠ x := by rintro rfl; exact h (by simpa using hx)
  exact (energy_addEnergy_ne t hne).trans ht

theorem State.addEnergies_none {s : State} {xs : List (Option Nat)} (h : ∀ x ∈ xs, x = none) : s.addEnergies xs = s := by
  have : xs.filterMap id = [] := List.filterMap_eq_nil_iff.mpr fun x hx => h x hx
  rw [State.addEnergies, this, List.foldl_nil]

theorem exec_fillerInjection (n b : Nat) (s : State) : exec (.fillerInjection n b) s = .next (s.addEnergies (s.chip.bench n b).lastCtx) := rfl

/-! ### Clocks (R20, R379) -/

theorem exec_clockWindowEnd (n i m : Nat) (s : State) : exec (.clockWindowEnd n i m) s = .next (s.windowEnd n i m) := rfl

theorem reportsOnly_countSuppressed {c : Chip} {s : State} (h : reportsOnly c s.chip) (n : Nat) : reportsOnly c (s.countSuppressed n).chip := by
  refine reportsOnly_statusPut (reportsOnly_statusPut ?_ _ _ _) _ _ _
  exact reportsOnly_trans h (reportsOnly_free s)

theorem State.countSuppressed_plat (s : State) (n : Nat) : (s.countSuppressed n).plat = { s.plat with suppressed := (s.countSuppressed n).plat.suppressed } := by
  simp [State.countSuppressed]

/-- The machine with the clock of a core after a window. -/
def State.clocked (s : State) (n i m : Nat) : State := { s with plat := { s.plat with clocks := modAt s.plat.clocks n fun f => clockNext f i m } }

/-- The end of a window gives an enabled core its next clock; besides that only reports, statistics and energy move. -/
theorem State.windowEnd_effect {s : State} {n : Nat} (hen : (s.chip.core n).enabled = true) (hn : n < s.plat.clocks.length) (i m : Nat) :
    let t := s.windowEnd n i m
    reportsOnly s.chip t.chip ∧ t.plat = { s.plat with
      clocks := modAt s.plat.clocks n fun f => clockNext f i m, suppressed := t.plat.suppressed, energy := t.plat.energy } := by
  have hw : s.windowEnd n i m = (List.range 6).foldl (fun u b => u.addEnergies (u.chip.bench n b).lastCtx) (((s.clocked n i m).clockReport n).countSuppressed n) :=
    if_neg (by simp [hen, hn])
  obtain ⟨hchip, hplat⟩ : (((s.clocked n i m).clockReport n).countSuppressed n).energyMoves (s.windowEnd n i m) := by
    rw [hw]
    exact foldl_keeps (P := State.energyMoves _) (fun _ b hu => energyMoves_addEnergies hu _) _ ⟨reportsOnly_refl _, rfl⟩
  have hreport : reportsOnly s.chip ((s.clocked n i m).clockReport n).chip := by
    refine reportsOnly_statusPut ?_ _ _ _
    exact reportsOnly_refl s.chip
  refine ⟨reportsOnly_trans (reportsOnly_countSuppressed hreport n) hchip, ?_⟩
  rw [hplat, countSuppressed_plat, State.clockReport, statusPut_plat]
  rfl

theorem clockNext_eq {f : Nat} (h : f ∈ [1000, 1600, 2000, 2500]) (i m : Nat) :
    clockNext f i m =
      if 4 * i < i + m then (if f = 2500 then 2000 else if f = 2000 then 1600 else 1000)
      else if i + m ≤ 2 * i then (if f = 1000 then 1600 else if f = 1600 then 2000 else 2500) else f := by
  have hup : clockUp f = if f = 1000 then 1600 else if f = 1600 then 2000 else 2500 := by revert f; decide
  have hdown : clockDown f = if f = 2500 then 2000 else if f = 2000 then 1600 else 1000 := by revert f; decide
  rw [clockNext, hup, hdown]
  by_cases h0 : i + m = 0
  · rw [if_pos h0, if_neg (show ¬4 * i < i + m by omega), if_pos (show i + m ≤ 2 * i by omega)]
  · rw [if_neg h0]

theorem exec_packageLimiter (n mhz : Nat) (s : State) : exec (.packageLimiter n mhz) s =
    .next (if clockSteps.contains mhz ∧ (s.chip.core n).enabled ∧ n < s.plat.limits.length then
      ({ s with plat := { s.plat with limits := modAt s.plat.limits n fun _ => mhz } } : State).clockReport n else s) := rfl

end Sys2Proof.Machine
end

section
/-! PlatformUpkeep (O54): one theorem per clause of the statement, then their conjunction. -/

namespace Sys2Proof.Machine

/-- Gating and waking of clusters, and what the cores of one that goes Off lose (R345, R346). -/
theorem clusterPower_moves (s : State) (n : Nat) :
    (s.chip.clusterIdle n = true → powerMoves (.clusterGateRequest n) s n .on .gating) ∧
      (s.chip.clusterIdle n = false → exec (.clusterGateRequest n) s = .next s) ∧
      powerMoves (.clusterGatingComplete n) s n .gating .off ∧
      (s.powerOf n = .gating → ∃ t, exec (.clusterGatingComplete n) s = .next t ∧ ∀ k ∈ s.chip.clusterCores n,
        (∀ off, t.chip.byteAt (.scr k.1 off) = 0) ∧ (∀ l, Sparse.get false (t.chip.core k.1).absent l = false) ∧ (t.chip.core k.1).l1 = [] ∧
          (t.chip.core k.1).tlb = [] ∧ ∀ i, ((t.chip.core k.1).slots.getD i {}).issue = 0 ∧ ((t.chip.core k.1).slots.getD i {}).done = 0) ∧
      powerMoves (.clusterGatingAbandon n) s n .abandoning .on ∧ powerMoves (.clusterWakeComplete n) s n .waking .on := by
  have complete : s.powerOf n = .gating → exec (.clusterGatingComplete n) s = .next (s.goneOff n) := fun h => by
    rw [exec_clusterGatingComplete, if_pos h]
  refine ⟨fun hidle => ?_, fun hidle => ?_, ?_, fun hg => ⟨_, complete hg, fun k hk => ?_⟩, ?_, ?_⟩
  · exact powerMoves_of_exec (fun h => by rw [exec_clusterGateRequest, if_pos ⟨h, hidle⟩]) rfl rfl
  · rw [exec_clusterGateRequest, if_neg (by simp [hidle])]
  · exact powerMoves_of_exec complete rfl (Chip.foldl_modCore_besides _ _ _)
  · simp only [Chip.byteAt_scr, State.core_goneOff hk]
    exact ⟨fun _ => rfl, fun _ => rfl, rfl, rfl, fun i => by rw [Core.slots_lose]; exact ⟨rfl, rfl⟩⟩
  · exact powerMoves_of_exec (fun h => by rw [exec_clusterGatingAbandon, if_pos h]) rfl rfl
  · exact powerMoves_of_exec (fun h => by rw [exec_clusterWakeComplete, if_pos h]) rfl rfl

/-- The watchdog's record of a squad in a local wait (R347). -/
theorem watchdog_reports {s : State} {q : Squad} {x : Ctx} (hq : s.chip.squad? q.uid = some q) (hx : s.chip.ctx? q.exe.ctx = some x)
    (hw : x.watchdog ≠ 0) (row a : Nat) :
    (s.chip.localWait q = none → exec (.watchdogReport q.uid) s = .next s) ∧
      (s.chip.localWait q = some (row, a) → s.chip.queueRoom x.errBase x.errCap = true →
        ∃ t, exec (.watchdogReport q.uid) s = .next t ∧ appended s.chip t.chip x.errBase x.errCap
          (0x26 + row * 2 ^ 8 + q.place.slot * 2 ^ 30 + q.place.bench * 2 ^ 36 + q.place.core * 2 ^ 40 + a * 2 ^ 128 + a * 2 ^ 192) ∧
          reportsOnly s.chip t.chip ∧ t.plat = s.plat) := by
  rw [exec_watchdogReport]
  refine ⟨fun hwait => by rw [Chip.watchdog_idle hq hwait], fun hwait hroom => ?_⟩
  have record := record212_eq 0x26 row q.place.slot q.place.bench q.place.core 0 a a
  rw [Nat.zero_mul, Nat.add_zero] at record
  rw [← record, Chip.watchdog_waiting hq hx hw hwait, Chip.errAppend_of_room hx hroom]
  exact ⟨_, rfl, Chip.queueWrite_appended _ _ _ _, rfl, rfl⟩

theorem tierCounts_halve {s : State} (h : Sparse.Wf 0 s.plat.counts) :
    ∃ t, exec .tierCountHalving s = .next t ∧ (∀ k, Sparse.get 0 t.plat.counts k = Sparse.get 0 s.plat.counts k / 2) ∧
      t.chip = s.chip ∧ t.plat = { s.plat with counts := t.plat.counts } :=
  ⟨_, exec_tierCountHalving s, Sparse.get_filterMap_value (g := fun v => v / 2) rfl h, rfl, rfl⟩

/-- A swap that is due exchanges two slots of the group's entry and nothing else of the platform (R368). -/
theorem tierSwap_exchanges {s : State} {g m : Nat} (hcap : s.chip.cap ≠ 0) (hpin : bit (s.plat.entry g).toNat 8 = false)
    (hslot : slotIn (s.plat.entry g) m ≠ 0) (hm : s.chip.memberExists g m = true) :
    let e := s.plat.entry g
    let f := memberAt e 0
    Sparse.get 0 s.plat.counts (4 * g + f) + 16 ≤ Sparse.get 0 s.plat.counts (4 * g + m) →
      ∃ t, exec (.tierSwap g m) s = .next t ∧ slotIn (t.plat.entry g) m = slotIn e f ∧ slotIn (t.plat.entry g) f = slotIn e m ∧
        (∀ k, k < 4 → k ≠ m → k ≠ f → slotIn (t.plat.entry g) k = slotIn e k) ∧ bits (t.plat.entry g).toNat 15 8 = bits e.toNat 15 8 ∧
        (∀ h, h ≠ g → t.plat.entry h = s.plat.entry h) ∧ t.plat = { s.plat with remap := t.plat.remap } ∧
        t.chip = { s.chip with launches := s.chip.launches.map fun l =>
          { l with hints := l.hints.map fun h => { h with slow := h.slow || h.members.contains (4 * g + f) } } } := by
  intro e f hdue
  obtain ⟨slots, upper⟩ := slotIn_swapSlots e f m
  have hfm : m ≠ f := fun h => by rw [h] at hdue; omega
  have entry := Plat.entry_set_self (Plat.entry_of_unpinned hpin) (swapSlots e f m)
  have swap := State.tierSwap_eq hcap hpin hslot hm rfl
  rw [if_pos hdue] at swap
  refine ⟨_, (exec_tierSwap g m s).trans (congrArg _ swap), ?_, ?_, fun k hk hkm hkf => ?_, ?_,
    fun h hh => Plat.entry_set_ne _ hh _, rfl, rfl⟩
  · rw [entry, slots m (Chip.lt_of_memberExists hm), if_neg hfm, if_pos rfl]
  · rw [entry, slots f (memberAt_lt _ _), if_pos rfl]
  · rw [entry, slots k hk, if_neg hkf, if_neg hkm]
  · rw [entry, upper]

/-- A swap that is not due exchanges nothing; the counts of the two members may rise, but not those of streamed members (R368, R369, log 65). -/
theorem tierSwap_counts {s : State} {g m : Nat} (hcap : s.chip.cap ≠ 0) (hpin : bit (s.plat.entry g).toNat 8 = false)
    (hslot : slotIn (s.plat.entry g) m ≠ 0) (hm : s.chip.memberExists g m = true) :
    let f := memberAt (s.plat.entry g) 0
    Sparse.get 0 s.plat.counts (4 * g + m) < Sparse.get 0 s.plat.counts (4 * g + f) + 16 →
      ∃ t, exec (.tierSwap g m) s = .next t ∧ s.countsRise t [4 * g + f, 4 * g + m] := by
  intro f hless
  have swap := State.tierSwap_eq hcap hpin hslot hm rfl
  rw [if_neg (Nat.not_le.mpr hless)] at swap
  exact ⟨_, (exec_tierSwap g m s).trans (congrArg _ swap),
    State.countsRise_trans (State.countsRise_countAccesses s g f) (State.countsRise_countAccesses _ g m)⟩

/-- The clock after a window, of an enabled core at one of the four clocks (R379). -/
theorem clockWindow_moves {s : State} {n f : Nat} (i m : Nat) (hen : (s.chip.core n).enabled = true) (hf : s.plat.clocks[n]? = some f)
    (hstep : f ∈ [1000, 1600, 2000, 2500]) :
    let up := if f = 1000 then 1600 else if f = 1600 then 2000 else 2500
    let down := if f = 2500 then 2000 else if f = 2000 then 1600 else 1000
    ∃ t, exec (.clockWindowEnd n i m) s = .next t ∧
      t.plat.clocks[n]? = some (if 4 * i < i + m then down else if i + m ≤ 2 * i then up else f) ∧
      (∀ j, j ≠ n → t.plat.clocks[j]? = s.plat.clocks[j]?) ∧ reportsOnly s.chip t.chip ∧
      t.plat = { s.plat with clocks := t.plat.clocks, suppressed := t.plat.suppressed, energy := t.plat.energy } := by
  obtain ⟨hlt, -⟩ := List.getElem?_eq_some_iff.mp hf
  obtain ⟨hchip, hplat⟩ := State.windowEnd_effect hen hlt i m
  have hclocks : (s.windowEnd n i m).plat.clocks = modAt s.plat.clocks n fun f => clockNext f i m := by rw [hplat]
  refine ⟨_, exec_clockWindowEnd n i m s, ?_, fun j hj => ?_, hchip, ?_⟩
  · rw [hclocks, getElem?_modAt_self, hf, Option.map_some, clockNext_eq hstep]
  · rw [hclocks, getElem?_modAt_ne _ _ hj]
  · rw [hclocks]; exact hplat

/-- The package limiter holds an enabled core at one of the clocks of R5 (R20). -/
theorem packageLimiter_limits (s : State) (n mhz : Nat) :
    (mhz ∉ [1000, 1600, 2000, 2500] ∨ (s.chip.core n).enabled = false → exec (.packageLimiter n mhz) s = .next s) ∧
      (mhz ∈ [1000, 1600, 2000, 2500] → (s.chip.core n).enabled = true → n < s.plat.limits.length →
        ∃ t, exec (.packageLimiter n mhz) s = .next t ∧ t.plat.clock n = min (s.plat.clocks.getD n 2500) mhz ∧
          (∀ j, j ≠ n → t.plat.clock j = s.plat.clock j) ∧ reportsOnly s.chip t.chip ∧ t.plat = { s.plat with limits := t.plat.limits }) := by
  rw [exec_packageLimiter]
  refine ⟨fun h => ?_, fun hstep hen hn => ?_⟩
  · rw [if_neg]
    rintro ⟨hstep, hen, -⟩
    exact h.elim (fun hn => hn (List.contains_iff_mem.mp hstep)) fun hn => by rw [hn] at hen; cases hen
  · refine ⟨_, congrArg _ (if_pos ⟨List.contains_iff_mem.mpr hstep, hen, hn⟩), ?_, fun j hj => ?_, ?_, ?_⟩
    · rw [State.clockReport, State.statusPut_plat, Plat.clock, getD_modAt_self hn]
    · rw [State.clockReport, State.statusPut_plat, Plat.clock, Plat.clock, getD_modAt_ne _ _ _ hj]
    · refine reportsOnly_statusPut ?_ _ _ _
      exact reportsOnly_refl _
    · rw [State.clockReport, State.statusPut_plat]

/-- Fillers give energy to contexts and change nothing else (R380). -/
theorem fillers_energy (s : State) (n b : Nat) :
    ((∀ x ∈ (s.chip.bench n b).lastCtx, x = none) → exec (.fillerInjection n b) s = .next s) ∧
      ∃ t, exec (.fillerInjection n b) s = .next t ∧ reportsOnly s.chip t.chip ∧ t.plat = { s.plat with energy := t.plat.energy } ∧
        ∀ x, some x ∉ (s.chip.bench n b).lastCtx → t.plat.energy.getD x 0 = s.plat.energy.getD x 0 := by
  obtain ⟨hchip, hplat⟩ := State.energyMoves_addEnergies (s := s) ⟨reportsOnly_refl _, rfl⟩ (s.chip.bench n b).lastCtx
  rw [exec_fillerInjection]
  exact ⟨fun h => by rw [State.addEnergies_none h], _, rfl, hchip, hplat, fun x hx => State.energy_addEnergies_of_notMem s hx⟩

theorem layby_pinned {p : Plat} {g a : Nat} (ha : a ∈ p.layby) (hlo : a / 65536 ≤ g) (hhi : g < a / 65536 + 32) : bit (p.entry g).toNat 8 = true :=
  Plat.entry_pinned (List.any_eq_true.mpr ⟨a, ha, by simp [hlo, hhi]⟩)

/-- Settles O54: each clause holds by the theorem above that speaks of its event. -/
theorem platformUpkeep : Obligations.PlatformUpkeep := by
  unfold Obligations.PlatformUpkeep
  refine ⟨clusterPower_moves, fun s q x row a hq hx hw => watchdog_reports hq hx hw row a, fun s h => tierCounts_halve h, fun s g m => ?_,
    fun s g a ha hlo hhi => layby_pinned ha hlo hhi, fun s ch b hb => ?_, fun s n i m f hen hf hstep => clockWindow_moves i m hen hf hstep,
    packageLimiter_limits, fillers_energy⟩
  · refine ⟨fun h => congrArg _ (State.tierSwap_idle h), fun hcap hpin hslot hm => ⟨tierSwap_exchanges hcap hpin hslot hm, fun hless => ?_⟩⟩
    obtain ⟨t, ht, hchip, hplat, counts⟩ := tierSwap_counts hcap hpin hslot hm hless
    refine ⟨t, ht, hchip, hplat, fun k hf hm => (counts k).1 (by simp [hf, hm]), fun k => (counts _).2.1, fun k hstream hreach => ?_⟩
    exact (counts _).2.2 ((Chip.streamed_iff _ _).mpr ⟨hstream, hreach⟩)
  · refine ⟨fun hfit => ⟨⟨_, exec_refreshTick ch s, ?_⟩, ⟨_, exec_refreshPullIn ch s, State.setBalance_effect hb hfit _⟩⟩, fun hfit => ⟨?_, ?_⟩⟩
    · have tick : max (-8) (b - 1) = if b - 1 < -8 then -8 else b - 1 := by split <;> omega
      exact tick ▸ State.setBalance_effect hb hfit _
    · rw [exec_refreshTick, State.setBalance_idle hfit]
    · rw [exec_refreshPullIn, State.setBalance_idle hfit]

end Sys2Proof.Machine
end

section
/-! Error counters, thresholds and lasting faults (R381 to R383): what counting, a threshold and a lasting fault do, once each. -/

namespace Sys2Proof.Machine

theorem exec_errorCounted (e : ErrPlace) (bad : Bool) (cycle : DWord) (line : Nat) (s : State) :
    exec (.errorCounted e bad cycle line) s = .next (s.errorCounted e bad cycle.toNat line) := rfl

/-! ### Counters -/

theorem Plat.counter_place (p : Plat) (e : ErrPlace) : (p.counter e).place = e := by
  unfold Plat.counter
  cases h : p.errors.find? fun k => k.place == e with
  | none => rfl
  | some k => simpa using List.find?_some h

theorem Plat.counter_congr {p q : Plat} (h : p.errors = q.errors) (e : ErrPlace) : p.counter e = q.counter e := by
  rw [Plat.counter, h, Plat.counter]

/-- A list of counters without the ones of a place finds what it found of every other place. -/
theorem find?_filter_place (es : List ErrCounter) (e x : ErrPlace) :
    (es.filter fun k => k.place != e).find? (fun k => k.place == x) = if x = e then none else es.find? fun k => k.place == x := by
  rw [List.find?_filter]
  split
  · rename_i h
    subst h
    exact List.find?_eq_none.mpr fun k _ => by simp
  · rename_i h
    refine congrArg (fun f => es.find? f) (funext fun k => ?_)
    by_cases hk : k.place = x
    · simp [hk, h]
    · simp [hk]

/-- The counter of a place with one more error, corrected or not. -/
def ErrCounter.up (k : ErrCounter) (bad : Bool) : ErrCounter := if bad then { k with bad := k.bad + 1 } else { k with count := k.count + 1 }

theorem ErrCounter.up_place (k : ErrCounter) (bad : Bool) : (k.up bad).place = k.place := by unfold ErrCounter.up; split <;> rfl

/-- The machine with one more error counted on a place. -/
def State.noted (s : State) (e : ErrPlace) (bad : Bool) : State :=
  { s with plat := { s.plat with errors := (s.plat.errors.filter fun x => x.place != e) ++ [(s.plat.counter e).up bad] } }

theorem State.counter_noted (s : State) (e x : ErrPlace) (bad : Bool) :
    (s.noted e bad).plat.counter x = if x = e then (s.plat.counter e).up bad else s.plat.counter x := by
  have hplace : ((s.plat.counter e).up bad).place = e := (ErrCounter.up_place _ _).trans (Plat.counter_place _ _)
  simp only [Plat.counter, State.noted, List.find?_append, find?_filter_place] at hplace ⊢
  by_cases h : x = e
  · subst h; simp [hplace]
  · simp [h, hplace, Ne.symm h]

theorem State.countAt_eq (s : State) (e : ErrPlace) (bad : Bool) (cycle : Nat) :
    s.countAt e bad cycle = match ((s.plat.counter e).up bad).reached bad with
      | some v => (s.noted e bad).markLasting e cycle v
      | none => s.noted e bad := rfl

/-- Corrected errors at which a fault of a place becomes lasting (R381). -/
def threshold : ErrPlace → Nat
  | .row _ => 4
  | .channel _ => 64
  | .wavelength _ => 1024
  | .bench _ _ => 16

theorem ErrCounter.reached_corrected (k : ErrCounter) : k.reached false = if k.count = threshold k.place then some k.count else none := by
  unfold ErrCounter.reached
  cases k.place <;> rfl

theorem State.countAt_below {s : State} {e : ErrPlace} (h : (s.plat.counter e).count + 1 ≠ threshold e) (cycle : Nat) :
    s.countAt e false cycle = s.noted e false := by
  rw [countAt_eq, ErrCounter.reached_corrected, ErrCounter.up_place, Plat.counter_place, if_neg]
  exact h

theorem State.countAt_reached {s : State} {e : ErrPlace} (h : (s.plat.counter e).count + 1 = threshold e) (cycle : Nat) :
    s.countAt e false cycle = (s.noted e false).markLasting e cycle (threshold e) := by
  have hup : ((s.plat.counter e).up false).count = threshold e := h
  rw [countAt_eq, ErrCounter.reached_corrected, ErrCounter.up_place, Plat.counter_place, if_pos hup, hup]

/-- Two uncorrectable errors of a channel are lasting (R381). -/
theorem State.countAt_bad {s : State} {ch : BitVec 10} (h : (s.plat.counter (.channel ch)).bad + 1 = 2) (cycle : Nat) :
    s.countAt (.channel ch) true cycle = (s.noted (.channel ch) true).markLasting (.channel ch) cycle 2 := by
  have hup : ((s.plat.counter (.channel ch)).up true).reached true = some 2 := by
    rw [ErrCounter.reached, ErrCounter.up_place, Plat.counter_place]
    exact (if_pos h).trans (congrArg some h)
  rw [countAt_eq, hup]

/-! ### Lasting faults -/

/-- The machine with a lasting fault in the repair table and in the retirement log, before its lasting action. -/
def State.recorded (s : State) (e : ErrPlace) (cycle v : Nat) : State :=
  let x := s.chip.errPlace e
  ({ s with plat := { s.plat with repair := s.plat.repair ++ [(x.1, x.2.2)], spdm := s.plat.spdm.changed } } : State).logAppend
    (fld 128 x.2.2 + fld 64 (cycle % 2 ^ 64) + fld 32 (v % 2 ^ 32) + fld 8 x.2.1 + x.1)

theorem State.markLasting_eq (s : State) (e : ErrPlace) (cycle v : Nat) :
    s.markLasting e cycle v =
      if ((s.chip.errPlace e).1, (s.chip.errPlace e).2.2) ∈ s.plat.repair then s else (s.recorded e cycle v).lasting e := by
  simp only [State.markLasting, List.contains_iff_mem]
  rfl

theorem State.recorded_effect (s : State) (e : ErrPlace) (cycle v : Nat) :
    let t := s.recorded e cycle v
    reportsOnly s.chip t.chip ∧ t.plat.repair = s.plat.repair ++ [((s.chip.errPlace e).1, (s.chip.errPlace e).2.2)] ∧ t.plat.errors = s.plat.errors ∧
      t.plat.retiring = s.plat.retiring := by
  refine ⟨?_, ?_, ?_, ?_⟩
  · refine reportsOnly_trans ?_ (reportsOnly_logAppend _ _)
    exact reportsOnly_refl _
  all_goals simp only [State.recorded]; rw [State.logAppend_plat]

/-- What a lasting action leaves alone: squads, unreadable bytes, counters, the repair table; and rows and channels already marked stay so. -/
def State.lastingKeeps (s t : State) : Prop :=
  t.chip.squads = s.chip.squads ∧ t.chip.bad = s.chip.bad ∧ t.plat.errors = s.plat.errors ∧ s.plat.repair ⊆ t.plat.repair ∧
    s.chip.copying ⊆ t.chip.copying

theorem State.lastingKeeps_lasting (s : State) (e : ErrPlace) : s.lastingKeeps (s.lasting e) := by
  cases e with
  | row p => exact ⟨rfl, rfl, rfl, fun _ h => h, fun _ h => List.mem_append_left _ h⟩
  | channel p => exact ⟨rfl, rfl, rfl, fun _ h => h, fun _ h => h⟩
  | wavelength p => exact ⟨rfl, rfl, rfl, fun _ h => h, fun _ h => h⟩
  | bench n b => exact ⟨rfl, rfl, rfl, fun _ h => h, fun _ h => h⟩

theorem State.lasting_repair (s : State) (e : ErrPlace) : (s.lasting e).plat.repair = s.plat.repair := by cases e <;> rfl

theorem State.lastingKeeps_markLasting (s : State) (e : ErrPlace) (cycle v : Nat) : s.lastingKeeps (s.markLasting e cycle v) := by
  rw [markLasting_eq]
  split
  · exact ⟨rfl, rfl, rfl, fun _ h => h, fun _ h => h⟩
  · obtain ⟨hchip, hrepair, herr, -⟩ := s.recorded_effect e cycle v
    obtain ⟨hsq, hbad, herr', hrep', hcopy⟩ := (s.recorded e cycle v).lastingKeeps_lasting e
    obtain ⟨ksq, kbad, kcopy, -, -⟩ := reportsOnly_keeps hchip
    exact ⟨hsq.trans ksq, hbad.trans kbad, herr'.trans herr, fun x hx => hrep' (by rw [hrepair]; exact List.mem_append_left _ hx),
      fun x hx => hcopy (by rw [kcopy]; exact hx)⟩

theorem State.lastingKeeps_countAt (s : State) (e : ErrPlace) (bad : Bool) (cycle : Nat) : (s.noted e bad).lastingKeeps (s.countAt e bad cycle) := by
  rw [countAt_eq]
  split
  · exact lastingKeeps_markLasting _ _ _ _
  · exact ⟨rfl, rfl, rfl, fun _ h => h, fun _ h => h⟩

/-- An error counts on its own place and on no other. -/
theorem State.counter_countAt (s : State) (e x : ErrPlace) (bad : Bool) (cycle : Nat) :
    (s.countAt e bad cycle).plat.counter x = if x = e then (s.plat.counter e).up bad else s.plat.counter x := by
  obtain ⟨-, -, herr, -, -⟩ := s.lastingKeeps_countAt e bad cycle
  rw [Plat.counter_congr herr, counter_noted]

/-- A fault that becomes lasting for the first time ends the repair table, and its lasting action is taken on a chip that has written reports alone. -/
theorem State.markLasting_new {s : State} {e : ErrPlace} (h : ((s.chip.errPlace e).1, (s.chip.errPlace e).2.2) ∉ s.plat.repair) (cycle v : Nat) :
    ∃ u : State, s.markLasting e cycle v = u.lasting e ∧ reportsOnly s.chip u.chip ∧
      u.plat.repair = s.plat.repair ++ [((s.chip.errPlace e).1, (s.chip.errPlace e).2.2)] ∧ u.plat.retiring = s.plat.retiring := by
  obtain ⟨hchip, hrepair, -, hret⟩ := s.recorded_effect e cycle v
  exact ⟨_, by rw [markLasting_eq, if_neg h], hchip, hrepair, hret⟩

/-- A port when one of its wavelengths has been retired. -/
def Port.withoutWave (x : Port) (i : Nat) : Port :=
  let y := { x with working := modAt x.working i fun _ => false }
  { y with width := min y.width y.full }

/-- A retired wavelength no longer works, and its port is no wider than before (R310). -/
theorem Chip.port_retireWave {c : Chip} {p : Nat} {x : Port} (hx : c.fab.ports[p / 8]? = some x) :
    ∃ y, (c.retireWave p).fab.ports[p / 8]? = some y ∧ y.width ≤ x.width ∧
      ∀ j, y.working.getD j false = if j = p % 8 then false else x.working.getD j false := by
  refine ⟨x.withoutWave (p % 8), (getElem?_modAt_self _ _ _).trans (congrArg _ hx), Nat.min_le_left _ _, fun j => ?_⟩
  split
  · rename_i hj
    subst hj
    rw [Port.withoutWave, List.getD_eq_getElem?_getD, getElem?_modAt_self]
    cases x.working[p % 8]? <;> rfl
  · rename_i hj
    exact getD_modAt_ne _ _ _ hj

theorem Chip.bench_modBench_self {c : Chip} {n b : Nat} (h : 6 * n + b < c.benches.length) (f : Bench → Bench) :
    (c.modBench n b f).bench n b = f (c.bench n b) := getD_modAt_self h f _

/-! ### Rows and channels -/

theorem bits_row_channel (p : BitVec 40) : bits p.toNat 39 30 = p.toNat / 2 ^ 30 := by
  unfold bits
  rw [Nat.shiftRight_eq_div_pow, Nat.mod_eq_of_lt]
  have := p.isLt
  omega

/-- The channel of a row has its number in the row's code (R94). -/
theorem toNat_row_channel (p : BitVec 40) : (BitVec.ofNat 10 (p.toNat / 2 ^ 30)).toNat = p.toNat / 2 ^ 30 := by
  have := p.isLt
  rw [BitVec.toNat_ofNat, Nat.mod_eq_of_lt]
  omega

theorem Chip.bad_spoil_line (c : Chip) (line : Nat) {j : Nat} (hj : j < 128) :
    Sparse.get false (c.spoil line).bad (line / 128 * 128 + j) = true := by
  rw [Chip.spoil, Sparse.get_setList, dif_pos ⟨Nat.le_add_right _ _, by rw [List.length_replicate]; omega⟩, List.getElem_replicate]

theorem Chip.bad_spoil_of_apart (c : Chip) {line a : Nat} (h : apart a 1 (line / 128 * 128) 128) :
    Sparse.get false (c.spoil line).bad a = Sparse.get false c.bad a := by
  unfold apart at h
  rw [Chip.spoil, Sparse.get_setList, dif_neg]
  rw [List.length_replicate]
  omega

theorem exec_errorCounted_row {s : State} {p : BitVec 40} (h : channelFitted s.chip (p.toNat / 2 ^ 30)) (bad : Bool) (cycle : DWord) (line : Nat) :
    exec (.errorCounted (.row p) bad cycle line) s =
      let ch := ErrPlace.channel (BitVec.ofNat 10 (p.toNat / 2 ^ 30))
      .next (if bad then ({ s with chip := s.chip.spoil line } : State).countAt ch true cycle.toNat
        else (s.countAt (.row p) false cycle.toNat).countAt ch false cycle.toNat) := by
  rw [← Chip.channelWorks_iff] at h
  simp only [exec_errorCounted, State.errorCounted, bits_row_channel, h, Bool.not_true, Bool.false_eq_true, ↓reduceIte]

theorem exec_errorCounted_channel {s : State} {x : BitVec 10} (h : channelFitted s.chip x.toNat) (bad : Bool) (cycle : DWord) (line : Nat) :
    exec (.errorCounted (.channel x) bad cycle line) s =
      .next (if bad then ({ s with chip := s.chip.spoil line } : State).countAt (.channel x) true cycle.toNat
        else s.countAt (.channel x) false cycle.toNat) := by
  rw [← Chip.channelWorks_iff] at h
  simp only [exec_errorCounted, State.errorCounted, h, Bool.not_true, Bool.false_eq_true, ↓reduceIte]

/-- A channel that the part has not, or has retired, counts nothing (R2). -/
theorem exec_errorCounted_unfitted_row {s : State} {p : BitVec 40} (h : ¬ channelFitted s.chip (p.toNat / 2 ^ 30)) (bad : Bool) (cycle : DWord)
    (line : Nat) : exec (.errorCounted (.row p) bad cycle line) s = .next s := by
  rw [← Chip.channelWorks_iff, Bool.not_eq_true] at h
  simp only [exec_errorCounted, State.errorCounted, bits_row_channel, h, Bool.not_false, ↓reduceIte]

theorem exec_errorCounted_unfitted_channel {s : State} {x : BitVec 10} (h : ¬ channelFitted s.chip x.toNat) (bad : Bool) (cycle : DWord)
    (line : Nat) : exec (.errorCounted (.channel x) bad cycle line) s = .next s := by
  rw [← Chip.channelWorks_iff, Bool.not_eq_true] at h
  simp only [exec_errorCounted, State.errorCounted, h, Bool.not_false, ↓reduceIte]

theorem exec_errorCounted_wavelength (s : State) {x : BitVec 8} (h : x.toNat < 160) (bad : Bool) (cycle : DWord) (line : Nat) :
    exec (.errorCounted (.wavelength x) bad cycle line) s = .next (s.countAt (.wavelength x) false cycle.toNat) := by
  simp only [exec_errorCounted, State.errorCounted, h, ↓reduceIte]

theorem exec_errorCounted_bench (s : State) {n b : Nat} (hn : n < 64) (hb : b < 6) (bad : Bool) (cycle : DWord) (line : Nat) :
    exec (.errorCounted (.bench n b) bad cycle line) s = .next (s.countAt (.bench n b) false cycle.toNat) := by
  simp only [exec_errorCounted, State.errorCounted, hn, hb, and_self, ↓reduceIte]

end Sys2Proof.Machine
end

section
/-! ErrorsAndRepair (O55): one theorem per clause of the statement, then their conjunction. -/

namespace Sys2Proof.Machine

/-- A corrected error counts on its own place; below the threshold nothing else happens, and at the threshold a place that is not in the repair table ends
it and takes its lasting action (R381, R382). -/
theorem corrected_counts (s : State) (e : ErrPlace) (cycle : Nat) :
    let k := s.plat.counter e
    let t := s.countAt e false cycle
    t.plat.counter e = { k with count := k.count + 1 } ∧ (∀ x, x ≠ e → t.plat.counter x = s.plat.counter x) ∧ t.chip.squads = s.chip.squads ∧
      (k.count + 1 ≠ threshold e → t.plat.repair = s.plat.repair ∧ t.chip = s.chip) ∧
      (k.count + 1 = threshold e → ((s.chip.errPlace e).1, (s.chip.errPlace e).2.2) ∉ s.plat.repair →
        ∃ u : State, t = u.lasting e ∧ reportsOnly s.chip u.chip ∧
          u.plat.repair = s.plat.repair ++ [((s.chip.errPlace e).1, (s.chip.errPlace e).2.2)] ∧ u.plat.retiring = s.plat.retiring) := by
  obtain ⟨hsq, -⟩ := s.lastingKeeps_countAt e false cycle
  refine ⟨?_, fun x hx => ?_, hsq, fun hlow => ?_, fun hat hnew => ?_⟩
  · rw [State.counter_countAt, if_pos rfl]; rfl
  · rw [State.counter_countAt, if_neg hx]
  · rw [State.countAt_below hlow]; exact ⟨rfl, rfl⟩
  · rw [State.countAt_reached hat]; exact State.markLasting_new (s := s.noted e false) hnew cycle _

/-- A corrected row error counts on its row and on its channel; at four the row enters the repair table and its copy begins (R381). -/
theorem corrected_row {s : State} {p : BitVec 40} (h : channelFitted s.chip (p.toNat / 2 ^ 30)) (cycle : DWord) (line : Nat) :
    let ch := ErrPlace.channel (BitVec.ofNat 10 (p.toNat / 2 ^ 30))
    let k := s.plat.counter (.row p)
    ∃ t, exec (.errorCounted (.row p) false cycle line) s = .next t ∧ t.plat.counter (.row p) = { k with count := k.count + 1 } ∧
      t.plat.counter ch = { s.plat.counter ch with count := (s.plat.counter ch).count + 1 } ∧
      (k.count + 1 = 4 → (1, p.toNat) ∉ s.plat.repair → (1, p.toNat) ∈ t.plat.repair ∧ p.toNat ∈ t.chip.copying) := by
  intro ch k
  have hne : ErrPlace.row p ≠ ch := by simp [ch]
  obtain ⟨hself, hother, -, -, hlast⟩ := corrected_counts s (.row p) cycle.toNat
  generalize hr : s.countAt (.row p) false cycle.toNat = r at hself hother hlast
  obtain ⟨kself, kother, -⟩ := corrected_counts r ch cycle.toNat
  obtain ⟨-, -, -, hrep, hcopy⟩ := r.lastingKeeps_countAt ch false cycle.toNat
  refine ⟨r.countAt ch false cycle.toNat, by rw [exec_errorCounted_row h, ← hr]; rfl, ?_, ?_, fun hat hnew => ?_⟩
  · rw [kother _ hne, hself]
  · rw [kself, hother _ hne.symm]
  · obtain ⟨u, rfl, -, hurep, -⟩ := hlast hat hnew
    refine ⟨hrep ?_, hcopy (List.mem_append_right _ List.mem_cons_self)⟩
    change _ ∈ (u.lasting (.row p)).plat.repair
    rw [State.lasting_repair, hurep]
    exact List.mem_append_right _ List.mem_cons_self

/-- An uncorrectable error is its channel's, spoils its line, and at the second one of a channel retires it (R381, R383). -/
theorem uncorrectable_counts (s : State) (ch : BitVec 10) (cycle line : Nat) :
    let k := s.plat.counter (.channel ch)
    let t := ({ s with chip := s.chip.spoil line } : State).countAt (.channel ch) true cycle
    (∀ j, j < 128 → Sparse.get false t.chip.bad (line / 128 * 128 + j) = true) ∧
      (∀ a, apart a 1 (line / 128 * 128) 128 → Sparse.get false t.chip.bad a = Sparse.get false s.chip.bad a) ∧
      t.plat.counter (.channel ch) = { k with bad := k.bad + 1 } ∧
      (k.bad + 1 = 2 → (2, ch.toNat) ∉ s.plat.repair → (2, ch.toNat) ∈ t.plat.repair ∧ ch.toNat ∈ t.plat.retiring) := by
  let l : State := { s with chip := s.chip.spoil line }
  obtain ⟨-, hbad, -⟩ := l.lastingKeeps_countAt (.channel ch) true cycle
  refine ⟨fun j hj => ?_, fun a ha => ?_, ?_, fun hat hnew => ?_⟩
  · exact (congrArg (fun b => Sparse.get false b _) hbad).trans (s.chip.bad_spoil_line line hj)
  · exact (congrArg (fun b => Sparse.get false b a) hbad).trans (s.chip.bad_spoil_of_apart ha)
  · rw [State.counter_countAt, if_pos rfl]; rfl
  · obtain ⟨u, hu, -, hrep, -⟩ := State.markLasting_new (s := l.noted (.channel ch) true) (e := .channel ch) hnew cycle 2
    rw [State.countAt_bad (s := l) hat, hu]
    refine ⟨?_, List.mem_append_right _ List.mem_cons_self⟩
    rw [State.lasting_repair, hrep]
    exact List.mem_append_right _ List.mem_cons_self

/-- The end of a window clears its counter and no other. -/
theorem errorWindow_clears (s : State) (e : ErrPlace) :
    ∃ t, exec (.errorWindowEnd e) s = .next t ∧ t.plat.counter e = { place := e, count := 0 } ∧
      (∀ x, x ≠ e → t.plat.counter x = s.plat.counter x) ∧ t.chip = s.chip ∧ t.plat = { s.plat with errors := t.plat.errors } := by
  refine ⟨_, rfl, ?_, fun x hx => ?_, rfl, rfl⟩
  · rw [Plat.counter, find?_filter_place, if_pos rfl]; rfl
  · rw [Plat.counter, find?_filter_place, if_neg hx]; rfl

/-- Settles O55: a split over the places of an error, each by the theorem above that counts it. -/
theorem errorsAndRepair : Obligations.ErrorsAndRepair := by
  unfold Obligations.ErrorsAndRepair
  refine ⟨fun s e cycle line v p hp => ?_, fun s p cycle line h => corrected_row h cycle line, fun s e ch cycle line he hfit => ?_,
    fun s e bad cycle line he => ?_, errorWindow_clears, fun s p => rfl⟩
  · obtain ⟨hself, hother, hsq, hlow, hlast⟩ := corrected_counts s e cycle.toNat
    cases e with
    | row q => exact hp.elim
    | channel x =>
      obtain ⟨rfl, rfl, hfit⟩ := hp
      refine ⟨_, exec_errorCounted_channel hfit false cycle line, hself, hother, hsq, hlow, fun hat hnew => ?_⟩
      obtain ⟨u, hu, -, hrep, hret⟩ := hlast hat hnew
      rw [hu]
      exact ⟨hrep, congrArg (· ++ [x.toNat]) hret⟩
    | wavelength x =>
      obtain ⟨rfl, hlt, rfl⟩ := hp
      refine ⟨_, exec_errorCounted_wavelength s hlt false cycle line, hself, hother, hsq, hlow, fun hat hnew => ?_⟩
      obtain ⟨u, hu, hchip, hrep, -⟩ := hlast hat hnew
      obtain ⟨-, -, -, hfab, -⟩ := reportsOnly_keeps hchip
      rw [hu]
      exact ⟨hrep, fun y hy => Chip.port_retireWave (hfab ▸ hy)⟩
    | bench n b =>
      obtain ⟨hn, hb, rfl, rfl⟩ := hp
      have hplace : (s.chip.errPlace (.bench n b)).2.2 = 8 * ((s.chip.sites[n]?).join).getD 0 + b := by
        simp only [Chip.errPlace, fld_eq]; omega
      refine ⟨_, exec_errorCounted_bench s hn hb false cycle line, hself, hother, hsq, hlow, fun hat hnew => ?_⟩
      rw [← hplace] at hnew ⊢
      obtain ⟨u, hu, hchip, hrep, -⟩ := hlast hat hnew
      obtain ⟨-, -, -, -, hbenches⟩ := reportsOnly_keeps hchip
      rw [hu]
      refine ⟨hrep, fun hlt => ?_⟩
      exact congrArg Bench.closed (Chip.bench_modBench_self (by rw [hbenches]; exact hlt) _)
  · cases e with
    | row p =>
      subst he
      rw [toNat_row_channel] at hfit
      exact ⟨_, exec_errorCounted_row hfit true cycle line, uncorrectable_counts s _ cycle.toNat line⟩
    | channel x =>
      subst he
      exact ⟨_, exec_errorCounted_channel hfit true cycle line, uncorrectable_counts s _ cycle.toNat line⟩
    | wavelength x => exact he.elim
    | bench n b => exact he.elim
  · cases e with
    | row p => exact exec_errorCounted_unfitted_row he bad cycle line
    | channel x => exact exec_errorCounted_unfitted_channel he bad cycle line
    | wavelength x => exact he.elim
    | bench n b => exact he.elim

end Sys2Proof.Machine
end

section
/-! ResetState (O58). -/

namespace Sys2Proof.Machine

/-- An ordering code's enabled cores, stacks and fast tier (R1, R366). -/
theorem resetOf_part (p : Part) :
    ((List.range 64).filter fun n => ((State.resetOf p).chip.core n).enabled).length = p.cores ∧
      (State.resetOf p).chip.fitted.length = p.stackCount ∧ (State.resetOf p).chip.fast = p.stackCount * 2 ^ 36 ∧ (State.resetOf p).plat.part = p := by
  have hstacks : (State.resetOf p).chip.fitted.length = p.stackCount := List.length_range
  refine ⟨?_, hstacks, congrArg (· * 2 ^ 36) hstacks, rfl⟩
  cases p <;> decide

theorem memoryWf_reset : memoryWf State.reset := by
  refine ⟨⟨List.Pairwise.nil, nofun⟩, ⟨List.Pairwise.nil, nofun⟩, fun k hk => ?_⟩
  obtain ⟨n, -, rfl⟩ := List.mem_map.mp hk
  exact ⟨List.Pairwise.nil, nofun⟩

/-- At reset each member of a group holds the slot of its own number, whether the group is pinned or not (R367). -/
theorem slotIn_entry_reset (g m : Nat) (hm : m < 4) : slotIn (State.reset.plat.entry g) m = m := by
  have slots : ∀ (pin : Bool) (m : Fin 4), slotIn (0xE4 ||| if pin then 0x100 else 0) m = m := by decide
  exact slots (State.reset.plat.pinned g) ⟨m, hm⟩

theorem platformWf_reset : platformWf State.reset.plat := by
  refine ⟨fun g => ?_, fun b hb => ?_, fun f hf => ?_, by decide⟩
  · rw [List.map_congr_left fun m hm => slotIn_entry_reset g m (List.mem_range.mp hm), List.map_id']
    exact List.nodup_range
  · rw [List.eq_of_mem_replicate hb]; decide
  · rw [List.eq_of_mem_replicate hf]; decide

theorem resetQueues_disabled {i : Nat} (h : 0 < i) : (resetQueues.getD i {}).enabled = false := by
  obtain ⟨j, rfl⟩ := Nat.exists_eq_succ_of_ne_zero (Nat.ne_of_gt h)
  rw [resetQueues, List.getD_cons_succ, List.getD_eq_getElem?_getD, List.getElem?_replicate]
  split <;> rfl

/-- Settles O58: each part is what `State.reset` was given, and both invariants are shown of it above. -/
theorem resetState : Obligations.ResetState := by
  unfold Obligations.ResetState
  refine ⟨rfl, rfl, rfl, rfl, fun x => ?_, rfl, rfl, rfl, rfl, fun i hi => resetQueues_disabled hi, fun b hb => List.eq_of_mem_replicate hb,
    fun f hf => List.eq_of_mem_replicate hf, fun k hk => ?_, rfl, resetOf_part, rfl, rfl, rfl, memoryWf_reset, platformWf_reset⟩
  · simp only [Chip.ctx?, State.reset, State.resetOf, Chip.resetOf, List.getElem?_replicate]
    split <;> rfl
  · rw [List.eq_of_mem_replicate hk]

end Sys2Proof.Machine
end

section
/-! BarrierUpdates (O32). -/

namespace Sys2Proof.Machine

/-! ### Bytes written at their locations -/

theorem takesStores_putByte {c : Chip} {l m : Loc} {v : Byte} : takesStores (c.putByte l v) m ↔ takesStores c m := by
  cases l with
  | dev pa =>
    unfold Chip.putByte
    dsimp only
    split
    · rfl
    · cases m <;> rfl
  | host pa => cases m <;> rfl
  | scr n off =>
    cases m with
    | dev pb => rfl
    | host pb => rfl
    | scr k b => simp [Chip.putByte, takesStores, modAt]

/-- Bytes written at distinct locations that take stores read back. -/
theorem Chip.readLocs_writeLocs {ls : List Loc} {bs : List Byte} (hlen : bs.length = ls.length) (hnd : ls.Nodup) {c : Chip}
    (hst : ∀ l ∈ ls, takesStores c l) : (c.writeLocs ls bs).readLocs ls = bs := by
  induction ls generalizing bs c with
  | nil => exact (List.length_eq_zero_iff.mp hlen).symm
  | cons l ls ih =>
    obtain ⟨b, bs, rfl⟩ := List.exists_cons_of_length_eq_add_one hlen
    obtain ⟨hl, hnd⟩ := List.nodup_cons.mp hnd
    have hfirst : ((c.putByte l b).writeLocs ls bs).byteAt l = b :=
      (byteAt_writeLocs_out hl _).trans (byteAt_putByte_self (hst l List.mem_cons_self))
    have hrest := ih (by simpa using hlen) hnd (c := c.putByte l b) fun m hm => takesStores_putByte.mpr (hst m (List.mem_cons_of_mem _ hm))
    exact congr (congrArg _ hfirst) hrest

/-- Writing bytes changes memory, what is known of its errors, and scratch. -/
theorem Chip.writeLocs_besides (c : Chip) (ls : List Loc) (bs : List Byte) :
    { c.writeLocs ls bs with dev := c.dev, host := c.host, bad := c.bad, cores := c.cores } = c := by
  refine foldl_keeps (P := fun d : Chip => { d with dev := c.dev, host := c.host, bad := c.bad, cores := c.cores } = c) (fun d e hd => ?_) (ls.zip bs) rfl
  obtain ⟨l, v⟩ := e
  cases l with
  | dev pa =>
    unfold Chip.putByte
    dsimp only
    split <;> exact hd
  | host pa => exact hd
  | scr n off => exact hd

/-! ### Barrier objects -/

/-- Each field of an object lies in the range of its bits (R16). -/
def BarObj.Fits (o : BarObj) : Prop :=
  o.arrivals < 2 ^ 16 ∧ o.expected < 2 ^ 16 ∧ o.phase < 2 ^ 32 ∧ ∃ y, o.pending = signed 32 y

theorem BarObj.fits_read (x : Nat) : (BarObj.read x).Fits :=
  ⟨Nat.mod_lt _ (by decide), Nat.mod_lt _ (by decide), Nat.mod_lt _ (by decide), _, rfl⟩

/-- A word's signed value has the word as its pattern. -/
theorem pattern_signed (x : Nat) : pattern 32 (signed 32 x) = x % 2 ^ 32 := by
  unfold pattern signed
  split <;> omega

theorem signed_mod (x : Nat) : signed 32 (x % 2 ^ 32) = signed 32 x := by
  unfold signed
  rw [Nat.mod_mod]

/-- WRAP of R99, as the model and as the statements write it. -/
theorem signed_pattern (y : Int) : signed 32 (pattern 32 y) = (BitVec.ofInt 32 y).toInt := by
  unfold signed pattern
  rw [BitVec.toInt_eq_toNat_cond, BitVec.toNat_ofInt]
  split <;> split <;> omega

theorem b01_lt_two (b : Bool) : b01 b < 2 := by cases b <;> decide

theorem b01_eq_one (b : Bool) : decide (b01 b = 1) = b := by cases b <;> rfl

/-- The object's number, by its fields in range (R16). -/
theorem BarObj.bits_write {o : BarObj} (h : o.Fits) :
    o.write < 2 ^ 128 ∧ bits o.write 15 0 = o.arrivals ∧ bits o.write 31 16 = o.expected ∧ bits o.write 63 32 = o.phase ∧
      bits o.write 95 64 = pattern 32 o.pending ∧ bits o.write 96 96 = b01 o.gated ∧ bits o.write 97 97 = b01 o.remote ∧
      bits o.write 98 98 = b01 o.excess := by
  obtain ⟨harr, hexp, hph, y, hy⟩ := h
  have hp : pattern 32 o.pending < 2 ^ 32 := by rw [hy, pattern_signed]; exact Nat.mod_lt _ (by decide)
  have he := b01_lt_two o.excess
  have hr := b01_lt_two o.remote
  have hg := b01_lt_two o.gated
  simp only [BarObj.write, bits, fld_eq, Nat.shiftRight_eq_div_pow, Nat.reduceSub, Nat.reduceAdd, Nat.reducePow]
  omega

theorem bit_eq_bits (x i : Nat) : bit x i = decide (bits x i i = 1) := by
  simp [bit, bits, Nat.testBit_eq_decide_div_mod_eq, Nat.shiftRight_eq_div_pow]

/-- An object in range reads back as it was written. -/
theorem BarObj.read_write {o : BarObj} (h : o.Fits) : BarObj.read (ofLe (leBytes 16 o.write)) = o := by
  obtain ⟨hlt, harr, hexp, hph, hpend, hgat, hrem, hexc⟩ := BarObj.bits_write h
  obtain ⟨-, -, -, y, hy⟩ := h
  have hsig : signed 32 (pattern 32 o.pending) = o.pending := by rw [hy, pattern_signed, signed_mod]
  rw [ofLe_leBytes, Nat.mod_eq_of_lt (by exact hlt)]
  simp only [BarObj.read, bit_eq_bits, harr, hexp, hph, hpend, hgat, hrem, hexc, hsig, b01_eq_one]

/-- The phase-completion check, with the condition of R17 in words of logic. -/
theorem BarObj.check_eq (o : BarObj) : o.check =
    if o.arrivals = o.expected ∧ (o.gated = true → o.pending = 0) then { o with phase := (o.phase + 1) % 2 ^ 32, arrivals := 0 } else o := by
  simp [BarObj.check, BarObj.complete, Decidable.imp_iff_not_or]

/-- The model's update is the one of R17 where the count of arrivals has room. -/
theorem BarObj.update_eq_barrierAfter {o : BarObj} (h : o.arrivals < 2 ^ 16 - 1) (arrive : Bool) (add : Int) :
    o.update arrive add = barrierAfter o arrive add := by
  have hroom : (o.arrivals + 1) % 2 ^ 16 = o.arrivals + 1 := Nat.mod_eq_of_lt (by omega)
  unfold BarObj.update barrierAfter
  cases arrive with
  | false => simp only [BarObj.check_eq, signed_pattern, Bool.false_eq_true, false_and, ↓reduceIte]
  | true => simp only [BarObj.check_eq, signed_pattern, hroom, true_and, ↓reduceIte]

theorem BarObj.Fits.check {o : BarObj} (h : o.Fits) : o.check.Fits := by
  unfold BarObj.check
  split
  · exact ⟨Nat.two_pow_pos 16, h.2.1, Nat.mod_lt _ (Nat.two_pow_pos 32), h.2.2.2⟩
  · exact h

/-- An update keeps the object in range. -/
theorem BarObj.Fits.update {o : BarObj} (h : o.Fits) (arrive : Bool) (add : Int) : (o.update arrive add).Fits := by
  obtain ⟨harr, hexp, hph, -⟩ := h
  unfold BarObj.update
  dsimp only
  split
  · split
    · exact ⟨harr, hexp, hph, _, rfl⟩
    · exact BarObj.Fits.check ⟨Nat.mod_lt _ (by decide), hexp, hph, _, rfl⟩
  · exact BarObj.Fits.check ⟨harr, hexp, hph, _, rfl⟩

/-! ### The update at the home -/

theorem Chip.barObj_congr {c d : Chip} (h : ∀ l, d.byteAt l = c.byteAt l) (ls : List Loc) : d.barObj ls = c.barObj ls := by
  simp only [Chip.barObj, Chip.readLocs, funext h]

/-- The phase copies of windows are no bytes (R59). -/
@[simp] theorem Chip.byteAt_copyPhase (c : Chip) (a : Loc) (phase : Nat) (l : Loc) : (c.copyPhase a phase).byteAt l = c.byteAt l := by
  cases l with
  | dev pa => rfl
  | host pa => rfl
  | scr n off =>
    simp only [Chip.byteAt, Chip.core, Chip.copyPhase, List.getD_eq_getElem?_getD, List.getElem?_mapIdx]
    cases c.cores[n]? <;> rfl

/-- An update of an object writes its 16 bytes. -/
theorem Chip.byteAt_updateObj (c : Chip) (ls : List Loc) (arrive : Bool) (add : Int) (l : Loc) :
    (c.updateObj ls arrive add).byteAt l = (c.writeLocs ls (leBytes 16 ((c.barObj ls).update arrive add).write)).byteAt l := by
  unfold Chip.updateObj
  dsimp only
  split
  · rfl
  · cases ls with
    | nil => rfl
    | cons a ls => exact byteAt_copyPhase _ _ _ _

theorem Chip.byteAt_updateObj_out {c : Chip} {ls : List Loc} {l : Loc} (h : l ∉ ls) (arrive : Bool) (add : Int) :
    (c.updateObj ls arrive add).byteAt l = c.byteAt l :=
  (byteAt_updateObj c ls arrive add l).trans (byteAt_writeLocs_out h c)

/-- An object whose bytes take stores is updated (R17). -/
theorem Chip.barObj_updateObj {c : Chip} {ls : List Loc} (hlen : ls.length = 16) (hnd : ls.Nodup) (hst : ∀ l ∈ ls, takesStores c l)
    (arrive : Bool) (add : Int) : (c.updateObj ls arrive add).barObj ls = (c.barObj ls).update arrive add := by
  rw [barObj_congr (byteAt_updateObj c ls arrive add), Chip.barObj, readLocs_writeLocs (by simp [hlen]) hnd hst]
  exact BarObj.read_write ((BarObj.fits_read _).update arrive add)

/-- An update of an object changes memory, what is known of its errors, and cores. -/
theorem Chip.updateObj_besides (c : Chip) (ls : List Loc) (arrive : Bool) (add : Int) :
    { c.updateObj ls arrive add with dev := c.dev, host := c.host, bad := c.bad, cores := c.cores } = c := by
  have h := writeLocs_besides c ls (leBytes 16 ((c.barObj ls).update arrive add).write)
  unfold Chip.updateObj
  dsimp only
  split
  · exact h
  · cases ls <;> exact h

theorem Chip.updateObj_squads (c : Chip) (ls : List Loc) (arrive : Bool) (add : Int) : (c.updateObj ls arrive add).squads = c.squads := by
  have h := congrArg Chip.squads (updateObj_besides c ls arrive add)
  exact h

theorem Chip.updateObj_fab (c : Chip) (ls : List Loc) (arrive : Bool) (add : Int) : (c.updateObj ls arrive add).fab = c.fab := by
  have h := congrArg Chip.fab (updateObj_besides c ls arrive add)
  exact h

/-! ### What an applied update lets go on -/

/-- A command that sends no signal sends none. -/
theorem Chip.signal_unasked {c : Chip} {k : FabCmd} (h : k.signal = false) : c.signal k = c := by
  unfold Chip.signal
  cases k.bar <;> simp [h]

@[simp] theorem Chip.byteAt_finish (c : Chip) (n slot num : Nat) (failed : Bool) (l : Loc) : (c.finish n slot num failed).byteAt l = c.byteAt l := by
  rw [Chip.finish, byteAt_modCore]
  exact fun _ => rfl

@[simp] theorem Chip.byteAt_withFab (c : Chip) (f : Fabric) (l : Loc) : ({ c with fab := f } : Chip).byteAt l = c.byteAt l := by cases l <;> rfl

@[simp] theorem Chip.byteAt_modFab (c : Chip) (id : Nat) (f : FabCmd → FabCmd) (l : Loc) : (c.modFab id f).byteAt l = c.byteAt l := by
  unfold Chip.modFab
  exact byteAt_withFab c _ l

/-- Settling a command that sends no signal changes no byte and no update under way. -/
theorem Chip.settleFab_unasked {c : Chip} {id : Nat} (h : ∀ k ∈ c.fab.cmds, k.id = id → k.signal = false) :
    (∀ l, (c.settleFab id).byteAt l = c.byteAt l) ∧ (c.settleFab id).updates = c.updates := by
  unfold Chip.settleFab
  cases hk : c.fab.cmds.find? fun k => k.id == id with
  | none => exact ⟨fun _ => rfl, rfl⟩
  | some k =>
    have hsig := h k (List.mem_of_find?_eq_some hk) (by simpa using List.find?_some hk)
    simp only [signal_unasked hsig, hk, byteAt_withFab]
    split
    · split
      · exact ⟨fun l => by simp, rfl⟩
      · exact ⟨fun l => by simp, rfl⟩
    · exact ⟨fun _ => rfl, rfl⟩

/-! ### The squad that is answered -/

/-- What a write to a uniform register does to every one of them. -/
theorem Exe.uniReg_setUni (e : Exe) (k v j : Nat) : (e.setUni k v).uniReg j = if j = k then BitVec.ofNat 32 v else e.uniReg j := by
  simp only [Exe.uniReg, setUni_uni, Sparse.get_set, eq_comm]

/-- A write to a uniform destination of one register (R87). -/
theorem Exe.putUni_written (e : Exe) (code : Code) (v : Nat) : uniWritten false code v e (e.putUni false code v) := by
  have hcode : code = 0xF3 ↔ code.toNat = 0xF3 := BitVec.toNat_inj.symm
  unfold uniWritten Exe.putUni
  by_cases h : code.toNat = 0xF3
  · simp only [h, hcode, ne_eq, not_true_eq_false, false_and, ↓reduceIte]
    exact ⟨fun _ => trivial, trivial, trivial, rfl⟩
  · simp only [h, hcode, ne_eq, not_false_eq_true, true_and, Bool.false_eq_true, false_and, ↓reduceIte]
    exact ⟨e.uniReg_setUni _ _, rfl, rfl, rfl⟩

theorem Squad.lower_eq (q : Squad) (p : Option Nat) : q.lower p = { q with pennants := (q.lower p).pennants } := by cases p <;> rfl

/-- The squad whose `bar.arr` or `barx` the home has applied: its pennant falls and its token register takes the phase (R195). -/
def BarUpdate.answered (u : BarUpdate) (phase : Nat) (q : Squad) : Squad :=
  match u.token with
  | some t => { q.lower u.pennant with exe := (q.lower u.pennant).exe.putUni false t phase }
  | none => q.lower u.pennant

theorem BarUpdate.answered_uid (u : BarUpdate) (phase : Nat) (q : Squad) : (u.answered phase q).uid = q.uid := by
  unfold BarUpdate.answered
  rw [Squad.lower_eq]
  split <;> rfl

theorem BarUpdate.answered_effect (u : BarUpdate) (phase : Nat) (q : Squad) :
    (u.answered phase q).pennants = (q.lower u.pennant).pennants ∧
      match u.token with
      | some code => uniWritten false code phase q.exe (u.answered phase q).exe
      | none => (u.answered phase q).exe = q.exe := by
  unfold BarUpdate.answered
  cases u.token with
  | some code => exact ⟨rfl, by rw [Squad.lower_eq]; exact Exe.putUni_written _ _ _⟩
  | none => exact ⟨rfl, by rw [Squad.lower_eq]⟩

/-! ### BARRIER_UPDATE -/

/-- An update of an object is applied and no longer under way. -/
def Chip.applyUpdate (c : Chip) (u : BarUpdate) : Chip :=
  { c.updateObj u.locs u.arrive u.add with updates := c.updates.filter fun x => x.id != u.id }

/-- An engine's update or a signal is applied, which is on record (R50). -/
def Chip.applyCount (c : Chip) (u : BarUpdate) : Chip :=
  { c.countObj u.locs u.arrive u.add with updates := c.updates.filter fun x => x.id != u.id }

theorem Chip.byteAt_applyUpdate (c : Chip) (u : BarUpdate) (l : Loc) :
    (c.applyUpdate u).byteAt l = (c.updateObj u.locs u.arrive u.add).byteAt l := by cases l <;> rfl

theorem Chip.byteAt_applyCount (c : Chip) (u : BarUpdate) (l : Loc) :
    (c.applyCount u).byteAt l = (c.updateObj u.locs u.arrive u.add).byteAt l := by cases l <;> rfl

theorem Chip.applyUpdate_squads (c : Chip) (u : BarUpdate) : (c.applyUpdate u).squads = c.squads := updateObj_squads c u.locs u.arrive u.add

theorem Chip.applyCount_fab (c : Chip) (u : BarUpdate) : (c.applyCount u).fab = c.fab := updateObj_fab c u.locs u.arrive u.add

/-- The home applies an engine's update or a signal. -/
theorem Chip.barrierUpdate_engine {c : Chip} {u : BarUpdate} (hu : (c.updates.find? fun x => x.id == u.id) = some u) (huid : u.uid = none)
    (hcopy : c.inCopy u.locs = false) : c.barrierUpdate u.id = (c.applyCount u).settleGet u.cmd := by
  simp [Chip.barrierUpdate, Chip.applyCount, hu, huid, hcopy]

/-- The home applies a squad's update and answers the squad. -/
theorem Chip.barrierUpdate_squad {c : Chip} {u : BarUpdate} {k : Nat} (hu : (c.updates.find? fun x => x.id == u.id) = some u) (huid : u.uid = some k)
    (hfree : c.earlier (.squad k) u.after u.lanes = false) (hcopy : c.inCopy u.locs = false) : ∃ n, c.barrierUpdate u.id =
      ((c.applyUpdate u).l1Sync n u.ctx u.va u.locs).modSquad k (u.answered (c.barObj u.locs).phase) := by
  simp only [Chip.barrierUpdate, hu, huid, hfree, hcopy, Option.map_some, Option.getD_some, Bool.or_self, Bool.false_eq_true, Option.isSome_some, ↓reduceIte]
  exact ⟨_, rfl⟩

theorem Chip.squad?_congr {c d : Chip} (h : d.squads = c.squads) (k : Nat) : d.squad? k = c.squad? k := by
  rw [Chip.squad?, Chip.squad?, h]

theorem Chip.byteAt_modSquad (c : Chip) (k : Nat) (f : Squad → Squad) (l : Loc) : (c.modSquad k f).byteAt l = c.byteAt l := by cases l <;> rfl

theorem Chip.l1Sync_squads (c : Chip) (n ctx va : Nat) (ls : List Loc) : (c.l1Sync n ctx va ls).squads = c.squads := by
  have h := congrArg Chip.squads (l1Sync_besides c n ctx va ls)
  exact h

theorem Chip.l1Sync_updates (c : Chip) (n ctx va : Nat) (ls : List Loc) : (c.l1Sync n ctx va ls).updates = c.updates := by
  have h := congrArg Chip.updates (l1Sync_besides c n ctx va ls)
  exact h

/-- What the home leaves of an engine's update or a signal: the object's bytes are those that the update writes. -/
theorem Chip.barrierUpdate_engine_effect {c : Chip} {u : BarUpdate} (hu : (c.updates.find? fun x => x.id == u.id) = some u) (huid : u.uid = none)
    (hcopy : c.inCopy u.locs = false) (hsig : ∀ k ∈ c.fab.cmds, u.cmd = some k.id → k.signal = false) :
    (∀ l, (c.barrierUpdate u.id).byteAt l = (c.updateObj u.locs u.arrive u.add).byteAt l) ∧
      (c.barrierUpdate u.id).updates = c.updates.filter fun x => x.id != u.id := by
  rw [barrierUpdate_engine hu huid hcopy]
  cases hcmd : u.cmd with
  | none => exact ⟨byteAt_applyCount c u, rfl⟩
  | some id =>
    obtain ⟨hbytes, hupdates⟩ := settleFab_unasked (c := c.applyCount u) (id := id) fun k hk hid =>
      hsig k (applyCount_fab c u ▸ hk) (hcmd.trans (congrArg some hid.symm))
    exact ⟨fun l => (hbytes l).trans (byteAt_applyCount c u l), hupdates⟩

/-- What the home leaves of a squad's update: the same, and the squad is answered. -/
theorem Chip.barrierUpdate_squad_effect {c : Chip} {u : BarUpdate} {k : Nat} (hu : (c.updates.find? fun x => x.id == u.id) = some u) (huid : u.uid = some k)
    (hfree : c.earlier (.squad k) u.after u.lanes = false) (hcopy : c.inCopy u.locs = false) :
    (∀ l, (c.barrierUpdate u.id).byteAt l = (c.updateObj u.locs u.arrive u.add).byteAt l) ∧
      (c.barrierUpdate u.id).updates = (c.updates.filter fun x => x.id != u.id) ∧
      (c.barrierUpdate u.id).squad? k = (c.squad? k).map (u.answered (c.barObj u.locs).phase) := by
  obtain ⟨n, hstep⟩ := barrierUpdate_squad hu huid hfree hcopy
  rw [hstep]
  refine ⟨fun l => ?_, l1Sync_updates _ _ _ _ _, ?_⟩
  · rw [byteAt_modSquad, byteAt_l1Sync, byteAt_applyUpdate]
  · rw [squad?_modSquad_self fun q hq => (u.answered_uid _ q).trans hq,
      squad?_congr ((l1Sync_squads _ _ _ _ _).trans (applyUpdate_squads c u))]

/-- Settles O32: the update of an engine or a signal and that of a squad write the same bytes, and the latter answers its squad. -/
theorem barrierUpdates : Obligations.BarrierUpdates := by
  unfold Obligations.BarrierUpdates
  intro s u hu hfree hsig hcopy hlen hnd hst hroom
  have object : ∀ d : Chip, (∀ l, d.byteAt l = (s.chip.updateObj u.locs u.arrive u.add).byteAt l) →
      d.barObj u.locs = barrierAfter (s.chip.barObj u.locs) u.arrive u.add ∧ ∀ l, l ∉ u.locs → d.byteAt l = s.chip.byteAt l := fun d hd =>
    ⟨(Chip.barObj_congr hd _).trans ((Chip.barObj_updateObj hlen hnd hst _ _).trans (BarObj.update_eq_barrierAfter hroom _ _)),
      fun l hl => (hd l).trans (Chip.byteAt_updateObj_out hl _ _)⟩
  refine ⟨{ s with chip := s.chip.barrierUpdate u.id }, rfl, ?_⟩
  cases huid : u.uid with
  | none =>
    obtain ⟨hbytes, hupdates⟩ := Chip.barrierUpdate_engine_effect hu huid hcopy (hsig huid)
    obtain ⟨hobj, hframe⟩ := object _ hbytes
    exact ⟨hobj, hframe, hupdates, rfl, fun _ hq => nomatch hq⟩
  | some k =>
    obtain ⟨hbytes, hupdates, hsquad⟩ := Chip.barrierUpdate_squad_effect hu huid (hfree k huid) hcopy
    obtain ⟨hobj, hframe⟩ := object _ hbytes
    refine ⟨hobj, hframe, hupdates, rfl, fun q hq hs => ⟨u.answered (s.chip.barObj u.locs).phase q, ?_, u.answered_effect _ q⟩⟩
    cases hq
    simpa [hs] using hsquad

end Sys2Proof.Machine
end

section
/-! LaunchesStart (O48). -/

namespace Sys2Proof.Machine

/-- A launch of two squads that have places on two benches of core 0. -/
def placedPair : Launch :=
  { id := 0, ctx := 0, queue := 0, number := 0, entry := 0, args := 0, exits := 0, stackBase := 0, stackKiB := 0, declared := 8, squads := 2, musters := []
    placing := [(0, {}), (1, { bench := 1, slot := 8 })] }

/-- A machine in which bench 1 is held back by an escort that waits to move (R162), and the escort's owner is no squad yet: it bears the name that the
next dispatch gives out. Eight squads leave bench 1 a pool of 16 blocks; the escort's registers lie in 17 blocks, of which a squad of 8 registers has
none resident. -/
def escortOfNextSquad : State :=
  { chip :=
      { cores := [{}], benches := [{}, { landing := [{ uid := 8, regs := (List.range 17).map fun k => (8 * k + 8, []) }] }]
        squads := (List.range 8).map fun k => { uid := k, place := { bench := 1, slot := k }, resident := List.range 30 }
        launches := [placedPair], nextId := 8 }
    plat := {}, agenda := [] }

theorem escortOfNextSquad_dispatchable : escortOfNextSquad.chip.dispatchable = some placedPair := by decide

/-- Only the squad on bench 0 may be dispatched. -/
theorem escortOfNextSquad_mayDispatch :
    (placedPair.placing.filter fun x => escortOfNextSquad.chip.mayDispatch placedPair x) = [(0, {})] := by decide

/-- Its dispatch makes the escort one of a squad for which the pool lacks blocks: bench 1 is no longer held back, and both squads go. -/
theorem escortOfNextSquad_unitStep : (unitStep escortOfNextSquad).chip.squads.length = escortOfNextSquad.chip.squads.length + 2 := by decide

/-- Refutes O48, by its clause on squads that keep a place, since it speaks of every state: where an escort waits for a name that no squad bears yet,
the first dispatch can free a bench that was held back, and a squad goes that was not one of those that might be dispatched. -/
theorem not_launchesStart : ¬ Obligations.LaunchesStart := by
  unfold Obligations.LaunchesStart
  rintro ⟨-, -, dispatch, -⟩
  have roomFor : ∀ n b, (([(0, {})] : List (Nat × Place)).filter fun x => x.2.core == n && x.2.bench == b).length * (placedPair.declared / 8) ≤
      escortOfNextSquad.chip.pool n b := by
    intro n b
    by_cases h : n = 0 ∧ b = 0
    · obtain ⟨rfl, rfl⟩ := h
      decide
    · rw [List.filter_eq_nil_iff.mpr (by simpa using fun hn hb => h ⟨Eq.symm hn, Eq.symm hb⟩)]
      exact Nat.zero_le _
  obtain ⟨t, qs, -, hstep, hsquads, hqs, -⟩ := dispatch escortOfNextSquad placedPair escortOfNextSquad_dispatchable rfl
    (by rw [escortOfNextSquad_mayDispatch]; exact roomFor)
  have hlen : qs.length = 1 := by simpa [escortOfNextSquad_mayDispatch] using congrArg List.length hqs
  have ht : unitStep escortOfNextSquad = t := by injection hstep
  have hcount := escortOfNextSquad_unitStep
  rw [ht, hsquads, List.length_append, hlen] at hcount
  omega

end Sys2Proof.Machine
end
